-- ==== Sys2Proof/Word.lean ====
section
/-! DEFINITION. The word types of the CN740 and their plainest operations (00_scope R5). -/
namespace Sys2Proof

/-- A 64-bit scalar value. -/
abbrev W64 := BitVec 64
/-- A 32-bit instruction word or lane. -/
abbrev W32 := BitVec 32
/-- A byte of memory. -/
abbrev Byte := BitVec 8

end Sys2Proof
end

