-- ==== Sys2Proof/Config.lean ====
section
/-! DEFINITION. What the spec leaves open or each module fixes for itself. Every constant here is opaque: nothing can be
proved of its value, so a statement holds whatever it is. -/
namespace Sys2Proof.Config

/-- The value of an unpredictable byte, by the number the machine drew for it (R13, R220, R333). -/
opaque freeByte : Nat → BitVec 8
/-- Which of the values R10 allows a register-stack entry holds that its strand has not written: strand number and index; the caller
reduces it to the number of values. -/
opaque stackChoice : Nat → Nat → Nat
/-- A free choice, by the number the machine drew for it; the caller reduces it to the range of the choice. -/
opaque pick : Nat → Nat
/-- Whether an access translates under a cached leaf that differs from the table's, by cycle and address (R280). -/
opaque oldLeaf : Nat → Nat → Bool
/-- A value the spec states no result for, by the number the machine drew for it. -/
opaque freeWord : Nat → BitVec 64
/-- The ML-DSA-87 signature of a digest under the identity key, whose private half the spec does not give (R369): its bytes, by place. -/
opaque mldsaSign : List (BitVec 8) → Nat → BitVec 8
/-- A byte of the tile data that a view engine codes a picture as (R351): the picture's sample values, the quantiser, and the number the machine
drew for the place. -/
opaque tileByte : List Nat → Nat → Nat → BitVec 8
/-- SERIAL (R366). -/
opaque serialNo : BitVec 64
/-- FWVER of a firmware image (R366). -/
opaque firmwareVersion : List (BitVec 8) → BitVec 64
/-- IDKEY: the digest of the identity public key, 64 bytes (R366). -/
opaque idKey : List (BitVec 8)

end Sys2Proof.Config
end

