-- ==== Sys2Proof/Machine/Formats.lean ====
section
/-! DEFINITION. The number formats of 04_number_formats: the exact value of every code (R78 to R83) and the code of
every representable value. Exact values are rationals; nothing here rounds. -/
namespace Sys2Proof.Machine

/-- An exact operand value (R82, R83): a NaN (signalling or quiet), an infinity, or a signed magnitude. The magnitude is
never negative; a zero keeps its sign. -/
inductive FV where
  | nan (signalling : Bool)
  | inf (neg : Bool)
  | num (neg : Bool) (mag : Rat)
  deriving DecidableEq, Repr

/-- The rational a finite value stands for; 0 for a NaN or an infinity. -/
def FV.toRat : FV → Rat
  | .num neg mag => if neg then -mag else mag
  | _ => 0

/-- A finite value from a rational, a zero taking the given sign. -/
def FV.ofRat (r : Rat) (zeroNeg : Bool := false) : FV :=
  if r = 0 then .num zeroNeg 0 else if r < 0 then .num true (-r) else .num false r

/-- The sign bit of a value; a NaN counts as positive. -/
def FV.neg : FV → Bool
  | .nan _ => false
  | .inf n => n
  | .num n _ => n

/-- A NaN of either kind. -/
def FV.isNaN : FV → Bool
  | .nan _ => true
  | _ => false

/-- A signalling NaN. -/
def FV.isSignalling : FV → Bool
  | .nan s => s
  | _ => false

/-- An infinity. -/
def FV.isInf : FV → Bool
  | .inf _ => true
  | _ => false

/-- A zero of either sign. -/
def FV.isZero : FV → Bool
  | .num _ m => m == 0
  | _ => false

/-- The value with its sign inverted. -/
def FV.negate : FV → FV
  | .nan s => .nan s
  | .inf n => .inf (!n)
  | .num n m => .num (!n) m

/-- The value with its sign made positive. -/
def FV.abs : FV → FV
  | .nan s => .nan s
  | .inf _ => .inf false
  | .num _ m => .num false m

/-- 2^e for an integer exponent. -/
def pow2 (e : Int) : Rat := if 0 ≤ e then ((2 ^ e.toNat : Nat) : Rat) else mkRat 1 (2 ^ (-e).toNat)

/-- The greatest e with 2^e ≤ r, for r > 0. -/
def floorLog2 (r : Rat) : Int :=
  let p := r.num.natAbs
  let e : Int := (Nat.log2 p : Int) - (Nat.log2 r.den : Int)
  if pow2 e ≤ r then e else e - 1

/-- How a float format spells its NaNs (Table 4-2). -/
inductive NanStyle where
  | none
  | ieee
  | top
  deriving DecidableEq, Repr

/-- The parameters of a float format (Table 4-2). `shift` is how far the code sits above bit 0 of its container. -/
structure FloatFmt where
  e : Nat
  m : Nat
  bias : Nat
  hasInf : Bool
  nan : NanStyle
  shift : Nat
  deriving DecidableEq, Repr

/-- The float formats, by code (Table 4-2). -/
def floatFmt (f : BitVec 5) : Option FloatFmt :=
  match f.toNat with
  | 10 => some ⟨2, 1, 1, false, .none, 0⟩
  | 11 => some ⟨2, 3, 1, false, .none, 0⟩
  | 12 => some ⟨3, 2, 3, false, .none, 0⟩
  | 13 => some ⟨4, 3, 7, false, .top, 0⟩
  | 14 => some ⟨5, 2, 15, true, .ieee, 0⟩
  | 15 => some ⟨3, 4, 3, false, .top, 0⟩
  | 16 => some ⟨2, 5, 1, false, .none, 0⟩
  | 17 => some ⟨8, 7, 127, true, .ieee, 0⟩
  | 18 => some ⟨5, 10, 15, true, .ieee, 0⟩
  | 19 => some ⟨8, 23, 127, true, .ieee, 0⟩
  | 20 => some ⟨8, 10, 127, true, .ieee, 13⟩
  | _ => none

/-- binary32 (Table 4-2). -/
def fp32 : FloatFmt := ⟨8, 23, 127, true, .ieee, 0⟩
/-- binary16 (Table 4-2). -/
def fp16 : FloatFmt := ⟨5, 10, 15, true, .ieee, 0⟩
/-- BF16 (Table 4-2). -/
def bf16 : FloatFmt := ⟨8, 7, 127, true, .ieee, 0⟩

/-- The exponent field of the largest finite value. -/
def FloatFmt.topE (F : FloatFmt) : Nat := if F.nan = .ieee then 2 ^ F.e - 2 else 2 ^ F.e - 1
/-- The mantissa field of the largest finite value. -/
def FloatFmt.topM (F : FloatFmt) : Nat := if F.nan = .top then 2 ^ F.m - 2 else 2 ^ F.m - 1
/-- The largest finite value (Table 4-2). -/
def FloatFmt.maxFin (F : FloatFmt) : Rat :=
  ((2 ^ F.m + F.topM : Nat) : Rat) * pow2 ((F.topE : Int) - F.bias - F.m)
/-- The least normal value (Table 4-2). -/
def FloatFmt.minNormal (F : FloatFmt) : Rat := pow2 (1 - (F.bias : Int))
/-- The formats that status.FTZ touches: FP32, FP16 and BF16 (R85, R96). -/
def FloatFmt.flushes (F : FloatFmt) : Bool := F = fp32 || F = fp16 || F = bf16

/-- The exact value of a float code (R82, R83). -/
def FloatFmt.decode (F : FloatFmt) (code : Nat) : FV :=
  let c := code / 2 ^ F.shift
  let M := c % 2 ^ F.m
  let E := c / 2 ^ F.m % 2 ^ F.e
  let neg := c / 2 ^ (F.m + F.e) % 2 == 1
  let fin : FV :=
    if E = 0 then .num neg ((M : Rat) * pow2 (1 - (F.bias : Int) - F.m))
    else .num neg (((2 ^ F.m + M : Nat) : Rat) * pow2 ((E : Int) - F.bias - F.m))
  match F.nan with
  | .none => fin
  | .top => if E = 2 ^ F.e - 1 ∧ M = 2 ^ F.m - 1 then .nan false else fin
  | .ieee =>
    if E = 2 ^ F.e - 1 then
      if M = 0 then .inf neg else .nan (M < 2 ^ (F.m - 1))
    else fin

/-- The canonical quiet NaN (R83); 0 in a format without NaN codes. -/
def FloatFmt.canonNaN (F : FloatFmt) : Nat :=
  match F.nan with
  | .none => 0
  | .top => (2 ^ (F.e + F.m) - 1) * 2 ^ F.shift
  | .ieee => ((2 ^ F.e - 1) * 2 ^ F.m + 2 ^ (F.m - 1)) * 2 ^ F.shift

/-- The code of a value the format holds exactly (R82). -/
def FloatFmt.encode (F : FloatFmt) (v : FV) : Nat :=
  match v with
  | .nan _ => F.canonNaN
  | .inf neg => ((if neg then 2 ^ (F.e + F.m) else 0) + (2 ^ F.e - 1) * 2 ^ F.m) * 2 ^ F.shift
  | .num neg mag =>
    let s := if neg then 2 ^ (F.e + F.m) else 0
    if mag = 0 then s * 2 ^ F.shift
    else
      let e := floorLog2 mag
      let body : Nat :=
        if e < 1 - (F.bias : Int) then (mag / pow2 (1 - (F.bias : Int) - F.m)).floor.toNat
        else (e + F.bias - 1).toNat * 2 ^ F.m + (mag / pow2 (e - F.m)).floor.toNat
      (s + body) * 2 ^ F.shift

/-- The kinds of format code (R78). -/
inductive FmtKind where
  | int (lo hi : Int) (signed : Bool) (bits : Nat)
  | tri5
  | float (F : FloatFmt)
  | norm (signed : Bool) (bits : Nat)
  | lut (bits : Nat)
  | scale8
  | scale4
  deriving DecidableEq, Repr

/-- Every format code (Table 4-1). -/
def fmtKind (f : BitVec 5) : FmtKind :=
  match f.toNat with
  | 0 => .int (-1) 1 true 2
  | 1 => .tri5
  | 2 => .int (-2) 1 true 2
  | 3 => .int 0 3 false 2
  | 4 => .int (-8) 7 true 4
  | 5 => .int 0 15 false 4
  | 6 => .int (-128) 127 true 8
  | 7 => .int 0 255 false 8
  | 8 => .int (-32768) 32767 true 16
  | 9 => .int (-2147483648) 2147483647 true 32
  | 10 => .float ⟨2, 1, 1, false, .none, 0⟩
  | 11 => .float ⟨2, 3, 1, false, .none, 0⟩
  | 12 => .float ⟨3, 2, 3, false, .none, 0⟩
  | 13 => .float ⟨4, 3, 7, false, .top, 0⟩
  | 14 => .float ⟨5, 2, 15, true, .ieee, 0⟩
  | 15 => .float ⟨3, 4, 3, false, .top, 0⟩
  | 16 => .float ⟨2, 5, 1, false, .none, 0⟩
  | 17 => .float bf16
  | 18 => .float fp16
  | 19 => .float fp32
  | 20 => .float ⟨8, 10, 127, true, .ieee, 13⟩
  | 21 => .int 0 65535 false 16
  | 22 => .norm false 8
  | 23 => .norm true 8
  | 24 => .norm false 16
  | 25 => .norm true 16
  | 26 => .norm false 4
  | 27 => .lut 4
  | 28 => .lut 8
  | 29 => .scale8
  | 30 => .scale4
  | _ => .int 0 4294967295 false 32

/-- Component width in bits (Table 1-5); TRI5 counts as 8 for the one byte that holds five digits. -/
def fmtWidth (f : BitVec 5) : Nat :=
  match f.toNat with
  | 0 | 2 | 3 => 2
  | 4 | 5 | 10 | 26 | 27 | 30 => 4
  | 11 | 12 => 6
  | 1 | 6 | 7 | 13 | 14 | 15 | 16 | 22 | 23 | 28 | 29 => 8
  | 8 | 17 | 18 | 21 | 24 | 25 => 16
  | _ => 32

/-- The int kinds, TRI2 and TRI5 among them (Table 4-1). -/
def isIntFmt (f : BitVec 5) : Bool :=
  match fmtKind f with
  | .int .. => true
  | .tri5 => true
  | _ => false

/-- A two's-complement reading of the low `bits` bits. -/
def signedOf (bits code : Nat) : Int :=
  let c := code % 2 ^ bits
  if c < 2 ^ (bits - 1) then (c : Int) else (c : Int) - 2 ^ bits

/-- The low `bits` bits of an integer, two's complement. -/
def codeOf (bits : Nat) (x : Int) : Nat := (x % (2 ^ bits : Int)).toNat

/-- The exact value of a component code, and whether the code is invalid (R79, R81). A TRI5 component is its digit. -/
def decodeFmt (f : BitVec 5) (code : Nat) : FV × Bool :=
  match fmtKind f with
  | .int lo _ signed bits =>
    if lo = -1 ∧ bits = 2 then
      let c := code % 4
      if c = 2 then (.num false 0, true) else (FV.ofRat (if c = 3 then -1 else (c : Rat)), false)
    else if signed then (FV.ofRat (signedOf bits code), false)
    else (FV.ofRat ((code % 2 ^ bits : Nat) : Rat), false)
  | .tri5 => (FV.ofRat (if code = 2 then -1 else (code : Rat)), false)
  | .float F => (F.decode code, false)
  | .norm false bits => (FV.ofRat (mkRat (code % 2 ^ bits : Nat) (2 ^ bits - 1)), false)
  | .norm true bits =>
    let s := signedOf bits code
    let d : Nat := 2 ^ (bits - 1) - 1
    (FV.ofRat (if s < -(d : Int) then -1 else mkRat s d), false)
  | .lut _ => (.num false 0, false)
  | .scale8 =>
    let c := code % 256
    if c = 255 then (.nan false, true) else (.num false (pow2 ((c : Int) - 127)), false)
  | .scale4 => (.num false (pow2 ((code % 16 : Nat) - 7 : Int)), false)

/-- The digits of a TRI5 byte, least significant first, and whether the byte is invalid (R79). -/
def tri5Digits (b : Nat) : List Nat × Bool :=
  if 243 ≤ b then ([0, 0, 0, 0, 0], true)
  else ([b % 3, b / 3 % 3, b / 9 % 3, b / 27 % 3, b / 81 % 3], false)

/-- The TRI5 byte of five digits (R79). -/
def tri5Byte : List Nat → Nat
  | [] => 0
  | d :: r => d + 3 * tri5Byte r

/-- The code of a ternary value: TRI2 bits or a TRI5 digit (R79). -/
def triCode (tri5 : Bool) (q : Int) : Nat := if q = 0 then 0 else if q < 0 then (if tri5 then 2 else 3) else 1

end Sys2Proof.Machine
end

