-- ==== Sys2Proof/Machine/Flags.lean ====
section
/-! DEFINITION. Rounding, conversion and the sticky flags they set (R84 to R87, R94 to R98), with the special values of
the vector unit's operations (R95 to R97). -/
namespace Sys2Proof.Machine

/-- The flag bits of fpflags: [5] FMTINVAL, [4] NX, [3] UF, [2] OF, [1] DZ, [0] NV (Table 1-9). -/
abbrev Flags := BitVec 6

/-- Invalid operation. -/
def flagNV : Flags := 1
/-- Division by zero. -/
def flagDZ : Flags := 2
/-- Overflow. -/
def flagOF : Flags := 4
/-- Underflow. -/
def flagUF : Flags := 8
/-- Inexact. -/
def flagNX : Flags := 16
/-- An invalid format code was read. -/
def flagFMTINVAL : Flags := 32
/-- A flag when a condition holds. -/
def flagIf (c : Bool) (f : Flags) : Flags := if c then f else 0

/-- The four rounding modes, in status.RM's order (R27, R84). -/
inductive RM where
  | rne
  | rtz
  | rup
  | rdn
  deriving DecidableEq, Repr

/-- status.RM (Table 1-9). -/
def RM.ofBits (b : BitVec 2) : RM :=
  match b.toNat with
  | 0 => .rne
  | 1 => .rtz
  | 2 => .rup
  | _ => .rdn

/-- A non-negative rational rounded to an integer; `neg` is the sign of the value it is the magnitude of (R84). -/
def roundMag (mode : RM) (neg : Bool) (q : Rat) : Nat :=
  let fl := q.floor.toNat
  let rest := q - (fl : Rat)
  if rest = 0 then fl
  else match mode with
    | .rtz => fl
    | .rup => if neg then fl else fl + 1
    | .rdn => if neg then fl + 1 else fl
    | .rne => if rest < mkRat 1 2 then fl else if mkRat 1 2 < rest then fl + 1 else if fl % 2 = 0 then fl else fl + 1

/-- A rational rounded to an integer (R86). -/
def roundInt (mode : RM) (r : Rat) : Int :=
  if r < 0 then -(roundMag mode true (-r) : Int) else (roundMag mode false r : Int)

/-- The magnitude on the grid of F with unbounded exponent range (R85). -/
def FloatFmt.grid (F : FloatFmt) (mode : RM) (neg : Bool) (mag : Rat) : Rat :=
  if mag = 0 then 0
  else
    let e := max (floorLog2 mag) (1 - (F.bias : Int))
    let ulp := pow2 (e - F.m)
    (roundMag mode neg (mag / ulp) : Rat) * ulp

/-- rnd(x, F, mode): the rounded value and the flags it sets (R85). -/
def rnd (F : FloatFmt) (mode : RM) (x : FV) : FV × Flags :=
  match x with
  | .nan _ => if F.nan = .none then (.num false 0, flagNV) else (.nan false, 0)
  | .inf neg => if F.hasInf then (.inf neg, 0) else (.num neg F.maxFin, flagNV)
  | .num neg mag =>
    let y := F.grid mode neg mag
    if F.maxFin < y then
      let toInf := F.hasInf && (mode = .rne || (mode = .rup && !neg) || (mode = .rdn && neg))
      (if toInf then .inf neg else .num neg F.maxFin, flagOF ||| flagNX)
    else
      (.num neg y, flagIf (y ≠ mag) flagNX ||| flagIf (y ≠ mag && 0 < y && y < F.minNormal) flagUF)

/-- A subnormal operand read under FTZ becomes a zero of its sign (R96). -/
def flushIn (F : FloatFmt) (ftz : Bool) (x : FV) : FV :=
  match x with
  | .num neg mag => if ftz && F.flushes && mag < F.minNormal then .num neg 0 else x
  | _ => x

/-- A result that would be subnormal after rounding becomes, under FTZ, a zero of its sign with UF and NX (R96). -/
def flushOut (F : FloatFmt) (ftz : Bool) (r : FV × Flags) : FV × Flags :=
  match r.1 with
  | .num neg mag =>
    if ftz && F.flushes && 0 < mag && mag < F.minNormal then (.num neg 0, r.2 ||| flagUF ||| flagNX) else r
  | _ => r

/-- rnd followed by the flush of FTZ (R94, R96). -/
def rndFtz (F : FloatFmt) (mode : RM) (ftz : Bool) (x : FV) : FV × Flags := flushOut F ftz (rnd F mode x)

/-- cvt_int: the integer a value converts to, clamped to [lo, hi] (R86). -/
def cvtInt (lo hi : Int) (mode : RM) (x : FV) : Int × Flags :=
  match x with
  | .nan _ => (0, flagNV)
  | .inf neg => (if neg then lo else hi, flagNV)
  | .num .. =>
    let q := roundInt mode x.toRat
    if q < lo then (lo, flagNV) else if hi < q then (hi, flagNV)
    else (q, flagIf ((q : Rat) ≠ x.toRat) flagNX)

/-- The conversion to a norm format of `bits` bits: its integer code before two's-complement wrapping (R86). -/
def cvtNorm (signed : Bool) (bits : Nat) (mode : RM) (x : FV) : Int × Flags :=
  let scale : Nat := if signed then 2 ^ (bits - 1) - 1 else 2 ^ bits - 1
  let lo : Rat := if signed then -1 else 0
  let (v, fl) : Rat × Flags := match x with
    | .nan _ => (0, flagNV)
    | .inf neg => (if neg then lo else 1, 0)
    | .num .. => (max lo (min 1 x.toRat), 0)
  let q := roundInt mode (v * scale)
  (q, fl ||| flagIf ((q : Rat) ≠ v * scale) flagNX)

/-- Conversion of an exact value to the code of any format that can be written (R85 to R87); lut and scale formats are
no conversion destination and give 0. A ternary code of TRI5 is its digit. -/
def toCode (f : BitVec 5) (mode : RM) (x : FV) : Nat × Flags :=
  match fmtKind f with
  | .int lo hi _ bits =>
    let (q, fl) := cvtInt lo hi mode x
    (if lo = -1 ∧ bits = 2 then triCode false q else codeOf bits q, fl)
  | .tri5 => let (q, fl) := cvtInt (-1) 1 mode x; (triCode true q, fl)
  | .float F => let (r, fl) := rnd F mode x; (F.encode r, fl)
  | .norm signed bits => let (q, fl) := cvtNorm signed bits mode x; (codeOf bits q, fl)
  | _ => (0, 0)

/-- The vector unit's conversion: FTZ acts on a side that is FP32, FP16 or BF16 (R85, R153). -/
def convertFtz (fa fb : BitVec 5) (mode : RM) (ftz : Bool) (x : FV) : Nat × Flags :=
  let x' := match fmtKind fa with
    | .float F => flushIn F ftz x
    | _ => x
  match fmtKind fb with
  | .float F => let (r, fl) := flushOut F ftz (rnd F mode x'); (F.encode r, fl)
  | _ => toCode fb mode x'

/-- The sign of an exact zero sum (IEEE 754, used by R94): the common sign, else negative only toward −∞. -/
def zeroSumNeg (mode : RM) (a b : Bool) : Bool := if a = b then a else mode = .rdn

/-- x + y exactly, before rounding, with the flags of its special values (R95). -/
def fvAdd (mode : RM) (x y : FV) : FV × Flags :=
  match x, y with
  | .nan s, .nan t => (.nan false, flagIf (s || t) flagNV)
  | .nan s, _ => (.nan false, flagIf s flagNV)
  | _, .nan s => (.nan false, flagIf s flagNV)
  | .inf a, .inf b => if a = b then (.inf a, 0) else (.nan false, flagNV)
  | .inf a, _ => (.inf a, 0)
  | _, .inf b => (.inf b, 0)
  | .num a m, .num b n =>
    (FV.ofRat (FV.toRat (.num a m) + FV.toRat (.num b n)) (zeroSumNeg mode a b), 0)

/-- x × y exactly, with the flags of its special values (R95). -/
def fvMul (x y : FV) : FV × Flags :=
  match x, y with
  | .nan s, .nan t => (.nan false, flagIf (s || t) flagNV)
  | .nan s, _ => (.nan false, flagIf s flagNV)
  | _, .nan s => (.nan false, flagIf s flagNV)
  | .inf a, .inf b => (.inf (xor a b), 0)
  | .inf a, .num b n => if n = 0 then (.nan false, flagNV) else (.inf (xor a b), 0)
  | .num a m, .inf b => if m = 0 then (.nan false, flagNV) else (.inf (xor a b), 0)
  | .num a m, .num b n => (.num (xor a b) (m * n), 0)

/-- a × b + c, fused: exact before the one rounding (R94, R95, R152). -/
def fvFma (mode : RM) (a b c : FV) : FV × Flags :=
  let (p, f) := fvMul a b
  if p.isNaN then (.nan false, f ||| flagIf c.isSignalling flagNV)
  else let (s, g) := fvAdd mode p c; (s, f ||| g)

/-- Strictly less, −0 below +0 (R95's minimumNumber order), for values that are not NaN. -/
def fvLtSigned (x y : FV) : Bool :=
  match x, y with
  | .inf a, .inf b => a && !b
  | .inf a, _ => a
  | _, .inf b => !b
  | .num a m, .num b n =>
    if m = 0 ∧ n = 0 then a && !b else decide (FV.toRat (.num a m) < FV.toRat (.num b n))
  | _, _ => false

/-- minimumNumber and maximumNumber (R95). -/
def fvMinMax (isMax : Bool) (x y : FV) : FV × Flags :=
  let fl := flagIf (x.isSignalling || y.isSignalling) flagNV
  if x.isNaN && y.isNaN then (.nan false, fl)
  else if x.isNaN then (y, fl)
  else if y.isNaN then (x, fl)
  else if fvLtSigned x y then (if isMax then y else x, fl) else (if isMax then x else y, fl)

/-- The floating relations of a comparison (R95): less, equal, unordered. -/
structure FCmp where
  lt : Bool
  eq : Bool
  un : Bool
  deriving DecidableEq, Repr

/-- Compare two values (R95); a signalling NaN sets NV. -/
def fvCompare (x y : FV) : FCmp × Flags :=
  if x.isNaN || y.isNaN then (⟨false, false, true⟩, flagIf (x.isSignalling || y.isSignalling) flagNV)
  else match x, y with
    | .inf a, .inf b => (⟨a && !b, a == b, false⟩, 0)
    | .inf a, _ => (⟨a, false, false⟩, 0)
    | _, .inf b => (⟨!b, false, false⟩, 0)
    | _, _ => (⟨decide (x.toRat < y.toRat), decide (x.toRat = y.toRat), false⟩, 0)

end Sys2Proof.Machine
end

