-- ==== Sys2Proof/Machine/Maps.lean ====
section
/-! DEFINITION. Finite maps as sorted lists of pairs: the one form every indexed part of the state is held in. -/
namespace Sys2Proof.Machine

/-- A finite map from numbers, as a list of pairs with rising keys. -/
abbrev NMap (α : Type) := List (Nat × α)

/-- The value at a key, if listed. -/
def NMap.get? {α : Type} : NMap α → Nat → Option α
  | [], _ => none
  | (k, v) :: r, i => if i = k then some v else NMap.get? r i

/-- The value at a key, or a default. -/
def NMap.getD {α : Type} (m : NMap α) (i : Nat) (d : α) : α := (NMap.get? m i).getD d

/-- Put a value at a key, keeping the keys rising. -/
def NMap.set {α : Type} : NMap α → Nat → α → NMap α
  | [], i, x => [(i, x)]
  | (k, v) :: r, i, x => if i = k then (i, x) :: r else if i < k then (i, x) :: (k, v) :: r else (k, v) :: NMap.set r i x

/-- Remove a key. -/
def NMap.erase {α : Type} : NMap α → Nat → NMap α
  | [], _ => []
  | (k, v) :: r, i => if i = k then NMap.erase r i else (k, v) :: NMap.erase r i

/-- Change the value at a key, starting from a default. -/
def NMap.modify {α : Type} (m : NMap α) (i : Nat) (d : α) (f : α → α) : NMap α := NMap.set m i (f (NMap.getD m i d))

/-- The keys rise strictly. -/
def NMap.sorted {α : Type} : NMap α → Bool
  | [] => true
  | [_] => true
  | (a, _) :: (b, v) :: r => decide (a < b) && NMap.sorted ((b, v) :: r)

/-- Replace the first element that satisfies a test. -/
def replaceFirst {α : Type} (p : α → Bool) (f : α → α) : List α → List α
  | [] => []
  | x :: r => if p x then f x :: r else x :: replaceFirst p f r

/-- Drop the first element that satisfies a test. -/
def dropFirst {α : Type} (p : α → Bool) : List α → List α
  | [] => []
  | x :: r => if p x then r else x :: dropFirst p r

end Sys2Proof.Machine
end

