-- ==== Sys2Proof/Syntax.lean ====
section
/-! DEFINITION. The instructions and the machine events of the CN740: one constructor for every row of
spec/opcode_table.json, in the table's order. Encodable rows carry the operand fields of Tables 3-10 to 3-16
(03_encoding_and_opcode_map); event rows name the agent the event happens to and whatever the outside world supplies. -/
namespace Sys2Proof

/-- A guard: predicate p0-p7 and its negation (R61, R22). -/
structure Guard where
  n : Bool
  p : BitVec 3
  deriving DecidableEq, Repr

/-- The guard of an unguarded instruction: p0, not negated (R61). -/
def Guard.always : Guard := ⟨false, 0⟩

/-- A scalar or vector register field (R68, Table 3-9). -/
abbrev Reg := BitVec 5

/-- The fields of an engine command's two extension words (R64, R65, Table 3-6). -/
structure EngineWords where
  te : Bool
  conv : Bool
  z : Bool
  ssp : BitVec 3
  fb : BitVec 5
  fa : BitVec 5
  dsp : BitVec 3
  tag : BitVec 6
  q : BitVec 4
  si : BitVec 4
  ss : BitVec 8
  wt : BitVec 8
  ws : BitVec 8
  deriving DecidableEq, Repr

/-- Who performs a memory access: a strand in a slot, an engine hart, a transform coprocessor or a view engine (R238, R250). -/
inductive Agent where
  | slot (n : Nat)
  | hart (n : Nat)
  | coproc (n : Nat)
  | view (n : Nat)
  deriving DecidableEq, Repr

/-- Why a word is no instruction; each of these is ILLEGAL_INSTR for the strand that issues it (R70). -/
inductive Reject where
  | noSuchOpcode
  | noSuchFunction
  | badLength
  | reservedField
  | operandRange
  | literalRange
  | spaceCode
  | qualifier
  | formatCode
  | engineField
  | sameOperand
  | portOperand
  | tooShort
  deriving DecidableEq, Repr

/-- One constructor per row of the opcode table. -/
inductive Instr where
  /-- NOP. Does nothing except advance the PC, and ignores the guard fields. (R71) -/
  | nop (g : Guard)
  /-- YIELD. Gives up the slot's turn until every other ready slot has issued once or 16 cycles have passed. (R122) -/
  | yield (g : Guard)
  /-- HALT. Takes the strand out of rotation until its accesses are performed and its tags are READY, then ends it. (R123) -/
  | halt (g : Guard)
  /-- MOVH_FROM_SHARED. Reads shared register hA into gD under the 8-cycle visibility rule. (R113) -/
  | movhFromShared (g : Guard) (d : Reg) (a : BitVec 3)
  /-- MOVH_TO_SHARED. Writes gA to shared register hD at issue. (R113) -/
  | movhToShared (g : Guard) (d : BitVec 3) (a : Reg)
  /-- RNG. Writes the counter-based random value rng(key, counter) to gD. (R114) -/
  | rng (g : Guard) (d a b : Reg)
  /-- JMPX. Jumps to the address in gA, or raises ALIGN if the target is misaligned. (R117) -/
  | jmpx (g : Guard) (a : Reg)
  /-- RET. Restores the register window from the link word in g7, fills entries, and returns. (R119) -/
  | ret (g : Guard)
  /-- ADD. 64-bit wrapping add of two registers. (R104) -/
  | add (g : Guard) (d a b : Reg)
  /-- ADD_LITERAL. 64-bit add of a register and the 64-bit literal. (R104) -/
  | addLiteral (g : Guard) (d a : Reg) (lit : BitVec 64)
  /-- SUB. 64-bit wrapping subtract. (R104) -/
  | sub (g : Guard) (d a b : Reg)
  /-- SUB_LITERAL. 64-bit subtract of the literal. (R104) -/
  | subLiteral (g : Guard) (d a : Reg) (lit : BitVec 64)
  /-- MUL. Low 64 bits of the product. (R104) -/
  | mul (g : Guard) (d a b : Reg)
  /-- MUL_LITERAL. Low 64 bits of the product with the literal. (R104) -/
  | mulLiteral (g : Guard) (d a : Reg) (lit : BitVec 64)
  /-- MULH. High 64 bits of the signed 128-bit product. (R104) -/
  | mulh (g : Guard) (d a b : Reg)
  /-- MULH_LITERAL. High 64 bits of the signed product with the literal. (R104) -/
  | mulhLiteral (g : Guard) (d a : Reg) (lit : BitVec 64)
  /-- DIV. Signed 64-bit division, truncating toward zero. (R104) -/
  | div (g : Guard) (d a b : Reg)
  /-- DIV_LITERAL. Signed 64-bit division by the literal. (R104) -/
  | divLiteral (g : Guard) (d a : Reg) (lit : BitVec 64)
  /-- REM. Signed 64-bit remainder. (R104) -/
  | rem (g : Guard) (d a b : Reg)
  /-- REM_LITERAL. Signed 64-bit remainder by the literal. (R104) -/
  | remLiteral (g : Guard) (d a : Reg) (lit : BitVec 64)
  /-- AND. 64-bit bitwise AND. (R104) -/
  | and (g : Guard) (d a b : Reg)
  /-- AND_LITERAL. 64-bit bitwise AND with the literal. (R104) -/
  | andLiteral (g : Guard) (d a : Reg) (lit : BitVec 64)
  /-- OR. 64-bit bitwise OR. (R104) -/
  | or (g : Guard) (d a b : Reg)
  /-- OR_LITERAL. 64-bit bitwise OR with the literal. (R104) -/
  | orLiteral (g : Guard) (d a : Reg) (lit : BitVec 64)
  /-- XOR. 64-bit bitwise XOR. (R104) -/
  | xor (g : Guard) (d a b : Reg)
  /-- XOR_LITERAL. 64-bit bitwise XOR with the literal. (R104) -/
  | xorLiteral (g : Guard) (d a : Reg) (lit : BitVec 64)
  /-- ANDN. 64-bit x AND NOT y. (R104) -/
  | andn (g : Guard) (d a b : Reg)
  /-- ANDN_LITERAL. 64-bit x AND NOT literal. (R104) -/
  | andnLiteral (g : Guard) (d a : Reg) (lit : BitVec 64)
  /-- MIN. Signed 64-bit minimum. (R104) -/
  | min (g : Guard) (d a b : Reg)
  /-- MIN_LITERAL. Signed 64-bit minimum with the literal. (R104) -/
  | minLiteral (g : Guard) (d a : Reg) (lit : BitVec 64)
  /-- MAX. Signed 64-bit maximum. (R104) -/
  | max (g : Guard) (d a b : Reg)
  /-- MAX_LITERAL. Signed 64-bit maximum with the literal. (R104) -/
  | maxLiteral (g : Guard) (d a : Reg) (lit : BitVec 64)
  /-- ADD_W. 32-bit wrapping add, with the result sign-extended. (R104) -/
  | addW (g : Guard) (d a b : Reg)
  /-- ADD_W_LITERAL. 32-bit add of the literal, with the result sign-extended. (R104) -/
  | addWLiteral (g : Guard) (d a : Reg) (lit : BitVec 64)
  /-- SUB_W. 32-bit subtract, with the result sign-extended. (R104) -/
  | subW (g : Guard) (d a b : Reg)
  /-- SUB_W_LITERAL. 32-bit subtract of the literal. (R104) -/
  | subWLiteral (g : Guard) (d a : Reg) (lit : BitVec 64)
  /-- MUL_W. Low 32 bits of the product, sign-extended. (R104) -/
  | mulW (g : Guard) (d a b : Reg)
  /-- MUL_W_LITERAL. 32-bit multiply by the literal. (R104) -/
  | mulWLiteral (g : Guard) (d a : Reg) (lit : BitVec 64)
  /-- MULH_W. High 32 bits of the signed 64-bit product. (R104) -/
  | mulhW (g : Guard) (d a b : Reg)
  /-- MULH_W_LITERAL. High 32 bits of the signed product with the literal. (R104) -/
  | mulhWLiteral (g : Guard) (d a : Reg) (lit : BitVec 64)
  /-- DIV_W. Signed 32-bit division. (R104) -/
  | divW (g : Guard) (d a b : Reg)
  /-- DIV_W_LITERAL. Signed 32-bit division by the literal. (R104) -/
  | divWLiteral (g : Guard) (d a : Reg) (lit : BitVec 64)
  /-- REM_W. Signed 32-bit remainder. (R104) -/
  | remW (g : Guard) (d a b : Reg)
  /-- REM_W_LITERAL. Signed 32-bit remainder by the literal. (R104) -/
  | remWLiteral (g : Guard) (d a : Reg) (lit : BitVec 64)
  /-- AND_W. 32-bit AND, with the result sign-extended. (R104) -/
  | andW (g : Guard) (d a b : Reg)
  /-- AND_W_LITERAL. 32-bit AND with the literal. (R104) -/
  | andWLiteral (g : Guard) (d a : Reg) (lit : BitVec 64)
  /-- OR_W. 32-bit OR, with the result sign-extended. (R104) -/
  | orW (g : Guard) (d a b : Reg)
  /-- OR_W_LITERAL. 32-bit OR with the literal. (R104) -/
  | orWLiteral (g : Guard) (d a : Reg) (lit : BitVec 64)
  /-- XOR_W. 32-bit XOR, with the result sign-extended. (R104) -/
  | xorW (g : Guard) (d a b : Reg)
  /-- XOR_W_LITERAL. 32-bit XOR with the literal. (R104) -/
  | xorWLiteral (g : Guard) (d a : Reg) (lit : BitVec 64)
  /-- ANDN_W. 32-bit x AND NOT y. (R104) -/
  | andnW (g : Guard) (d a b : Reg)
  /-- ANDN_W_LITERAL. 32-bit x AND NOT literal. (R104) -/
  | andnWLiteral (g : Guard) (d a : Reg) (lit : BitVec 64)
  /-- MIN_W. Signed 32-bit minimum. (R104) -/
  | minW (g : Guard) (d a b : Reg)
  /-- MIN_W_LITERAL. Signed 32-bit minimum with the literal. (R104) -/
  | minWLiteral (g : Guard) (d a : Reg) (lit : BitVec 64)
  /-- MAX_W. Signed 32-bit maximum. (R104) -/
  | maxW (g : Guard) (d a b : Reg)
  /-- MAX_W_LITERAL. Signed 32-bit maximum with the literal. (R104) -/
  | maxWLiteral (g : Guard) (d a : Reg) (lit : BitVec 64)
  /-- SHL. Logical left shift by a register count; F[3] selects .w. (R106) -/
  | shl (g : Guard) (w : Bool) (d a b : Reg)
  /-- SHL_LITERAL. Left shift by a literal count. (R106) -/
  | shlLiteral (g : Guard) (w : Bool) (d a : Reg) (lit : BitVec 64)
  /-- SHR. Logical right shift by a register count. (R106) -/
  | shr (g : Guard) (w : Bool) (d a b : Reg)
  /-- SHR_LITERAL. Logical right shift by a literal count. (R106) -/
  | shrLiteral (g : Guard) (w : Bool) (d a : Reg) (lit : BitVec 64)
  /-- SAR. Arithmetic right shift by a register count. (R106) -/
  | sar (g : Guard) (w : Bool) (d a b : Reg)
  /-- SAR_LITERAL. Arithmetic right shift by a literal count. (R106) -/
  | sarLiteral (g : Guard) (w : Bool) (d a : Reg) (lit : BitVec 64)
  /-- ROL. Rotate left by a register count. (R106) -/
  | rol (g : Guard) (w : Bool) (d a b : Reg)
  /-- ROL_LITERAL. Rotate left by a literal count. (R106) -/
  | rolLiteral (g : Guard) (w : Bool) (d a : Reg) (lit : BitVec 64)
  /-- CLZ. Counts leading zeros. (R106) -/
  | clz (g : Guard) (w : Bool) (d a : Reg)
  /-- CTZ. Counts trailing zeros. (R106) -/
  | ctz (g : Guard) (w : Bool) (d a : Reg)
  /-- POPC. Counts one bits. (R106) -/
  | popc (g : Guard) (w : Bool) (d a : Reg)
  /-- BREV. Reverses the bit order. (R106) -/
  | brev (g : Guard) (w : Bool) (d a : Reg)
  /-- ADDI. Adds a sign-extended 13-bit immediate. (R107) -/
  | addi (d a : Reg) (imm : BitVec 13)
  /-- ADDI_LITERAL. Adds a 64-bit literal. (R107) -/
  | addiLiteral (d a : Reg) (lit : BitVec 64)
  /-- MOVI. Loads a sign-extended 13-bit immediate. (R107) -/
  | movi (d : Reg) (imm : BitVec 13)
  /-- MOVI_LITERAL. Loads a 64-bit literal. (R107) -/
  | moviLiteral (d : Reg) (lit : BitVec 64)
  /-- LEA. Forms a + (b << s). (R108) -/
  | lea (g : Guard) (sc : BitVec 2) (d a b : Reg)
  /-- LEA_LITERAL. Forms a + (b << s) + literal. (R108) -/
  | leaLiteral (g : Guard) (sc : BitVec 2) (d a b : Reg) (lit : BitVec 64)
  /-- EXT. Extracts a zero-extended bit field. (R109) -/
  | ext (d a : Reg) (pos len : BitVec 6)
  /-- INS. Inserts a bit field into the destination. (R109) -/
  | ins (d a : Reg) (pos len : BitVec 6)
  /-- CMP_EQ. Sets a predicate mask when the operands are equal; F[3] selects .w. (R110) -/
  | cmpEq (g : Guard) (w : Bool) (d : BitVec 3) (a b : Reg)
  /-- CMP_EQ_LITERAL. Equality compare with the literal. (R110) -/
  | cmpEqLiteral (g : Guard) (w : Bool) (d : BitVec 3) (a : Reg) (lit : BitVec 64)
  /-- CMP_NE. Inequality compare into a predicate. (R110) -/
  | cmpNe (g : Guard) (w : Bool) (d : BitVec 3) (a b : Reg)
  /-- CMP_NE_LITERAL. Inequality compare with the literal. (R110) -/
  | cmpNeLiteral (g : Guard) (w : Bool) (d : BitVec 3) (a : Reg) (lit : BitVec 64)
  /-- CMP_LT. Signed less-than compare into a predicate. (R110) -/
  | cmpLt (g : Guard) (w : Bool) (d : BitVec 3) (a b : Reg)
  /-- CMP_LT_LITERAL. Signed less-than compare with the literal. (R110) -/
  | cmpLtLiteral (g : Guard) (w : Bool) (d : BitVec 3) (a : Reg) (lit : BitVec 64)
  /-- CMP_GE. Signed greater-or-equal compare into a predicate. (R110) -/
  | cmpGe (g : Guard) (w : Bool) (d : BitVec 3) (a b : Reg)
  /-- CMP_GE_LITERAL. Signed greater-or-equal compare with the literal. (R110) -/
  | cmpGeLiteral (g : Guard) (w : Bool) (d : BitVec 3) (a : Reg) (lit : BitVec 64)
  /-- CMP_LTU. Unsigned less-than compare into a predicate. (R110) -/
  | cmpLtu (g : Guard) (w : Bool) (d : BitVec 3) (a b : Reg)
  /-- CMP_LTU_LITERAL. Unsigned less-than compare with the literal. (R110) -/
  | cmpLtuLiteral (g : Guard) (w : Bool) (d : BitVec 3) (a : Reg) (lit : BitVec 64)
  /-- CMP_GEU. Unsigned greater-or-equal compare into a predicate. (R110) -/
  | cmpGeu (g : Guard) (w : Bool) (d : BitVec 3) (a b : Reg)
  /-- CMP_GEU_LITERAL. Unsigned greater-or-equal compare with the literal. (R110) -/
  | cmpGeuLiteral (g : Guard) (w : Bool) (d : BitVec 3) (a : Reg) (lit : BitVec 64)
  /-- PLOG_AND. pD := pA and pB. (R111) -/
  | plogAnd (g : Guard) (d a b : BitVec 3)
  /-- PLOG_OR. pD := pA or pB. (R111) -/
  | plogOr (g : Guard) (d a b : BitVec 3)
  /-- PLOG_XOR. pD := pA xor pB. (R111) -/
  | plogXor (g : Guard) (d a b : BitVec 3)
  /-- PLOG_ANDN. pD := pA and not pB. (R111) -/
  | plogAndn (g : Guard) (d a b : BitVec 3)
  /-- PLOG_ORN. pD := pA or not pB. (R111) -/
  | plogOrn (g : Guard) (d a b : BitVec 3)
  /-- PLOG_NAND. pD := not (pA and pB). (R111) -/
  | plogNand (g : Guard) (d a b : BitVec 3)
  /-- PLOG_NOR. pD := not (pA or pB). (R111) -/
  | plogNor (g : Guard) (d a b : BitVec 3)
  /-- PLOG_XNOR. pD := not (pA xor pB). (R111) -/
  | plogXnor (g : Guard) (d a b : BitVec 3)
  /-- SEL. Selects gA or gB on bit 0 of a predicate, which may be inverted. (R112) -/
  | sel (g : Guard) (inv : Bool) (sel : BitVec 3) (d a b : Reg)
  /-- BR. Takes a PC-relative branch on the guard. (R115) -/
  | br (g : Guard) (off : BitVec 19)
  /-- CALL. Calls a PC-relative target, sliding the window by k and spilling entries. (R118) -/
  | call (g : Guard) (k : BitVec 4) (off : BitVec 15)
  /-- CALL_LITERAL. Calls the absolute target held in the literal. (R118) -/
  | callLiteral (g : Guard) (k : BitVec 4) (lit : BitVec 64)
  /-- JMP. Jumps to the absolute address held in the literal. (R116) -/
  | jmp (g : Guard) (lit : BitVec 64)
  /-- CALLX. Calls the address held in gA, sliding the window by k. (R118) -/
  | callx (g : Guard) (k : BitVec 4) (a : Reg)
  /-- LOOP. Decrements the counter and branches back while it is nonzero. (R120) -/
  | loop (d : Reg) (imm : BitVec 13)
  /-- LD_D. Plain global 64-bit load with a 13-bit displacement. (R132) -/
  | ldD (d a : Reg) (imm : BitVec 13)
  /-- LD_D_LITERAL. Plain global 64-bit load with a 64-bit displacement. (R132) -/
  | ldDLiteral (d a : Reg) (lit : BitVec 64)
  /-- LD_W. Plain global 32-bit sign-extended load with a 13-bit displacement. (R132) -/
  | ldW (d a : Reg) (imm : BitVec 13)
  /-- LD_W_LITERAL. Plain global 32-bit load with a 64-bit displacement. (R132) -/
  | ldWLiteral (d a : Reg) (lit : BitVec 64)
  /-- ST_D. Plain global 64-bit store with a 13-bit displacement. (R132) -/
  | stD (d a : Reg) (imm : BitVec 13)
  /-- ST_D_LITERAL. Plain global 64-bit store with a 64-bit displacement. (R132) -/
  | stDLiteral (d a : Reg) (lit : BitVec 64)
  /-- ST_W. Plain global 32-bit store with a 13-bit displacement. (R132) -/
  | stW (d a : Reg) (imm : BitVec 13)
  /-- ST_W_LITERAL. Plain global 32-bit store with a 64-bit displacement. (R132) -/
  | stWLiteral (d a : Reg) (lit : BitVec 64)
  /-- LD_INDEXED. Guarded plain global load from base plus index; F[2] selects .d. (R131) -/
  | ldIndexed (g : Guard) (dw : Bool) (d a b : Reg)
  /-- LD_EXTENDED. Load with a space, an ordering qualifier and an optional literal displacement. (R131) -/
  | ldExtended (g : Guard) (dw : Bool) (d a b : Reg) (sp : BitVec 3) (q : BitVec 4) (disp : Option (BitVec 64))
  /-- ST_INDEXED. Guarded plain global store to base plus index. (R131) -/
  | stIndexed (g : Guard) (dw : Bool) (d a b : Reg)
  /-- ST_EXTENDED. Store with a space, an ordering qualifier and an optional literal displacement. (R131) -/
  | stExtended (g : Guard) (dw : Bool) (d a b : Reg) (sp : BitVec 3) (q : BitVec 4) (disp : Option (BitVec 64))
  /-- LR. Loads a value and sets the strand's reservation; F[0] selects .d. (R137) -/
  | lr (g : Guard) (dw : Bool) (d a : Reg)
  /-- LR_EXTENDED. LR with an ordering qualifier. (R137) -/
  | lrExtended (g : Guard) (dw : Bool) (d a : Reg) (q : BitVec 4)
  /-- SC. Stores conditionally on the reservation and writes a status. (R137) -/
  | sc (g : Guard) (dw : Bool) (d a b : Reg)
  /-- SC_EXTENDED. SC with an ordering qualifier. (R137) -/
  | scExtended (g : Guard) (dw : Bool) (d a b : Reg) (q : BitVec 4)
  /-- AMO_ADD. Atomic add at the home, returning the old value; F[3] selects .d. (R139) -/
  | amoAdd (g : Guard) (dw : Bool) (d a b : Reg)
  /-- AMO_ADD_EXTENDED. Atomic add with a space and an ordering qualifier. (R139) -/
  | amoAddExtended (g : Guard) (dw : Bool) (d a b : Reg) (sp : BitVec 3) (q : BitVec 4)
  /-- AMO_AND. Atomic AND. (R139) -/
  | amoAnd (g : Guard) (dw : Bool) (d a b : Reg)
  /-- AMO_AND_EXTENDED. Atomic AND, extended form. (R139) -/
  | amoAndExtended (g : Guard) (dw : Bool) (d a b : Reg) (sp : BitVec 3) (q : BitVec 4)
  /-- AMO_OR. Atomic OR. (R139) -/
  | amoOr (g : Guard) (dw : Bool) (d a b : Reg)
  /-- AMO_OR_EXTENDED. Atomic OR, extended form. (R139) -/
  | amoOrExtended (g : Guard) (dw : Bool) (d a b : Reg) (sp : BitVec 3) (q : BitVec 4)
  /-- AMO_XOR. Atomic XOR. (R139) -/
  | amoXor (g : Guard) (dw : Bool) (d a b : Reg)
  /-- AMO_XOR_EXTENDED. Atomic XOR, extended form. (R139) -/
  | amoXorExtended (g : Guard) (dw : Bool) (d a b : Reg) (sp : BitVec 3) (q : BitVec 4)
  /-- AMO_MIN. Atomic signed minimum. (R139) -/
  | amoMin (g : Guard) (dw : Bool) (d a b : Reg)
  /-- AMO_MIN_EXTENDED. Atomic signed minimum, extended form. (R139) -/
  | amoMinExtended (g : Guard) (dw : Bool) (d a b : Reg) (sp : BitVec 3) (q : BitVec 4)
  /-- AMO_MAX. Atomic signed maximum. (R139) -/
  | amoMax (g : Guard) (dw : Bool) (d a b : Reg)
  /-- AMO_MAX_EXTENDED. Atomic signed maximum, extended form. (R139) -/
  | amoMaxExtended (g : Guard) (dw : Bool) (d a b : Reg) (sp : BitVec 3) (q : BitVec 4)
  /-- AMO_SWAP. Atomic swap. (R139) -/
  | amoSwap (g : Guard) (dw : Bool) (d a b : Reg)
  /-- AMO_SWAP_EXTENDED. Atomic swap, extended form. (R139) -/
  | amoSwapExtended (g : Guard) (dw : Bool) (d a b : Reg) (sp : BitVec 3) (q : BitVec 4)
  /-- CAS. Atomic compare-and-swap, returning the old value. (R139) -/
  | cas (g : Guard) (dw : Bool) (d a b : Reg)
  /-- CAS_EXTENDED. CAS with a space and an ordering qualifier. (R139) -/
  | casExtended (g : Guard) (dw : Bool) (d a b : Reg) (sp : BitVec 3) (q : BitVec 4)
  /-- FENCE. Waits until the selected earlier accesses are performed at the scope, holding back the selected later ones. (R141) -/
  | fence (g : Guard) (scope : BitVec 4) (mask : BitVec 5)
  /-- WAITRS. Waits until the reservation set is written or changes state, or until the timeout. (R137) -/
  | waitrs (g : Guard) (d a : Reg)
  /-- SLD. Plain 64-bit staged load that applies transition t at the line's home. (R144) -/
  | sld (g : Guard) (t : BitVec 4) (d a b : Reg)
  /-- SLD_EXTENDED. Staged load with a width, .rx and an optional displacement. (R144) -/
  | sldExtended (g : Guard) (t : BitVec 4) (d a b : Reg) (w : Bool) (q : BitVec 4) (disp : Option (BitVec 64))
  /-- SST. Plain 64-bit staged store that applies transition t. (R144) -/
  | sst (g : Guard) (t : BitVec 4) (d a b : Reg)
  /-- SST_EXTENDED. Staged store with a width, .rx and an optional displacement. (R144) -/
  | sstExtended (g : Guard) (t : BitVec 4) (d a b : Reg) (w : Bool) (q : BitVec 4) (disp : Option (BitVec 64))
  /-- SAMO. Staged atomic that applies transition t with an AMO operation. (R144) -/
  | samo (g : Guard) (t : BitVec 4) (d a b : Reg) (aop : BitVec 3) (w : Bool) (q : BitVec 4) (c : Reg) (disp : Option (BitVec 64))
  /-- CINV. Drops the issuing cluster's read-mostly copies over an address range. (R142) -/
  | cinv (g : Guard) (a b : Reg)
  /-- CINV_ALL. Drops every read-mostly copy of the issuing cluster. (R142) -/
  | cinvAll (g : Guard)
  /-- VADD. FP32 lane-wise add. (R151) -/
  | vadd (g : Guard) (d a b : Reg)
  /-- VADD_EXTENDED. Lane-wise add in a format chosen by FA. (R151) -/
  | vaddExtended (g : Guard) (d a b : Reg) (fa : BitVec 5)
  /-- VSUB. FP32 lane-wise subtract. (R151) -/
  | vsub (g : Guard) (d a b : Reg)
  /-- VSUB_EXTENDED. Lane-wise subtract in a format chosen by FA. (R151) -/
  | vsubExtended (g : Guard) (d a b : Reg) (fa : BitVec 5)
  /-- VMUL. FP32 lane-wise multiply. (R151) -/
  | vmul (g : Guard) (d a b : Reg)
  /-- VMUL_EXTENDED. Lane-wise multiply in a format chosen by FA. (R151) -/
  | vmulExtended (g : Guard) (d a b : Reg) (fa : BitVec 5)
  /-- VMIN. FP32 lane-wise minimumNumber. (R151) -/
  | vmin (g : Guard) (d a b : Reg)
  /-- VMIN_EXTENDED. minimumNumber in a format chosen by FA. (R151) -/
  | vminExtended (g : Guard) (d a b : Reg) (fa : BitVec 5)
  /-- VMAX. FP32 lane-wise maximumNumber. (R151) -/
  | vmax (g : Guard) (d a b : Reg)
  /-- VMAX_EXTENDED. maximumNumber in a format chosen by FA. (R151) -/
  | vmaxExtended (g : Guard) (d a b : Reg) (fa : BitVec 5)
  /-- VABS. FP32 absolute value. (R151) -/
  | vabs (g : Guard) (d a : Reg)
  /-- VABS_EXTENDED. Absolute value in a format chosen by FA. (R151) -/
  | vabsExtended (g : Guard) (d a : Reg) (fa : BitVec 5)
  /-- VNEG. FP32 negation. (R151) -/
  | vneg (g : Guard) (d a : Reg)
  /-- VNEG_EXTENDED. Negation in a format chosen by FA. (R151) -/
  | vnegExtended (g : Guard) (d a : Reg) (fa : BitVec 5)
  /-- VRCP. Correctly rounded FP32 reciprocal. (R151) -/
  | vrcp (g : Guard) (d a : Reg)
  /-- VRCP_EXTENDED. Reciprocal in a format chosen by FA. (R151) -/
  | vrcpExtended (g : Guard) (d a : Reg) (fa : BitVec 5)
  /-- VRSQ. Correctly rounded FP32 reciprocal square root. (R151) -/
  | vrsq (g : Guard) (d a : Reg)
  /-- VRSQ_EXTENDED. Reciprocal square root in a format chosen by FA. (R151) -/
  | vrsqExtended (g : Guard) (d a : Reg) (fa : BitVec 5)
  /-- VEX2. Correctly rounded FP32 2^x. (R151) -/
  | vex2 (g : Guard) (d a : Reg)
  /-- VEX2_EXTENDED. 2^x in a format chosen by FA. (R151) -/
  | vex2Extended (g : Guard) (d a : Reg) (fa : BitVec 5)
  /-- VLG2. Correctly rounded FP32 log2. (R151) -/
  | vlg2 (g : Guard) (d a : Reg)
  /-- VLG2_EXTENDED. log2 in a format chosen by FA. (R151) -/
  | vlg2Extended (g : Guard) (d a : Reg) (fa : BitVec 5)
  /-- VSQRT. Correctly rounded FP32 square root. (R151) -/
  | vsqrt (g : Guard) (d a : Reg)
  /-- VSQRT_EXTENDED. Square root in a format chosen by FA. (R151) -/
  | vsqrtExtended (g : Guard) (d a : Reg) (fa : BitVec 5)
  /-- VFMA. Fused FP32 multiply-add into the destination. (R152) -/
  | vfma (g : Guard) (d a b : Reg)
  /-- VFMA_EXTENDED. Fused multiply-add in a format chosen by FA. (R152) -/
  | vfmaExtended (g : Guard) (d a b : Reg) (fa : BitVec 5)
  /-- VFMS. Fused FP32 a*b - d. (R152) -/
  | vfms (g : Guard) (d a b : Reg)
  /-- VFMS_EXTENDED. Fused multiply-subtract in a format chosen by FA. (R152) -/
  | vfmsExtended (g : Guard) (d a b : Reg) (fa : BitVec 5)
  /-- VCVT. Converts 16 packed components from format FA to format FB. (R153) -/
  | vcvt (g : Guard) (d a : Reg) (fa fb : BitVec 5) (hs hd : BitVec 3)
  /-- VCMP_FEQ. FP32 equal compare into predicate lanes. (R154) -/
  | vcmpFeq (g : Guard) (d : BitVec 3) (a b : Reg)
  /-- VCMP_FEQ_EXTENDED. Equal compare with a format and half selection. (R154) -/
  | vcmpFeqExtended (g : Guard) (d : BitVec 3) (a b : Reg) (fa : BitVec 5) (half : Bool)
  /-- VCMP_FNE. FP32 not-equal compare. (R154) -/
  | vcmpFne (g : Guard) (d : BitVec 3) (a b : Reg)
  /-- VCMP_FNE_EXTENDED. Not-equal compare with a format and half selection. (R154) -/
  | vcmpFneExtended (g : Guard) (d : BitVec 3) (a b : Reg) (fa : BitVec 5) (half : Bool)
  /-- VCMP_FLT. FP32 less-than compare. (R154) -/
  | vcmpFlt (g : Guard) (d : BitVec 3) (a b : Reg)
  /-- VCMP_FLT_EXTENDED. Less-than compare with a format and half selection. (R154) -/
  | vcmpFltExtended (g : Guard) (d : BitVec 3) (a b : Reg) (fa : BitVec 5) (half : Bool)
  /-- VCMP_FLE. FP32 less-or-equal compare. (R154) -/
  | vcmpFle (g : Guard) (d : BitVec 3) (a b : Reg)
  /-- VCMP_FLE_EXTENDED. Less-or-equal compare with a format and half selection. (R154) -/
  | vcmpFleExtended (g : Guard) (d : BitVec 3) (a b : Reg) (fa : BitVec 5) (half : Bool)
  /-- VCMP_FUNORD. FP32 unordered compare. (R154) -/
  | vcmpFunord (g : Guard) (d : BitVec 3) (a b : Reg)
  /-- VCMP_FUNORD_EXTENDED. Unordered compare with a format and half selection. (R154) -/
  | vcmpFunordExtended (g : Guard) (d : BitVec 3) (a b : Reg) (fa : BitVec 5) (half : Bool)
  /-- VCMP_IEQ. 32-bit integer equal compare. (R154) -/
  | vcmpIeq (g : Guard) (d : BitVec 3) (a b : Reg)
  /-- VCMP_INE. 32-bit integer not-equal compare. (R154) -/
  | vcmpIne (g : Guard) (d : BitVec 3) (a b : Reg)
  /-- VCMP_ILT. Signed integer less-than compare. (R154) -/
  | vcmpIlt (g : Guard) (d : BitVec 3) (a b : Reg)
  /-- VCMP_ILE. Signed integer less-or-equal compare. (R154) -/
  | vcmpIle (g : Guard) (d : BitVec 3) (a b : Reg)
  /-- VCMP_ILTU. Unsigned integer less-than compare. (R154) -/
  | vcmpIltu (g : Guard) (d : BitVec 3) (a b : Reg)
  /-- VCMP_ILEU. Unsigned integer less-or-equal compare. (R154) -/
  | vcmpIleu (g : Guard) (d : BitVec 3) (a b : Reg)
  /-- VSEL. Selects lanes of vA or vB by a predicate. (R155) -/
  | vsel (g : Guard) (inv : Bool) (sel : BitVec 3) (d a b : Reg)
  /-- VAND. Lane-wise AND. (R156) -/
  | vand (g : Guard) (d a b : Reg)
  /-- VOR. Lane-wise OR. (R156) -/
  | vor (g : Guard) (d a b : Reg)
  /-- VXOR. Lane-wise XOR. (R156) -/
  | vxor (g : Guard) (d a b : Reg)
  /-- VSHL. Lane-wise left shift. (R156) -/
  | vshl (g : Guard) (d a b : Reg)
  /-- VSHR. Lane-wise logical right shift. (R156) -/
  | vshr (g : Guard) (d a b : Reg)
  /-- VIADD. Lane-wise 32-bit integer add. (R156) -/
  | viadd (g : Guard) (d a b : Reg)
  /-- VIMUL. Lane-wise low 32-bit integer multiply. (R156) -/
  | vimul (g : Guard) (d a b : Reg)
  /-- VPERM. Permutes lanes of vA by the indices in vB. (R157) -/
  | vperm (g : Guard) (d a b : Reg)
  /-- VBCAST. Broadcasts a[31:0] to the acting lanes. (R157) -/
  | vbcast (g : Guard) (d a : Reg)
  /-- VEXTR. Extracts one lane into a scalar register. (R157) -/
  | vextr (g : Guard) (d a b : Reg)
  /-- VINS. Inserts a scalar into one lane. (R157) -/
  | vins (g : Guard) (d a b : Reg)
  /-- VRED_FADD. Sums the acting FP32 elements with one rounding. (R158) -/
  | vredFadd (g : Guard) (d a : Reg)
  /-- VRED_FADD_EXTENDED. Float sum reduction in a format chosen by FA. (R158) -/
  | vredFaddExtended (g : Guard) (d a : Reg) (fa : BitVec 5)
  /-- VRED_FMIN. FP32 minimum reduction. (R158) -/
  | vredFmin (g : Guard) (d a : Reg)
  /-- VRED_FMIN_EXTENDED. Float minimum reduction in a format chosen by FA. (R158) -/
  | vredFminExtended (g : Guard) (d a : Reg) (fa : BitVec 5)
  /-- VRED_FMAX. FP32 maximum reduction. (R158) -/
  | vredFmax (g : Guard) (d a : Reg)
  /-- VRED_FMAX_EXTENDED. Float maximum reduction in a format chosen by FA. (R158) -/
  | vredFmaxExtended (g : Guard) (d a : Reg) (fa : BitVec 5)
  /-- VRED_IADD. Integer sum reduction. (R158) -/
  | vredIadd (g : Guard) (d a : Reg)
  /-- VRED_IMIN. Signed integer minimum reduction. (R158) -/
  | vredImin (g : Guard) (d a : Reg)
  /-- VRED_IMAX. Signed integer maximum reduction. (R158) -/
  | vredImax (g : Guard) (d a : Reg)
  /-- VDOT_S8. Accumulates signed 8-bit dot products into INT32 lanes. (R159) -/
  | vdotS8 (g : Guard) (d a b : Reg)
  /-- VDOT_U8S8. Accumulates unsigned-by-signed 8-bit dot products. (R159) -/
  | vdotU8s8 (g : Guard) (d a b : Reg)
  /-- VDOT_F16. Accumulates FP16 pair products into FP32 with one rounding. (R159) -/
  | vdotF16 (g : Guard) (d a b : Reg)
  /-- VDOT_BF16. Accumulates BF16 pair products into FP32. (R159) -/
  | vdotBf16 (g : Guard) (d a b : Reg)
  /-- VLD. Plain 64-byte vector load from lmem. (R161) -/
  | vld (g : Guard) (d a b : Reg)
  /-- VLD_EXTENDED. Vector load with a space, .rx and an optional displacement. (R161) -/
  | vldExtended (g : Guard) (d a b : Reg) (sp : BitVec 3) (q : BitVec 4) (disp : Option (BitVec 64))
  /-- VST. Plain 64-byte vector store to lmem. (R161) -/
  | vst (g : Guard) (d a b : Reg)
  /-- VST_EXTENDED. Vector store with a space, .rx and an optional displacement. (R161) -/
  | vstExtended (g : Guard) (d a b : Reg) (sp : BitVec 3) (q : BitVec 4) (disp : Option (BitVec 64))
  /-- VGATH. Plain lane gather from lmem. (R161) -/
  | vgath (g : Guard) (d a b : Reg)
  /-- VGATH_EXTENDED. Gather with a space and .rx. (R161) -/
  | vgathExtended (g : Guard) (d a b : Reg) (sp : BitVec 3) (q : BitVec 4)
  /-- VSCAT. Plain lane scatter to lmem. (R161) -/
  | vscat (g : Guard) (d a b : Reg)
  /-- VSCAT_EXTENDED. Scatter with a space and .rx. (R161) -/
  | vscatExtended (g : Guard) (d a b : Reg) (sp : BitVec 3) (q : BitVec 4)
  /-- VALLOC. Grows the slot's vector allotment if the cell pool allows, and returns the new size or all ones. (R163) -/
  | valloc (g : Guard) (d a : Reg)
  /-- VFREE. Releases the top n registers of the allotment. (R163) -/
  | vfree (g : Guard) (a : Reg)
  /-- TCFG. Sets a tile's configuration word, optionally clearing its image. (R165) -/
  | tcfg (g : Guard) (d : BitVec 4) (a : Reg)
  /-- TCFGR. Reads a tile's configuration word. (R165) -/
  | tcfgr (g : Guard) (d : Reg) (a : BitVec 4)
  /-- TZERO. Zeros the used bytes of a tile. (R165) -/
  | tzero (g : Guard) (d : BitVec 4)
  /-- TMOV. Copies a tile's image and configuration. (R165) -/
  | tmov (g : Guard) (d a : BitVec 4)
  /-- TCONJ. Writes the element-wise conjugate of a tile. (R167) -/
  | tconj (g : Guard) (d a : BitVec 4)
  /-- TXP. Transposes a tile element by element. (R166) -/
  | txp (g : Guard) (d a : BitVec 4)
  /-- TNORM. Writes the scalar part of x times conj(x) into a real tile. (R168) -/
  | tnorm (g : Guard) (d a : BitVec 4)
  /-- TLD. Plain tile load from abuf. (R170) -/
  | tld (g : Guard) (d : BitVec 4) (a b : Reg)
  /-- TLD_EXTENDED. Tile load from wbuf, abuf or cbuf, interleaved or planar. (R170) -/
  | tldExtended (g : Guard) (d : BitVec 4) (a b : Reg) (sp : BitVec 3) (planar : Bool) (disp : Option (BitVec 64))
  /-- TST. Plain tile store to abuf. (R170) -/
  | tst (g : Guard) (d : BitVec 4) (a b : Reg)
  /-- TST_EXTENDED. Tile store to abuf or cbuf, interleaved or planar. (R170) -/
  | tstExtended (g : Guard) (d : BitVec 4) (a b : Reg) (sp : BitVec 3) (planar : Bool) (disp : Option (BitVec 64))
  /-- MMA. Accumulates D += A·B on the lattice, with .ba, .ca and .cb options. (R175) -/
  | mma (g : Guard) (cb ca ba : Bool) (d a b : BitVec 4)
  /-- MMA_CBUF. MMA whose accumulator is held in cbuf. (R177) -/
  | mmaCbuf (g : Guard) (cb ca ba : Bool) (d a b : BitVec 4) (c : Reg)
  /-- TSCA. Scales tile A by block scales and accumulates it into D. (R179) -/
  | tsca (g : Guard) (d a b : BitVec 4)
  /-- QNT. Quantises rows in blocks of 32, writing elements and SCE8 scales. (R180) -/
  | qnt (g : Guard) (d a b : BitVec 4)
  /-- DQNT. Dequantises using block scales. (R180) -/
  | dqnt (g : Guard) (d a b : BitVec 4)
  /-- TALG. Loads an algebra table slot from lmem once no in-flight tile use of that slot remains. (R172) -/
  | talg (g : Guard) (d : BitVec 3) (a : Reg)
  /-- BOXV. Tests a ray against the eight boxes of a node held in cmem. (R185) -/
  | boxv (g : Guard) (d a b : Reg)
  /-- BOXV_EXTENDED. BOXV with a space code. (R185) -/
  | boxvExtended (g : Guard) (d a b : Reg) (sp : BitVec 3)
  /-- TRIX. Watertight ray-triangle test producing a point record. (R186) -/
  | trix (g : Guard) (d a b : Reg)
  /-- TRIX_EXTENDED. TRIX with a space code. (R186) -/
  | trixExtended (g : Guard) (d a b : Reg) (sp : BitVec 3)
  /-- SPLT. Ray-Gaussian splat test producing a segment record. (R187) -/
  | splt (g : Guard) (d a b : Reg)
  /-- SPLT_EXTENDED. SPLT with a space code. (R187) -/
  | spltExtended (g : Guard) (d a b : Reg) (sp : BitVec 3)
  /-- VOLSEG. Integrates a density brick along the ray into a record. (R188) -/
  | volseg (g : Guard) (d a b : Reg)
  /-- VOLSEG_EXTENDED. VOLSEG with a space code. (R188) -/
  | volsegExtended (g : Guard) (d a b : Reg) (sp : BitVec 3)
  /-- IVMAKE. Packs an interval record from FP32 working values. (R190) -/
  | ivmake (g : Guard) (d a b : Reg)
  /-- IVINS. Clips, splits, merges, orders, resolves overflow in and trims the list around a new record. (R193) -/
  | ivins (g : Guard) (a : Reg)
  /-- IVGET. Copies list record a into a vector register. (R196) -/
  | ivget (g : Guard) (d a : Reg)
  /-- IVQRY. Reports t_cut, transmittance, counts and range, and sets the opacity predicate. (R197) -/
  | ivqry (g : Guard) (d : Reg) (b : BitVec 3)
  /-- IVCUT. Lowers TMAX and trims the list. (R198) -/
  | ivcut (g : Guard) (a : Reg)
  /-- IVCLR. Empties the list and clears OPAQ. (R199) -/
  | ivclr (g : Guard)
  /-- IVCOMP. Composites the list front to back. (R201) -/
  | ivcomp (g : Guard) (d : Reg)
  /-- IVCFG. Sets EPS, CDROP and NCAP, then applies the overflow rule and trims. (R200) -/
  | ivcfg (g : Guard) (a : Reg)
  /-- RECVW. Waits for and takes the next arrival of the slot's bound message class. (R205) -/
  | recvw (g : Guard) (d : Reg)
  /-- MIGR. Moves the strand as a packet to the home cluster of an address. (R208) -/
  | migr (g : Guard) (a : Reg)
  /-- SPAWN. Sends a continuation record to a cell's local run queue, or bounces it. (R209) -/
  | spawn (g : Guard) (d : BitVec 3) (a b : Reg)
  /-- CDEC. Decrements a codelet counter as a release, pushing the codelet when it reaches zero. (R211) -/
  | cdec (g : Guard) (a : Reg)
  /-- HINTSUCC. Marks the strand hinted for early successor residency. (R214) -/
  | hintsucc (g : Guard)
  /-- WAITPRED. Waits until every predecessor strand has halted and its writes are performed, then acts as an acquire. (R214) -/
  | waitpred (g : Guard)
  /-- ENQ. Validates a handle and appends a value to a device or stage queue as a release. (R207) -/
  | enq (g : Guard) (a b : Reg)
  /-- DEQ. Validates a handle and takes the head value of a queue as an acquire. (R207) -/
  | deq (g : Guard) (d a : Reg)
  /-- TASKGET. Takes the next chunk of the launch's index range from the dispenser. (R212) -/
  | taskget (g : Guard) (d : Reg)
  /-- BAR. Arrives at the crew barrier and waits for the phase to open. (R213) -/
  | bar (g : Guard)
  /-- SEMW. Waits until a cluster semaphore reaches a threshold, then subtracts it. (R215) -/
  | semw (g : Guard) (a b : Reg)
  /-- SEMS. Adds to a cluster semaphore with saturation, as a release. (R215) -/
  | sems (g : Guard) (a b : Reg)
  /-- COPY. Issues a strided or converting copy command to a copy-engine hart. (R219) -/
  | copy (g : Guard) (d a b : Reg) (e : EngineWords) (disp : Option (BitVec 64))
  /-- GETX. Issues an indexed gather command to a copy engine. (R222) -/
  | getx (g : Guard) (d a b : Reg) (e : EngineWords) (disp : Option (BitVec 64))
  /-- PUTX. Issues an indexed scatter command to a copy engine. (R222) -/
  | putx (g : Guard) (d a b : Reg) (e : EngineWords)
  /-- COLL. Submits a collective descriptor to the die's collective engine. (R223) -/
  | coll (g : Guard) (a : Reg) (e : EngineWords)
  /-- TAGW_ALL. Waits until every tag in the register mask is READY. (R224) -/
  | tagwAll (g : Guard) (a : Reg)
  /-- TAGW_ALL_LITERAL. Waits until every tag in the literal mask is READY. (R224) -/
  | tagwAllLiteral (g : Guard) (lit : BitVec 64)
  /-- TAGW_ANY. Waits until any tag in the register mask is READY. (R224) -/
  | tagwAny (g : Guard) (a : Reg)
  /-- TAGW_ANY_LITERAL. Waits until any tag in the literal mask is READY. (R224) -/
  | tagwAnyLiteral (g : Guard) (lit : BitVec 64)
  /-- TAGF. Returns the lowest finished tag of the slot, waiting if needed. (R225) -/
  | tagf (g : Guard) (d : Reg)
  /-- XREQ_LAYOUT. Offers a layout transform to the transform coprocessor. (R226) -/
  | xreqLayout (g : Guard) (d : BitVec 3) (a b : Reg)
  /-- XREQ_QUANT. Offers block quantisation to the transform coprocessor. (R226) -/
  | xreqQuant (g : Guard) (d : BitVec 3) (a b : Reg)
  /-- XREQ_CKSUM. Offers a CRC32C checksum to the transform coprocessor. (R226) -/
  | xreqCksum (g : Guard) (d : BitVec 3) (a b : Reg)
  /-- TRAP. Raises BREAK with the given code. (R230) -/
  | trap (g : Guard) (code : BitVec 5)
  /-- ERET. Leaves handler mode and resumes at epc. (R231) -/
  | eret (g : Guard)
  /-- SYSR. Reads a strand control register. (R232) -/
  | sysr (d : Reg) (num : BitVec 8)
  /-- SYSW. Writes a strand control register field by field, after the strand's accesses drain. (R233) -/
  | sysw (a : Reg) (num : BitVec 8)
  /-- STAB. Replaces a class's tumbler table in the partition and wakes its parked accesses. (R234) -/
  | stab (g : Guard) (a b : Reg)
  /-- TLBI. Drops the cached translations of one page. (R235) -/
  | tlbi (g : Guard) (a : Reg)
  /-- TLBI_ALL. Drops every cached translation of the partition. (R235) -/
  | tlbiAll (g : Guard)
  /-- PREEMPT. Requests pre-emption of a named slot and waits until it is saved, empty or halted. (R236) -/
  | preempt (g : Guard) (a : Reg)
  /-- CTXSAVE. Moves a context-cache entry to a memory context area. (R237) -/
  | ctxsave (g : Guard) (a : Reg)
  /-- CTXLOAD. Loads a context from memory into an empty context-cache entry. (R237) -/
  | ctxload (g : Guard) (a : Reg)
  /-- PORT_WORD_ARRIVAL. A port word arrives in a receive queue and wakes a reader blocked on it. (R14) -/
  | portWordArrival (cell : Nat) (q : BitVec 2)
  /-- PORT_STALL. A blocked port send exceeds the port-stall limit and raises PORT_STALL with nothing sent. (R204) -/
  | portStall (slot : Nat)
  /-- ENQ_STALL. An ENQ blocked on a full queue exceeds the port-stall limit and raises PORT_STALL. (R207) -/
  | enqStall (slot : Nat)
  /-- WAITRS_TIMEOUT. A waiting WAITRS reaches its cycle timeout and writes 1. (R137) -/
  | waitrsTimeout (slot : Nat)
  /-- RESERVATION_INSTRUCTION_LIMIT. The strand issues its 33rd instruction after an LR, and the reservation is lost. (R136) -/
  | reservationInstructionLimit (slot : Nat)
  /-- YIELD_EXPIRY. 16 cycles pass after a YIELD and the slot may issue again. (R122) -/
  | yieldExpiry (slot : Nat)
  /-- LOAD_PERFORMED. A load's value is fixed from the combining buffer, a read-mostly copy or the home, and any pending register is written. (R246) -/
  | loadPerformed (who : Agent) (j : Nat)
  /-- STORE_PERFORMED. A store joins its line's serial order, loses reservations on the set and drops the issuing cluster's read-mostly copy. (R245) -/
  | storePerformed (who : Agent) (j : Nat)
  /-- ATOMIC_PERFORMED. An LR, SC, AMO, CAS or CDEC is performed as one step at its home. (R248) -/
  | atomicPerformed (slot : Nat)
  /-- STAGED_ACCESS_AT_HOME. A staged or ordinary access to a staged line is evaluated against the tumbler entry, then allowed, parked or faulted. (R144) -/
  | stagedAccessAtHome (slot : Nat)
  /-- PARK_REEVALUATION. One parked access is re-evaluated at the home, and then allowed, re-parked or faulted. (R263) -/
  | parkReevaluation (line : Nat)
  /-- READ_MOSTLY_FILL. A cluster fills its read-mostly copy of a line, named by its global address / 64, from the home. (R247) -/
  | readMostlyFill (cluster line : Nat)
  /-- READ_MOSTLY_DROP. A cluster drops its read-mostly copy of a line, named by its flat address / 64. (R247) -/
  | readMostlyDrop (cluster line : Nat)
  /-- WRITE_COMBINING_DRAIN. The strand's combining buffer drains as one store, on a trigger or within 256 cycles. (R133) -/
  | writeCombiningDrain (slot : Nat)
  /-- PAGE_WALK. A TLB miss takes a walker, possibly after queueing, and walks the four levels. (R275) -/
  | pageWalk (cluster va : Nat)
  /-- FAULT_RECORD_APPEND. A fault record is appended to the partition's fault queue once there is room, and FVEC is raised. (R283) -/
  | faultRecordAppend (part : Nat)
  /-- ERROR_RECORD_APPEND. A crew error record is appended to the error queue once there is room, and EVEC is raised. (R309) -/
  | errorRecordAppend (part : Nat)
  /-- TRAP_DELIVERY. After the strand's accesses drain, the trap enters the handler or halts the strand with an error record. (R229) -/
  | trapDelivery (slot : Nat)
  /-- STRAND_END. A halted strand's accesses are performed and its tags are READY, so it ceases and frees its slot. (R123) -/
  | strandEnd (slot : Nat)
  /-- SEMAPHORE_WAIT_STEP. A waiting SEMW or engine wait whose threshold is now met subtracts it and proceeds. (R251) -/
  | semaphoreWaitStep (cluster sem : Nat)
  /-- MIGRANT_ARRIVAL. A MIGR packet reaches the target cluster's migrant queue. (R208) -/
  | migrantArrival (cluster : Nat)
  /-- HINGE_FILL. The hinge fills a free slot from the highest-priority source holding a qualifying candidate. (R295) -/
  | hingeFill (slot : Nat)
  /-- ARBITER_DISPATCH. The partition arbiter dispatches the next command from the chosen eligible queue. (R287) -/
  | arbiterDispatch (part : Nat)
  /-- CREW_PLACEMENT. The placer places a crew once its windows and predecessors allow. (R291) -/
  | crewPlacement (launch : Nat)
  /-- BOOT_FORWARD. A cell whose image copy is complete forwards the image to its boot-tree children. (R361) -/
  | bootForward (launch cell : Nat)
  /-- LAUNCH_END. The last strand and continuation of a launch are gone, so the completion is written and the windows are released. (R293) -/
  | launchEnd (launch : Nat)
  /-- ENGINE_COMMAND_START. A hart starts the command at the head of its queue once its wait is satisfied. (R250) -/
  | engineCommandStart (hart : Nat)
  /-- COMPRESSED_BLOCK_REWRITE. A .z command encodes a block, reserves log space, writes it and publishes the map entry. (R330) -/
  | compressedBlockRewrite (hart pos : Nat) (tokens : List (BitVec 8))
  /-- LOG_COLLECTOR_STEP. The collector moves the live block at the log tail to the head and advances TAIL. (R331) -/
  | logCollectorStep (part : Nat)
  /-- TE_TRANSITION. The engine applies destination transition Q to one destination line. (R221) -/
  | teTransition (hart pos : Nat)
  /-- ENGINE_SIGNAL. A completing command adds its increment to its signal semaphore. (R218) -/
  | engineSignal (hart pos : Nat)
  /-- MAILBOX_WRITE. A command writes its mailbox word with status and progress as a store-release. (R217) -/
  | mailboxWrite (hart pos : Nat)
  /-- TAG_READY. The command's tag becomes READY, which satisfies TAGW and TAGF waiters. (R218) -/
  | tagReady (hart pos : Nat)
  /-- COMMAND_PAUSE. The tag deadline D expires during a pre-emption, and the copy command pauses at an element boundary and writes PAUSED. (R311) -/
  | commandPause (hart pos : Nat)
  /-- COLL_STEP. A collective step entry completes and decrements its REL codelets as a system-scope release. (R358) -/
  | collStep (engine : Nat) (data : List (BitVec 8))
  /-- XREQ_COMPLETION. The transform coprocessor finishes and writes its results and the predicate. (R334) -/
  | xreqCompletion (slot : Nat)
  /-- CONTEXT_SAVE. Once the in-flight fates are met, the context is written to the context cache and the slot is freed. (R310) -/
  | contextSave (slot : Nat)
  /-- CONTEXT_CACHE_SPILL. A full context cache writes its oldest context to the partition's context area. (R313) -/
  | contextCacheSpill (cluster : Nat)
  /-- WATCHDOG_T1. The queue's progress stalls for T1, so its launches are pre-empted and WATCHDOG notices are marked. (R318) -/
  | watchdogT1 (queue : Nat)
  /-- WATCHDOG_T2. The queue's progress stalls for T2, so its launches are killed. (R319) -/
  | watchdogT2 (queue : Nat)
  /-- VIEW_TAKE. A view engine applies its take transition to a frame line, parking until it is allowed. (R268) -/
  | viewTake (engine line : Nat)
  /-- VIEW_FRAME_ENCODE. The view engine reads and AV1-encodes a taken frame. (R351) -/
  | viewFrameEncode (engine : Nat) (unit : List (BitVec 8))
  /-- VIEW_RECORD_WRITE. The engine writes the temporal unit and then the header to the host ring once there is room, and raises its vector. (R352) -/
  | viewRecordWrite (engine : Nat)
  /-- VIEW_RELEASE. The view engine applies its release transition to each frame line. (R268) -/
  | viewRelease (engine line : Nat)
  /-- HASP_FLIT_RECEIVE. A flit arrives on a Hasp link and its CRC is checked. (R355) -/
  | haspFlitReceive (link : Nat) (crcOk : Bool)
  /-- HASP_LINK_DOWN. After 16 failed replays the link goes down, its traffic moves to other links and its vector is raised. (R355) -/
  | haspLinkDown (link : Nat)
  /-- MODULE_RESET. Reset runs firmware verification, calibration and memory initialisation, then sets READY. (R367) -/
  | moduleReset (ok : Bool) (hbm : BitVec 8) (hasp : BitVec 12) (peers : List (BitVec 16))
  /-- DOORBELL. A BAR2 write of a producer index advances PROD if it is newer, or sets QUEUE_FAULT on overflow. (R338) -/
  | doorbell (queue : Nat) (val : BitVec 32)
  /-- COMMAND_FETCH. The device fetches the next command and checks its SEQ. (R339) -/
  | commandFetch (queue : Nat)
  /-- SEQ_REFETCH. After 1 µs the device refetches a slot with a mismatched SEQ, and after four misses it enters QUEUE_FAULT. (R339) -/
  | seqRefetch (queue : Nat)
  /-- QUEUE_ENABLE. A write of ENABLE starts a queue whose fields are valid, or is discarded. (R336) -/
  | queueEnable (queue : Nat)
  /-- COMPLETION_CONSUMER_WRITE. A write of CCONS frees completion slots, so a stopped queue resumes fetching. (R340) -/
  | completionConsumerWrite (queue : Nat) (val : BitVec 32)
  /-- VIEW_CONSUMER_WRITE. A write of a view engine's CONS frees ring room for a waiting engine. (R354) -/
  | viewConsumerWrite (engine : Nat) (val : BitVec 32)
  /-- VIEW_FAULT_CLEAR. Writing 1 to FAULT clears the abandonment bit. (R354) -/
  | viewFaultClear (engine : Nat) (val : BitVec 32)
  /-- HASP_REPLAYS_CLEAR. The host writes 0 to clear a link's replay counter. (R356) -/
  | haspReplaysClear (link : Nat) (val : BitVec 32)
  /-- HASP_MODULE_WRITE. A write of MODULE sets the module number in every link block. (R356) -/
  | haspModuleWrite (link : Nat) (val : BitVec 32)
  /-- WBASE_WRITE. Sets the device address at which the BAR4 window begins. (R366) -/
  | wbaseWrite (val : BitVec 64)
  /-- ERROR_COUNTER_CLEAR. The host writes 0 to clear a cluster's CORR or REFETCH counter. (R368) -/
  | errorCounterClear (cluster : Nat) (refetch : Bool) (val : BitVec 32)
  /-- FIRMWARE_STAGE_IMAGE. Mailbox CMD 1 verifies a firmware image and stages it. (R365) -/
  | firmwareStageImage (ok : Bool)
  /-- INSTALL_IMAGE_KEY. Mailbox CMD 2 installs an image-signing key in a partition's key slot. (R365) -/
  | installImageKey
  /-- REMOVE_IMAGE_KEY. Mailbox CMD 3 empties a key slot. (R365) -/
  | removeImageKey
  /-- FIRMWARE_BAD_COMMAND. Any other mailbox CMD value gives STATUS 4. (R365) -/
  | firmwareBadCommand
  /-- ATTESTATION_REQUEST. A write of nonce bytes 56 to 63 starts an attestation and sets ASTAT to 1. (R369) -/
  | attestationRequest (val : BitVec 64)
  /-- ATTESTATION_REPORT. The module writes the signed report and then sets ASTAT to 2. (R369) -/
  | attestationReport
  /-- REGISTER_WRITE. A write to a host-visible register field that has no behaviour of its own stores the value. (R335) -/
  | registerWrite (off : Nat) (val : BitVec 64)
  /-- LAUNCH. Host command that dispatches a launch descriptor from a KLI slot. (R341) -/
  | launch (queue : Nat)
  /-- REPLAY. Host command that replays a task graph bound to the current parameter bank. (R342) -/
  | replay (queue : Nat)
  /-- PATCH. Host command that writes pairs into a task graph's spare bank. (R342) -/
  | patch (queue : Nat)
  /-- PATCH_APPLY. A waiting patch proceeds once its target bank is free, copying the bank, applying its writes and switching CUR. (R300) -/
  | patchApply (queue : Nat)
  /-- QCREATE. Host command that creates a device queue and advances its generation. (R341) -/
  | qcreate (queue : Nat)
  /-- QDESTROY. Host command that destroys a device queue and bounces its waiters as stale. (R344) -/
  | qdestroy (queue : Nat)
  /-- FANSWER. Host command that answers a fault record with replay or refuse. (R282) -/
  | fanswer (queue : Nat)
  /-- SRESET. Host command that resets the line states of a page range to 0, optionally zeroing the data. (R345) -/
  | sreset (queue : Nat)
  /-- VBIND. Host command that binds or unbinds a view engine. (R351) -/
  | vbind (queue : Nat)
  /-- GROUP. Host command that sets up a collective group. (R359) -/
  | group (queue : Nat)
  /-- HWIN. Host command that binds a Hasp window for peer frames. (R341) -/
  | hwin (queue : Nat)
  /-- LOGSET. Host command that sets up a compressed-write log. (R341) -/
  | logset (queue : Nat)
  /-- PPREEMPT. Host command that pre-empts the launches of the masked queues. (R341) -/
  | ppreempt (queue : Nat)
  /-- RESTART. Host command that clears QUEUE_FAULT or a kill stop on a queue. (R341) -/
  | restart (queue : Nat)
  /-- KLOAD. Host command that checks a KLI container and fills a KLI slot with it. (R343) -/
  | kload (queue : Nat)
  /-- KUNLOAD. Host command that empties a KLI slot once no live launch runs from it. (R343) -/
  | kunload (queue : Nat)
  /-- PCREATE. Host command that creates a partition from a create block. (R346) -/
  | pcreate (queue : Nat)
  /-- PRESIZE. Host command that resizes a partition, moving the replaced clusters' state and work. (R348) -/
  | presize (queue : Nat)
  /-- PDESTROY. Host command that kills a partition's launches and frees its resources. (R350) -/
  | pdestroy (queue : Nat)
  /-- ILLEGAL_INSTR_ISSUE. A strand issues a word whose major, function, length or fields name no instruction, and ILLEGAL_INSTR is raised precisely. (R70) -/
  | illegalInstrIssue (slot : Nat)
  /-- INSTRUCTION_FETCH_FAULT. The fetch of an instruction word fails with TRANSLATION or PERMISSION, or finds the page not present, before any instruction is known. (R75) -/
  | instructionFetchFault (slot : Nat)
  /-- MMA_COMPLETION. An MMA completes within W cycles of issue: it writes the tile or the cbuf accumulator, ORs its flags and returns the strand to rotation. (R176) -/
  | mmaCompletion (slot : Nat)
  /-- MEMORY_ERROR. An ECC error is found in an SRAM or HBM line: a corrected one is repaired and counted, and an uncorrectable one poisons the line or drops a clean copy. (R285) -/
  | memoryError (line : Nat) (corrected : Bool)
  /-- PARITY_ERROR. A register-file parity error found on a read halts the reading strand with a crew error record of cause TRANSLATION subcode 4 and counts it in CORR. (R368) -/
  | parityError (slot : Nat)
  /-- QUEUE_CONSUMER_INDEX_WRITE. The host writes its consumer index of the partition's fault or error queue, freeing room so that a waiting record can be appended. (R346) -/
  | queueConsumerIndexWrite (part : Nat) (errq : Bool) (val : BitVec 32)
  /-- BAR4_ACCESS. A host read or write reaches device memory through the BAR4 window as an access of the host agent, without consulting line state. (R335) -/
  | bar4Access (off : Nat) (write : Option (List (BitVec 8)))
  deriving DecidableEq, Repr

end Sys2Proof
end

