-- ==== Sys2Proof/Machine/State.lean ====
section
/-! DEFINITION. The state of the module as plain data: what 01_machine_state gives a strand, a cell and a cluster, and what
the machine chapters (12 to 19) give the module around them. Every register holds a value; State.reset is the module right
after reset (R367). Field comments read: meaning | width | rule | value at reset or at the start of its owner. -/
namespace Sys2Proof.Machine

/-- Why a step can stop. -/
inductive Fault where
  /-- Raised by `exec` when the slot that is to execute an instruction holds no strand: the hardware never does this. Safe. -/
  | noStrand
  deriving DecidableEq, Repr

/-- Why a step has no meaning. -/
inductive Refusal where
  /-- Raised by an arm of `exec` whose instruction has no meaning yet. Safe. -/
  | notModelled (mnemonic : String)
  deriving DecidableEq, Repr

/-- A trap on its way to delivery (R228, R229): cause number, subcode and faulting address; `brk` marks BREAK, whose
instruction has retired. -/
structure Trap where
  cause : BitVec 8
  sub : BitVec 8
  faddr : BitVec 64
  brk : Bool
  deriving DecidableEq, Repr

/-- Where a load's value goes (R128, R162). -/
inductive Dest where
  | none
  | reg (r : Reg) (sext : Bool)
  | vec (r : Reg) (lanes : BitVec 16)
  deriving DecidableEq, Repr

/-- One issued access that is not yet performed (R239, Table 12-1: access window). `parts` lists, in the order they are
performed, the flat address, the lane and the bytes to store (empty for a load); `whole` says that they are performed in one
step (R161). -/
structure Access where
  id : Nat
  store : Bool
  width : Nat
  whole : Bool
  parts : List (Nat × Nat × List (BitVec 8))
  va : BitVec 64
  acquire : Bool
  release : Bool
  memType : Nat
  dest : Dest
  got : List (Nat × List (BitVec 8))
  deriving DecidableEq, Repr

/-- The one-line write-combining buffer (R133, R239). -/
structure WcBuf where
  line : Nat
  va : BitVec 64
  bytes : NMap (BitVec 8)
  since : Nat
  deriving DecidableEq, Repr

/-- What a waiting strand, command or engine waits for: `poll` for a condition that is tried again, `replay` for a missing
page whose record the host has answered (the access then walks afresh, R282), `talgHold` to issue after a TALG (R172), `late` for an
access that has issued and is performed later, `lanes` for the lanes of a plain VGATH or VSCAT (R161), `acks` for stores on
the outbound path (R241), the others for the event that ends
them. -/
inductive WaitKind where
  | poll
  | talg (alg : Nat)
  | talgHold
  | parked
  | faultPending (seq : Nat) (va : BitVec 64)
  | replay
  | bar (phase : Nat)
  | sem
  | portSend
  | enqFull
  | waitrs (deadline : Nat)
  | xreq
  | recv
  | preempt (slot uid : Nat)
  | late
  | lanes
  | acks
  deriving DecidableEq, Repr

/-- A strand that waits inside an instruction: why it waits and since which cycle (R203). -/
structure Wait where
  kind : WaitKind
  since : Nat
  deriving DecidableEq, Repr

/-- An MMA on its way to completion (R176, R177): the bytes to write, to a tile or to cbuf, with the cbuf bytes that other
agents have written meanwhile; the flags, the algebra slots its tiles name, and the due cycle. -/
structure MmaFlight where
  dst : Nat
  cbuf : Bool
  touched : List Nat
  algs : List Nat
  bytes : List (BitVec 8)
  flags : BitVec 6
  due : Nat
  deriving DecidableEq, Repr

/-- A pre-emption requested of a slot, or its eviction (R310, R264): reason code of Table 16-5, the cycle of the request,
and for an eviction the line whose state change makes it runnable, with the class of its page, and whether that change has
come. -/
structure PreReq where
  reason : Nat
  since : Nat
  line : Option (Nat × Nat)
  woken : Bool
  deriving DecidableEq, Repr

/-- A .z command's work on one logical block (R330): the block, its old bytes with whether they failed to decode, and once the stored form
is in the log its lines and address. -/
structure BlockJob where
  blk : Nat
  base : List (BitVec 8)
  failed : Bool
  placed : Option (Nat × Nat)
  deriving DecidableEq, Repr

/-- A copy or collective command in an engine's hands (R216, R250): whose it is, its words and operands (the shadow command
registers), what it has read and written, where it is held (`holdAt` numbers the access, `holdLine` its line), and how far its
completion has come (`phase`: 0 data, 1 signalled, 2 mailbox written). `indexed` holds the indices that a GETX or PUTX has read. `entry`
counts the step-table entries of a COLL that are complete, `table` is the entry in hand once it is read, and `run` numbers the COLLs of
its member on the group (R358). `refetched` lists the logical blocks whose first read was malformed, `replicas` those whose second was
too (R328); `job` is the block being rewritten (R330). -/
structure Command where
  id : Nat
  part : Nat
  launch : Nat
  cell : Nat
  slot : Nat
  words : List (BitVec 32)
  coll : Bool
  kind : Nat
  dst : BitVec 64
  src : BitVec 64
  third : BitVec 64
  eng : EngineWords
  replica : Option (BitVec 64)
  desc : List (BitVec 8)
  started : Bool
  waited : Bool
  startAt : Nat
  indexed : NMap Nat
  loaded : NMap (List (BitVec 8))
  stored : List Nat
  blocks : NMap (List (BitVec 8))
  refetched : List Nat
  replicas : List Nat
  job : Option BlockJob
  rewritten : List Nat
  teDone : Nat
  status : Nat
  stopped : Bool
  hold : WaitKind
  holdAt : Nat
  holdLine : Nat
  phase : Nat
  progress : Nat
  entry : Nat
  table : Option (List (BitVec 8))
  run : Nat
  deriving DecidableEq, Repr

/-- The strand in a slot (Table 1-1, Tables 1-2 to 1-9). -/
structure Strand where
  /-- pc | 64 | 01_machine_state R8, R75 | entry address of its stage -/
  pc : BitVec 64
  /-- g1 to g7 (key 1 to 7) | 64 each | 01_machine_state R9 | STACK, ARG, 0 -/
  fixed : NMap (BitVec 64)
  /-- register-stack entries by index; an unlisted entry below 20 is 0, one above 0 or a value left in the slot's file (log 37) | 64 each | 01_machine_state R9, R10 | 0; from 20 on as Strand.entry gives it -/
  stk : NMap (BitVec 64)
  /-- winbase | 25 | 01_machine_state R9, R26 | 0 -/
  winbase : Nat
  /-- window depth, status.WDEPTH | 16 | 01_machine_state R9, R27 | 0 -/
  depth : Nat
  /-- v0 to v31 | 512 each | 01_machine_state R17 | 0 -/
  vregs : NMap (BitVec 512)
  /-- allot | 6 | 01_machine_state R17, R26 | launch ALLOT -/
  allot : Nat
  /-- p1 to p7 (key 1 to 7) | 16 each | 01_machine_state R22 | 0 -/
  preds : NMap (BitVec 16)
  /-- epc | 64 | 01_machine_state R26 | 0 -/
  epc : BitVec 64
  /-- cause | 16 | 01_machine_state R26 | 0 -/
  cause : BitVec 16
  /-- faddr | 64 | 01_machine_state R26 | 0 -/
  faddr : BitVec 64
  /-- ovfptr | 64 | 01_machine_state R27 | 0 -/
  ovfptr : BitVec 64
  /-- carve.BASE64 | 16 | 01_machine_state R27 | launch -/
  carveBase : Nat
  /-- carve.SIZE64 | 16 | 01_machine_state R27 | launch -/
  carveSize : Nat
  /-- ivctl.EPS | 16 | 01_machine_state R25 | launch -/
  eps : BitVec 16
  /-- ivctl.CDROP | 8 | 01_machine_state R25 | launch -/
  cdrop : BitVec 8
  /-- ivctl.NMAX | 2 | 01_machine_state R25 | launch -/
  nmax : BitVec 2
  /-- ivctl.NCAP | 2 | 01_machine_state R25 | NMAX -/
  ncap : BitVec 2
  /-- ivstat.IVLATE | 16 | 01_machine_state R25 | 0 -/
  ivlate : BitVec 16
  /-- ivstat.IVDROP | 16 | 01_machine_state R25 | 0 -/
  ivdrop : BitVec 16
  /-- ivstat.IVMERGE | 16 | 01_machine_state R25 | 0 -/
  ivmerge : BitVec 16
  /-- ivstat.OPAQ | 1 | 01_machine_state R25 | 0 -/
  opaq : Bool
  /-- ivrange.TMAX | 32 | 01_machine_state R25 | +inf -/
  tmax : BitVec 32
  /-- ivrange.TMIN | 32 | 01_machine_state R25 | 0.0 -/
  tmin : BitVec 32
  /-- the interval records held, in list order; ivctl.COUNT is their number | 256 each | 01_machine_state R25 | none -/
  recs : List (BitVec 256)
  /-- status.RM | 2 | 01_machine_state R27 | 0 -/
  rm : BitVec 2
  /-- status.FTZ | 1 | 01_machine_state R27 | launch -/
  ftz : Bool
  /-- status.PRIV | 1 | 01_machine_state R27 | launch -/
  priv : Bool
  /-- status.HM | 1 | 01_machine_state R27 | 0 -/
  hm : Bool
  /-- status.CDL | 1 | 01_machine_state R27 | 0 -/
  cdl : Bool
  /-- status.MSGB | 1 | 01_machine_state R27 | launch -/
  msgb : Bool
  /-- fpflags | 6 | 01_machine_state R27 | 0 -/
  fpflags : BitVec 6
  /-- tgrant.FIRST | 4 | 01_machine_state R18 | launch -/
  tfirst : Nat
  /-- tgrant.COUNT | 5 | 01_machine_state R18 | launch -/
  tcount : Nat
  /-- partition of the strand's launch | 4 | 00_scope R4 | launch -/
  part : Nat
  /-- launchid | 16 | 01_machine_state R26 | launch -/
  launch : Nat
  /-- crew index | 8 | 01_machine_state R26 | launch -/
  crew : Nat
  /-- strand index | 8 | 01_machine_state R26 | launch -/
  index : Nat
  /-- stage | 2 | 01_machine_state R26 | launch -/
  stage : Nat
  /-- issued HINTSUCC | 1 | 10_message_task_engine R214 | no -/
  hinted : Bool
  /-- values that earlier strands of the launch left in the file of the slot the strand has taken | 64 each | 01_machine_state R10 | as they left it -/
  left : List (BitVec 64)
  /-- the barrier phase of a BAR arrival that was kept when the strand was saved | — | 10_message_task_engine R213 | none -/
  arrived : Option Nat
  /-- a strongly ordered access has retired whose fence holds the next instruction back | 1 | 06_memory R133 | no -/
  fenced : Bool
  /-- access window | list | 12_ordering_model R239 | empty -/
  window : List Access
  /-- combining buffer | one line | 12_ordering_model R239 | empty -/
  wcbuf : Option WcBuf
  /-- poison met by a relaxed load or store and not yet reported, with its register | list | 06_memory R130, R285 | none -/
  poison : List (Dest × BitVec 64)
  /-- the wait of the unretired instruction | — | 10_message_task_engine R203 | none -/
  wait : Option Wait
  /-- the instruction issued and not retired, which a waiting strand goes on with | — | 10_message_task_engine R203 | none -/
  held : Option Instr
  /-- trap waiting for the accesses to drain | — | 11_system_and_trap R229 | none -/
  trapPend : Option Trap
  /-- HALT issued; the slot is kept until the strand's accesses and tags end | 1 | 05_scalar R123 | no -/
  halting : Bool
  /-- MMA executing | — | 08_tile R176 | none -/
  mma : Option MmaFlight
  /-- cycle of a YIELD that still holds the slot back, and the slots that have issued since | — | 05_scalar R122 | none -/
  yielded : Option (Nat × List Nat)
  /-- pre-emption requested | — | 16_traps R310 | none -/
  preReq : Option PreReq
  /-- WATCHDOG notice due before the next instruction | 1 | 16_traps R318 | no -/
  notice : Bool
  /-- commands paused by pre-emption, by tag | — | 16_traps R311 | none -/
  paused : List (Nat × Command)
  /-- started from a malformed continuation record | 1 | 01_machine_state R32 | no -/
  badRecord : Bool
  /-- the model's own: the number of the strand, which names its free values | — | (model) | DESIGN CHOICE next serial (log 7) -/
  uid : Nat
  deriving DecidableEq, Repr

/-- A strand with every register zero. -/
def Strand.zero : Strand :=
  { pc := 0, fixed := [], stk := [], winbase := 0, depth := 0, vregs := [], allot := 0, preds := [], epc := 0, cause := 0,
    faddr := 0, ovfptr := 0, carveBase := 0, carveSize := 0, eps := 0, cdrop := 0, nmax := 0, ncap := 0, ivlate := 0,
    ivdrop := 0, ivmerge := 0, opaq := false, tmax := 0x7F800000, tmin := 0, recs := [], rm := 0, ftz := false,
    priv := false, hm := false, cdl := false, msgb := false, fpflags := 0, tfirst := 0, tcount := 0, part := 0, launch := 0,
    crew := 0, index := 0, stage := 0, hinted := false, left := [], arrived := none, fenced := false, window := [], wcbuf := none, poison := [], wait := none, held := none,
    trapPend := none, halting := false, mma := none, yielded := none, preReq := none, notice := false, paused := [], badRecord := false,
    uid := 0 }

/-- A reservation (R136), held at the line's home under its strand's identifiers, with the type of its page (R133). -/
structure Reservation where
  part : Nat
  launch : Nat
  crew : Nat
  index : Nat
  line : Nat
  addr : Nat
  width : Nat
  count : Nat
  lost : Bool
  memType : Nat
  deriving DecidableEq, Repr

/-- One shared register: its value when last zeroed, and its writes, latest first, each with its cycle and the slot and
identity of the writing strand (R16). -/
structure HReg where
  base : BitVec 64
  writes : List (Nat × Nat × BitVec 64)
  deriving DecidableEq, Repr

/-- A receive queue: words held, words in flight to it, and its owner slot with the launch that bound it (R14, R15). -/
structure PortQueue where
  words : List (BitVec 64)
  flight : List (BitVec 64)
  owner : Option (Nat × Nat × Nat)
  deriving DecidableEq, Repr

/-- An algebra table: dimension, conjugation mask, and for each pair of components the target and the sign
(0 null, 1 plus, -1 minus), row-major (R23, R54, R172). -/
structure AlgTable where
  d : Nat
  mask : BitVec 8
  entries : List (Nat × Int)
  deriving DecidableEq, Repr

/-- The reals: what every slot holds when its cell is assigned (R23). -/
def AlgTable.reals : AlgTable := ⟨1, 0, [(0, 1)]⟩

/-- A copy-engine or collective-engine hart: its command queue, the commands it runs, oldest first (R239, R250). -/
structure Hart where
  queue : List Command
  running : List Command
  deriving DecidableEq, Repr

/-- A waiter on a semaphore (R215, R251): a slot, or a hart with the number of its command, and the threshold. -/
structure SemWaiter where
  sem : Nat
  who : Agent
  cmd : Nat
  need : Nat
  deriving DecidableEq, Repr

/-- A cached translation (R279): partition, level (0 to 2), page base and leaf. -/
structure TlbEntry where
  part : Nat
  level : Nat
  va : Nat
  leaf : BitVec 64
  deriving DecidableEq, Repr

/-- An accepted XREQ in the coprocessor (R226, R332), by the number of the slot that waits in it. -/
structure Xreq where
  slot : Nat
  fn : Nat
  d : BitVec 3
  ra : Reg
  rb : Reg
  part : Nat
  block : List (BitVec 8)
  loaded : NMap (List (BitVec 8))
  stored : List Nat
  status : Nat
  stopped : Bool
  hold : WaitKind
  holdAt : Nat
  holdLine : Nat
  deriving DecidableEq, Repr

/-- A saved context (R32, R314, Table 16-5): the strand, what its slot held, the hinge source it waits in (1, 2 or 6),
the order in which it was saved, and for source 1 the order of the first arrival of its class since. -/
structure Ctx where
  strand : Strand
  reason : Nat
  waitCode : Nat
  slot : Nat
  pcn : Nat
  wline : Nat
  phase : Nat
  tileCfg : List (BitVec 32)
  tiles : List (List (BitVec 8))
  source : Nat
  order : Nat
  arrival : Option Nat
  deriving DecidableEq, Repr

/-- A pushed codelet record (R211): the number of the push, its owner cell, its LMEM offset there, and the launch and crew that
count it. -/
structure CodeletRef where
  id : Nat
  cell : Nat
  off : Nat
  launch : Nat
  crew : Nat
  deriving DecidableEq, Repr

/-- A cell (Tables 0-2, 1-1). -/
structure Cell where
  /-- h0 to h7 | 64 each | 01_machine_state R16 | 0 -/
  hregs : NMap HReg
  /-- receive queues q0 to q3 | 8 words each | 01_machine_state R14, R15 | empty, unbound -/
  ports : NMap PortQueue
  /-- tile configuration words t0 to t15 | 21 each | 01_machine_state R19 | 0 -/
  tileCfg : NMap (BitVec 32)
  /-- algebra table slots alg1 to alg7 | — | 01_machine_state R23 | reals -/
  algs : NMap AlgTable
  /-- READY bits | 64 | 01_machine_state R24 | all 1 -/
  tagReady : BitVec 64
  /-- ownership masks | 16 per tag | 01_machine_state R24 | 0 -/
  tagOwner : NMap (BitVec 16)
  /-- recorded slots | per tag | 01_machine_state R24 | none -/
  tagSlot : NMap Nat
  /-- codelet ready ring | 64 entries | 10_message_task_engine R211 | empty -/
  ring : List CodeletRef
  /-- local run queue: numbered continuation records with any list block | 32 entries | 10_message_task_engine R209 | empty -/
  runq : List (Nat × List (BitVec 8))
  /-- slot that last issued | 4 | 15_scheduling R294 | 15 -/
  lastIssued : Nat
  /-- hinge passes over a candidate, by its order number | counts | 15_scheduling R296 | none -/
  passed : NMap Nat
  /-- what strands left in the slots' register-stack files: partition, launch and, with the number of the strand that left each, values, by slot | — | 01_machine_state R10 | none -/
  stackLeft : NMap (Nat × Nat × List (Nat × BitVec 64))
  deriving DecidableEq, Repr

/-- A cell as its assignment to a partition leaves it (R346). -/
def Cell.fresh : Cell :=
  { hregs := [], ports := [], tileCfg := [], algs := [], tagReady := BitVec.allOnes 64, tagOwner := [], tagSlot := [],
    ring := [], runq := [], lastIssued := 15, passed := [], stackLeft := [] }

/-- A cluster. -/
structure Cluster where
  /-- partition and ordinal | — | 18_host R346 | none -/
  owner : Option (Nat × Nat)
  /-- semaphore counters | 256 of 32 | 10_message_task_engine R215 | 0 -/
  sems : NMap Nat
  /-- semaphore waiters, in the order they began to wait | list | 12_ordering_model R239 | empty -/
  semWaiters : List SemWaiter
  /-- read-mostly copies by line | 512 each | 12_ordering_model R239 | none -/
  copies : NMap (BitVec 512)
  /-- TLB | 2,048 entries | 14_memory_hierarchy R279 | empty -/
  tlb : List TlbEntry
  /-- context cache | 256 entries | 16_traps R313 | empty -/
  ctxs : NMap Ctx
  /-- migrant packets sent here, in order, each with whether it has arrived in the migrant queue | list | 10_message_task_engine R208 | empty -/
  migrants : List (Bool × Strand)
  /-- transform coprocessor | — | 17_engines R332 | idle -/
  coproc : Option Xreq
  /-- CORR | 32 | 19_image R366 | 0 -/
  corr : Nat
  /-- REFETCH | 16 | 19_image R366 | 0 -/
  refetch : Nat
  deriving DecidableEq, Repr

/-- A cluster that belongs to no partition. -/
def Cluster.fresh : Cluster :=
  { owner := none, sems := [], semWaiters := [], copies := [], tlb := [], ctxs := [], migrants := [], coproc := none,
    corr := 0, refetch := 0 }

/-- A parked staged access (R262): line, transition, agent, with the partition and the class it was evaluated under. -/
structure Parked where
  line : Nat
  trans : Nat
  who : Agent
  part : Nat
  cls : Nat
  deriving DecidableEq, Repr

/-- A wake pass in progress (R263): its line, the entries still to re-evaluate, and whether a state change during the pass
calls for another. -/
structure WakePass where
  line : Nat
  rest : List Agent
  again : Bool
  deriving DecidableEq, Repr

/-- A device queue (R206): generation, life, capacity, home and values. -/
structure DevQueue where
  gen : BitVec 16
  live : Bool
  cap : Nat
  home : Nat
  back : BitVec 64
  values : List (BitVec 64)
  deriving DecidableEq, Repr

/-- A fault record that is open or waits for room (R282, R283). -/
structure FaultRec where
  seq : Nat
  page : Nat
  bytes : List (BitVec 8)
  appended : Bool
  joined : List Agent
  deriving DecidableEq, Repr

/-- An entry of a crew's memory run queue (R297): a saved context by its cluster and cache index or area order, or a codelet
record naming its owner cell; `line` is what an evicted context waits on, with the class of its page (64: not known). -/
structure RunEntry where
  ctx : Option Nat
  codelet : Option CodeletRef
  line : Option (Nat × Nat)
  runnable : Bool
  deriving DecidableEq, Repr

/-- A crew (R3, R213, R291, R297, R303). -/
structure Crew where
  /-- cluster it is placed on | — | 15_scheduling R291 | unplaced -/
  cluster : Option Nat
  /-- chosen cells with their window: cell, slot base, tile base | — | 15_scheduling R291 | none -/
  cells : List (Nat × Nat × Nat)
  /-- enq-bound queue handle | 64 | 10_message_task_engine R205 | g2 at placement -/
  bound : BitVec 64
  /-- barrier count M | — | 10_message_task_engine R213 | 0 -/
  m : Nat
  /-- barrier arrivals A | — | 10_message_task_engine R213 | 0 -/
  a : Nat
  /-- barrier phase | — | 10_message_task_engine R213, R314 | 0 -/
  phase : Nat
  /-- stage queues by source stage | DEPTH values | 15_scheduling R303 | empty -/
  stageq : NMap (List (BitVec 64))
  /-- strands waiting on stage queues, in order: slot and source stage | list | 15_scheduling R303 | empty -/
  takers : List (Nat × Nat)
  /-- memory run queue | 4,096 entries | 15_scheduling R297 | empty -/
  runq : List RunEntry
  /-- contexts chained behind a full run queue | list | 15_scheduling R297 | empty -/
  chain : List RunEntry
  /-- boot-tree copies still to make: launch cells whose image is not complete | list | 19_image R361 | empty -/
  boot : List Nat
  deriving DecidableEq, Repr

/-- A crew not yet placed. -/
def Crew.fresh : Crew :=
  { cluster := none, cells := [], bound := 0, m := 0, a := 0, phase := 0, stageq := [], takers := [], runq := [], chain := [],
    boot := [] }

/-- A context that CTXSAVE has written to memory, with the run-queue entry it had if any: what its image has no place for (R237, R264). -/
structure Away where
  ctx : Ctx
  entry : Option RunEntry
  deriving DecidableEq, Repr

/-- A live launch (R289 to R293, R299, R301). -/
structure Launch where
  /-- the launch descriptor, 192 bytes | — | 15_scheduling R289 | as dispatched -/
  desc : List (BitVec 8)
  /-- KLI slot | 8 | 18_host R343 | as dispatched -/
  kslot : Nat
  /-- host queue and absolute command index it came from | — | 18_host R337 | — -/
  queue : Nat
  cmd : Nat
  /-- task-graph object, node and bound bank | — | 15_scheduling R300 | none -/
  node : Option (Nat × Nat × Nat)
  /-- crews by index | — | 15_scheduling R291 | unplaced -/
  crews : NMap Crew
  /-- pending predecessors: queue and command index | list | 15_scheduling R301 | — -/
  preds : List (Nat × Nat)
  /-- dispenser NEXT | 32 | 15_scheduling R299 | RFIRST -/
  next : Nat
  /-- dispenser REM | 32 | 15_scheduling R299 | RCOUNT -/
  remaining : Nat
  /-- order of dispatch | — | 15_scheduling R288 | — -/
  order : Nat
  /-- cycle at which the command was queued | 64 | 03_encoding R76 | its doorbell -/
  queuedAt : Nat
  /-- the placer has found no room for a crew, which it holds | 1 | 15_scheduling R288 | no -/
  held : Bool
  /-- contexts that CTXSAVE has written to memory, for what their images have no place for: the hint, poison not yet reported, a halt, arrivals of their class and changes of their line since | list | 11_system_and_trap R237, 13_staged R264, 15_scheduling R301 | none -/
  away : List Away
  deriving DecidableEq, Repr

/-- A task graph's device state (R300, R342). -/
structure Graph where
  cur : Nat
  replays : List (Nat × Nat × Nat)
  deriving DecidableEq, Repr

/-- A KLI slot (R343): the container's device address, length and digest. -/
structure Kli where
  addr : Nat
  len : Nat
  digest : List (BitVec 8)
  deriving DecidableEq, Repr

/-- A compressed-write log (R331, R341): its region, HEAD, the blocks between TAIL and HEAD, oldest first, each with its length in
lines, the block the collector has copied and not yet named (address, map entry, copy), and whether it is full and has said so. -/
structure Log where
  base : Nat
  size : Nat
  head : Nat
  blocks : List (Nat × Nat)
  moving : Option (Nat × Nat × Nat)
  full : Bool
  deriving DecidableEq, Repr

/-- A crew error record waiting for or holding its place (R309). -/
abbrev ErrRec := List (BitVec 8)

/-- A partition-wide pre-emption in progress (R316): the reason, the affected slots, which no hinge fills and no crew takes, the
migrant packets still to be delivered and then pre-empted, and for one that is to be reported its queue and command. -/
structure Preempting where
  reason : Nat
  slots : List Nat
  packets : List Nat
  report : Option (Nat × Nat)
  deriving DecidableEq, Repr

/-- A partition (R4, R346). -/
structure Partition where
  /-- clusters by ordinal | ≤ 192 | 18_host R346 | PCREATE -/
  clusters : List Nat
  /-- translation root | 64 | 14_memory_hierarchy R275 | PCREATE -/
  root : Nat
  /-- CTXAREA | 64 | 18_host R346 | PCREATE -/
  ctxArea : Nat
  /-- CTXSIZE | 64 | 18_host R346 | PCREATE -/
  ctxSize : Nat
  /-- FQ | 64 | 18_host R346 | PCREATE -/
  fq : Nat
  /-- EQ | 64 | 18_host R346 | PCREATE -/
  eq : Nat
  /-- AGE in µs | 32 | 15_scheduling R287 | PCREATE -/
  age : Nat
  /-- tag deadline D in µs | 32 | 16_traps R311 | PCREATE -/
  deadline : Nat
  /-- PRIVQ | 16 | 18_host R346 | PCREATE -/
  privq : Nat
  /-- FVEC | 16 | 18_host R346 | PCREATE -/
  fvec : Nat
  /-- EVEC | 16 | 18_host R346 | PCREATE -/
  evec : Nat
  /-- fault-queue producer index | 32 | 18_host R346 | 0 -/
  fprod : BitVec 32
  /-- fault-queue consumer index | 32 | 18_host R346 | 0 -/
  fcons : BitVec 32
  /-- error-queue producer index | 32 | 18_host R346 | 0 -/
  eprod : BitVec 32
  /-- error-queue consumer index | 32 | 18_host R346 | 0 -/
  econs : BitVec 32
  /-- next fault record SEQ | 16 | 14_memory_hierarchy R283 | 0 -/
  fseq : Nat
  /-- fault records open or waiting | list | 14_memory_hierarchy R282 | empty -/
  faults : List FaultRec
  /-- error records waiting for room | list | 16_traps R309 | empty -/
  errs : List ErrRec
  /-- tumbler tables of classes 3 to 63, 256 entries each; unlisted: unbound | 16 each | 13_staged R256 | s or 0x20 -/
  tables : NMap (List (BitVec 16))
  /-- device queues by number | — | 10_message_task_engine R206 | generation 0, not live -/
  queues : NMap DevQueue
  /-- KLI slots | 256 | 18_host R343 | empty -/
  klis : NMap Kli
  /-- image-signing keys by key slot | 8 | 19_image R363 | empty -/
  keys : NMap (List (BitVec 8))
  /-- live launches by identifier | — | 15_scheduling R293 | none -/
  launches : NMap Launch
  /-- task graphs by object address | — | 18_host R342 | CUR 0 -/
  graphs : NMap Graph
  /-- collective groups by id: the group block | — | 18_host R359 | none -/
  groups : NMap (List (BitVec 8))
  /-- COLLs issued for each member of a group: group · 16,384 + member | — | 18_host R358 | none -/
  collRuns : NMap Nat
  /-- Hasp windows: peer module, peer partition, size | 64 | 18_host R341 | unbound -/
  hwins : NMap (Nat × Nat × Nat)
  /-- compressed-write logs | 64 | 17_engines R331 | unset -/
  logs : NMap Log
  /-- saved contexts in the context area, by place | — | 16_traps R313 | none -/
  area : NMap Ctx
  /-- arbiter: by level, the queue last visited and the commands left in the visit | — | 15_scheduling R287 | none -/
  visit : NMap (Nat × Nat)
  /-- partition-wide pre-emptions in progress | list | 16_traps R316 | none -/
  preempting : List Preempting
  /-- queues whose contexts a T1 watchdog holds back, with the queues that have yet to dispatch | list | 16_traps R318 | none -/
  heldBack : List (Nat × List Nat)
  deriving DecidableEq, Repr

/-- A fetched host command waiting for its dispatch or its end (R339): its absolute index, its bytes, the cycles of its fetch and of
the doorbell that made it visible (R76), whether it has been dispatched, whether it now waits in its queue's way, how far it
has come, and the bytes it read from memory at its dispatch (R347). -/
structure HostCmd where
  n : Nat
  bytes : List (BitVec 8)
  fetchedAt : Nat
  queuedAt : Nat
  dispatched : Bool
  waiting : Bool
  progress : Nat
  block : List (BitVec 8)
  deriving DecidableEq, Repr

/-- A host queue (Table 18-3). -/
structure HostQueue where
  /-- RING | 64 | 18_host R336 | 0 -/
  ring : BitVec 64
  /-- CRING | 64 | 18_host R336 | 0 -/
  cring : BitVec 64
  /-- CTRL | 32 | 18_host R336 | 0 -/
  ctrl : BitVec 32
  /-- VECTOR | 16 | 18_host R336 | 0 -/
  vector : BitVec 16
  /-- STATE | 16 | 18_host R336 | 0 -/
  state : Nat
  /-- CONS | 32 | 18_host R336 | 0 -/
  cons : BitVec 32
  /-- CCONS | 32 | 18_host R336 | 0 -/
  ccons : BitVec 32
  /-- T1 in µs | 32 | 18_host R336 | 0 -/
  t1 : BitVec 32
  /-- T2 in µs | 32 | 18_host R336 | 0 -/
  t2 : BitVec 32
  /-- PROD | 32 | 18_host R336 | 0 -/
  prod : BitVec 32
  /-- doorbell writes: value and cycle, latest first | — | 03_encoding R76 | none -/
  bells : List (BitVec 32 × Nat)
  /-- commands fetched and not ended, oldest first | list | 18_host R339 | empty -/
  cmds : List HostCmd
  /-- refetches made of the slot whose SEQ differs, and the cycle of the last read | — | 18_host R339 | none -/
  refetch : Option (Nat × Nat)
  /-- watchdog: cycle at which the progress counter last advanced | — | 16_traps R317 | 0 -/
  progressAt : Nat
  /-- watchdog T1 has acted since the counter last advanced | 1 | 16_traps R318 | no -/
  t1Done : Bool
  /-- stopped by a kill, and not yet restarted | 1 | 16_traps R319 | no -/
  killed : Bool
  deriving DecidableEq, Repr

/-- A queue as reset leaves it. -/
def HostQueue.fresh : HostQueue :=
  { ring := 0, cring := 0, ctrl := 0, vector := 0, state := 0, cons := 0, ccons := 0, t1 := 0, t2 := 0, prod := 0, bells := [], cmds := [],
    refetch := none, progressAt := 0, t1Done := false, killed := false }

/-- A view engine (Tables 18-8, 18-11). -/
structure ViewEngine where
  /-- partition bound to | 4 | 18_host R354 | unbound -/
  part : Option Nat
  /-- bind block | 64 bytes | 18_host R351 | none -/
  block : List (BitVec 8)
  /-- PROD | 32 | 18_host R354 | 0 -/
  prod : BitVec 32
  /-- CONS | 32 | 18_host R354 | 0 -/
  cons : BitVec 32
  /-- WAITRING | 1 | 18_host R354 | 0 -/
  waitRing : Bool
  /-- FAULT | 1 | 18_host R354 | 0 -/
  fault : Bool
  /-- FRAMES | 64 | 18_host R354 | 0 -/
  frames : BitVec 64
  /-- FFRAME | 64 | 18_host R354 | 0 -/
  fframe : BitVec 64
  /-- FPHASE | 2 | 18_host R354 | 0 -/
  fphase : Nat
  /-- FCAUSE | 16 | 18_host R354 | 0 -/
  fcause : BitVec 16
  /-- VECTOR | 16 | 18_host R354 | 0 -/
  vector : BitVec 16
  /-- frame in hand: 0 taking, 1 encoding, 2 writing, 3 releasing | — | 13_staged R268 | 0 -/
  phase : Nat
  /-- index of the frame in hand, counted since the bind | — | 18_host R351 | 0 -/
  frame : Nat
  /-- lines of the frame taken or released so far | — | 13_staged R268 | 0 -/
  lines : Nat
  /-- lines of the frame that have been read, by number | 512 each | 13_staged R268 | none -/
  picture : NMap (List (BitVec 8))
  /-- temporal unit encoded and not yet written | bytes | 18_host R352 | none -/
  unit : List (BitVec 8)
  /-- sequence header of the last key frame | bytes | 18_host R351 | none -/
  seq : List (BitVec 8)
  /-- what holds the engine | — | 13_staged R262 | nothing -/
  hold : WaitKind
  deriving DecidableEq, Repr

/-- An unbound view engine. -/
def ViewEngine.fresh : ViewEngine :=
  { part := none, block := [], prod := 0, cons := 0, waitRing := false, fault := false, frames := 0, fframe := 0, fphase := 0,
    fcause := 0, vector := 0, phase := 0, frame := 0, lines := 0, picture := [], unit := [], seq := [], hold := .poll }

/-- Elements one member of a collective group has sent to another of this module, which has yet to receive them (R358), with the number of
the COLL that sent them and which of its member's COLLs on the group it is. -/
structure CollMsg where
  cmd : Nat
  part : Nat
  group : Nat
  run : Nat
  src : Nat
  dst : Nat
  bytes : List (BitVec 8)
  deriving DecidableEq, Repr

/-- Whose a store is: a strand's by its number, a hart's command's, a view engine's, or another agent's; a strand and a command name their
launch. -/
inductive Origin where
  | strand (part launch uid : Nat)
  | hart (part launch h : Nat)
  | view (e : Nat)
  | other
  deriving DecidableEq, Repr

/-- A store on the module's outbound path to host or peer memory: performed at every scope below system, and at system scope once its
home acknowledges it (R241). It names its flat byte addresses, and whose it is. -/
structure Outbound where
  addrs : List Nat
  who : Origin
  deriving DecidableEq, Repr

/-- A Hasp link (Table 18-12). -/
structure Link where
  /-- PEER | 16 | 18_host R356 | 0 -/
  peer : BitVec 16
  /-- UP | 1 | 18_host R356 | 0 -/
  up : Bool
  /-- TRAINED | 1 | 18_host R356 | 0 -/
  trained : Bool
  /-- REPLAYS | 64 | 18_host R356 | 0 -/
  replays : BitVec 64
  /-- DOWNS | 64 | 18_host R356 | 0 -/
  downs : BitVec 64
  /-- FLITS | 64 | 18_host R356 | 0 -/
  flits : BitVec 64
  /-- VECTOR | 16 | 18_host R356 | 0 -/
  vector : BitVec 16
  /-- replays of the flit in hand that have failed | — | 18_host R355 | 0 -/
  fails : Nat
  deriving DecidableEq, Repr

/-- A link as reset leaves it. -/
def Link.fresh : Link :=
  { peer := 0, up := false, trained := false, replays := 0, downs := 0, flits := 0, vector := 0, fails := 0 }

/-- What happens next: a cell issues, and a memory instruction that it issues is performed at once or, in a late issue, by a later turn
(R242); a waiting strand tries its instruction again; an event of the opcode table happens; cycles pass; the host writes its own memory;
the oldest store on the outbound path is acknowledged; the host resizes BAR4 (R335); or a peer module accesses a partition's memory (R238, R257, R357). DESIGN CHOICE:
log 12. -/
inductive Turn where
  | issue (cell : Nat)
  | issueLate (cell : Nat)
  | retry (slot : Nat)
  | event (e : Instr)
  | tick (n : Nat)
  | hostStore (addr : Nat) (bytes : List (BitVec 8))
  | acknowledge
  | barSize (code : Nat)
  | peer (part : Nat) (va : BitVec 64) (trans : Nat) (bytes : List (BitVec 8))
  deriving DecidableEq, Repr

/-- The state of the module. -/
structure State where
  /-- memory: device, local, host and peer bytes | 8 each | 14_memory_hierarchy R269, R273 | unlisted bytes read 0 (log 5) -/
  mem : List Host.Cell
  /-- bytes whose value is unpredictable, with the number that names the free value | — | 10_message_task_engine R220 | none -/
  unk : NMap Nat
  /-- line states of device memory | 4 per line | 13_staged R254 | 0 -/
  lines : NMap (BitVec 4)
  /-- poisoned lines: 1 data, 2 sideband | — | 14_memory_hierarchy R285 | none -/
  poisoned : NMap Nat
  /-- stores performed to words that have been written after a launch was queued, latest first (R76) | — | 03_encoding R76 | none -/
  codeLog : NMap (List (BitVec 32 × Nat))
  /-- strands by slot number (cell × 16 + slot) | — | 15_scheduling R294 | none -/
  slots : NMap Strand
  /-- cells by number (cluster × 8 + cell) | — | 00_scope R2 | fresh -/
  cells : NMap Cell
  /-- clusters | — | 00_scope R2 | fresh -/
  clusters : NMap Cluster
  /-- harts: cluster × 2 + h, then 384 + die for the collective engines | — | 17_engines R320 | idle -/
  harts : NMap Hart
  /-- elements sent between members of this module and not yet received, oldest first | list | 18_host R358 | none -/
  sent : List CollMsg
  /-- reservations | — | 06_memory R136 | none -/
  resv : List Reservation
  /-- stores on the outbound path, oldest first | list | 12_ordering_model R241 | none -/
  outbound : List Outbound
  /-- parked accesses, in the order they parked | list | 13_staged R262 | none -/
  parked : List Parked
  /-- wake passes to run, in order | list | 13_staged R263 | none -/
  passes : List WakePass
  /-- partitions | 16 | 18_host R346 | none -/
  parts : NMap Partition
  /-- host queues | 16,384 | 18_host R336 | stopped -/
  hqs : NMap HostQueue
  /-- view engines | 16 | 18_host R354 | unbound -/
  views : NMap ViewEngine
  /-- Hasp links | 12 | 18_host R356 | down -/
  links : NMap Link
  /-- MODULE, this module's number | 13 | 18_host R356 | 0 -/
  moduleNo : BitVec 13
  /-- READY | 1 | 19_image R366 | 0 -/
  ready : Bool
  /-- PHASE | 4 | 19_image R366 | 0 -/
  phase : Nat
  /-- FWFAIL | 1 | 19_image R366 | 0 -/
  fwfail : Bool
  /-- HBMOK | 8 | 19_image R366 | 0 -/
  hbmok : BitVec 8
  /-- HASPUP | 12 | 19_image R366 | 0 -/
  haspup : BitVec 12
  /-- WBASE | 64 | 19_image R366 | 0 -/
  wbase : BitVec 64
  /-- running firmware image | bytes | 19_image R364 | DESIGN CHOICE: the empty image (log 4) -/
  firmware : List (BitVec 8)
  /-- staged firmware image | bytes | 19_image R364 | none -/
  staged : Option (List (BitVec 8))
  /-- firmware mailbox CMD | 32 | 19_image R365 | 0 -/
  fwCmd : BitVec 32
  /-- firmware mailbox STATUS | 32 | 19_image R365 | 0 -/
  fwStatus : BitVec 32
  /-- firmware mailbox ADDR | 64 | 19_image R365 | 0 -/
  fwAddr : BitVec 64
  /-- firmware mailbox LEN | 64 | 19_image R365 | 0 -/
  fwLen : BitVec 64
  /-- firmware mailbox KEYSLOT | 8 | 19_image R365 | 0 -/
  fwKeySlot : BitVec 8
  /-- firmware mailbox PART | 8 | 19_image R365 | 0 -/
  fwPart : BitVec 8
  /-- firmware mailbox VECTOR | 16 | 19_image R365 | 0 -/
  fwVector : BitVec 16
  /-- attestation nonce | 64 bytes | 19_image R369 | DESIGN CHOICE 0 (log 4) -/
  nonce : List (BitVec 8)
  /-- the nonce of the request that is to be answered | 64 bytes | 19_image R369 | none -/
  asked : List (BitVec 8)
  /-- ASTAT | 32 | 19_image R369 | 0 -/
  astat : BitVec 32
  /-- attestation report | bytes | 19_image R369 | DESIGN CHOICE: empty (log 4) -/
  report : List (BitVec 8)
  /-- MSI-X table, by byte offset in BAR0 0x001_0000 | 8 each | 18_host R335 | DESIGN CHOICE 0 (log 4) -/
  msixTable : NMap (BitVec 8)
  /-- MSI-X pending-bit array: the vectors whose bits are set | 2,048 bits | 18_host R335 | DESIGN CHOICE: none (log 4) -/
  msixPending : List Nat
  /-- size of BAR4: 2 to the power of 30 and this, up to 9 | — | 18_host R335 | DESIGN CHOICE 0 (log 4) -/
  bar4Code : Nat
  /-- interrupts raised and not yet taken by the host, oldest first | vectors | 18_host R340 | none -/
  irqs : List Nat
  /-- the value the last BAR4 or BAR0 read returned to the host | bytes | 18_host R335 | DESIGN CHOICE: empty (log 4) -/
  hostRead : List (BitVec 8)
  /-- cycle: cycles since reset, one step taking one and a tick more | 64 | 01_machine_state R26 | 0 -/
  clock : Nat
  /-- the model's own: the number of the next free value | — | (model) | DESIGN CHOICE 0 (log 7) -/
  fresh : Nat
  /-- the model's own: the number of the next access, command or saved context | — | (model) | DESIGN CHOICE 0 (log 7) -/
  serial : Nat
  /-- the model's own: the slot whose instruction is executed | — | (model) | DESIGN CHOICE 0 (log 7) -/
  actor : Nat
  /-- the model's own: the turns to come, which stand for the free choice of R240 and for the outside world | — | 12_ordering R240 | DESIGN CHOICE: none (log 7) -/
  agenda : List Turn
  /-- the model's own: the number of the turn the empty agenda last took | — | (model) | DESIGN CHOICE 0 (log 7) -/
  rover : Nat
  deriving DecidableEq, Repr

/-- The module right after reset (R367): nothing is bound, nothing runs, memory lists nothing. DESIGN CHOICE: log 4. -/
def State.reset : State :=
  { mem := [], unk := [], lines := [], poisoned := [], codeLog := [], slots := [], cells := [], clusters := [], harts := [], sent := [],
    resv := [], outbound := [], parked := [], passes := [], parts := [], hqs := [], views := [], links := [], moduleNo := 0, ready := false,
    phase := 0, fwfail := false, hbmok := 0, haspup := 0, wbase := 0, firmware := [], staged := none, fwCmd := 0, fwStatus := 0,
    fwAddr := 0, fwLen := 0, fwKeySlot := 0, fwPart := 0, fwVector := 0, nonce := List.replicate 64 0, asked := [], astat := 0, report := [],
    msixTable := [], msixPending := [], bar4Code := 0, irqs := [], hostRead := [], clock := 0, fresh := 0, serial := 0, actor := 0, agenda := [], rover := 0 }

end Sys2Proof.Machine
end

