-- ==== Sys2Proof/Machine/Memory.lean ====
section
/-! DEFINITION. Memory: one byte-addressed space that holds device memory and, at fixed offsets above it, every local space,
the tile images, host memory and peer memory (R269, R273, R277). Cells are listed by rising address and a byte that is not
listed reads 0 (R246, R272, R367). -/
namespace Sys2Proof.Machine

/-- The byte listed at an address, or 0. DESIGN CHOICE: log 5. -/
def Mem.get : List Host.Cell → Nat → BitVec 8
  | [], _ => 0
  | (k, b) :: r, a => if a = k then b else Mem.get r a

/-- List a byte at an address, keeping the addresses rising. -/
def Mem.put : List Host.Cell → Nat → BitVec 8 → List Host.Cell
  | [], a, b => [(a, b)]
  | (k, c) :: r, a, b => if a = k then (a, b) :: r else if a < k then (a, b) :: (k, c) :: r else (k, c) :: Mem.put r a b

/-- Unlist an address. -/
def Mem.drop : List Host.Cell → Nat → List Host.Cell
  | [], _ => []
  | (k, c) :: r, a => if a = k then Mem.drop r a else (k, c) :: Mem.drop r a

/-- Write a byte: a zero is unlisted, so that equal memories are equal lists. -/
def Mem.set (m : List Host.Cell) (a : Nat) (b : BitVec 8) : List Host.Cell :=
  if b = 0 then Mem.drop m a else Mem.put m a b

/-- The canonical form: addresses rise strictly and no listed byte is 0. -/
def Mem.wf : List Host.Cell → Bool
  | [] => true
  | [(_, b)] => b != 0
  | (a, b) :: (k, c) :: r => decide (a < k) && b != 0 && Mem.wf ((k, c) :: r)

/-- Write bytes at rising addresses. -/
def Mem.setAll (m : List Host.Cell) (a : Nat) : List (BitVec 8) → List Host.Cell
  | [] => m
  | b :: r => Mem.setAll (Mem.set m a b) (a + 1) r

/-- Device memory ends here (R278). -/
def deviceEnd : Nat := 384 * 2 ^ 30
/-- lmem of a cell (R269). DESIGN CHOICE: log 6. -/
def lmemBase (cell : Nat) : Nat := 2 ^ 40 + cell * 2 ^ 17
/-- wbuf of a cell. DESIGN CHOICE: log 6. -/
def wbufBase (cell : Nat) : Nat := 2 ^ 41 + cell * 2 ^ 17
/-- abuf of a cell. -/
def abufBase (cell : Nat) : Nat := 2 ^ 42 + cell * 2 ^ 17
/-- cbuf of a cell. -/
def cbufBase (cell : Nat) : Nat := 2 ^ 43 + cell * 2 ^ 17
/-- cmem of a cluster. -/
def cmemBase (cluster : Nat) : Nat := 2 ^ 44 + cluster * 2 ^ 20
/-- The image of a tile of a cell (R19). -/
def tileBase (cell t : Nat) : Nat := 2 ^ 45 + (cell * 16 + t) * 4096
/-- Host memory by bus address (R277, LOC 01). -/
def hostBase : Nat := 2 ^ 60
/-- Peer memory by window address (R277, LOC 10). DESIGN CHOICE: log 13. -/
def peerBase : Nat := 2 ^ 61

/-- The size of a local space in bytes, by space code (Table 14-1). -/
def spaceSize (sp : BitVec 3) : Nat :=
  match sp.toNat with
  | 1 => 98304
  | 2 => 131072
  | 3 => 98304
  | 4 => 65536
  | 5 => 1048576
  | _ => 0

/-- The flat base of a local space for a cell. -/
def localBase (sp : BitVec 3) (cell : Nat) : Nat :=
  match sp.toNat with
  | 1 => lmemBase cell
  | 2 => wbufBase cell
  | 3 => abufBase cell
  | 4 => cbufBase cell
  | _ => cmemBase (cell / 8)

/-- The 64-byte line of a flat address. -/
def lineOf (a : Nat) : Nat := a / 64

/-- The byte at a flat address: the listed byte, or the free value of an unpredictable one. DESIGN CHOICE: log 5. -/
def State.byte (s : State) (a : Nat) : BitVec 8 :=
  match NMap.get? s.unk a with
  | some k => Config.freeByte k
  | none => Mem.get s.mem a

/-- Write one byte; it stops being unpredictable. -/
def State.setByte (s : State) (a : Nat) (b : BitVec 8) : State :=
  { s with mem := Mem.set s.mem a b, unk := NMap.erase s.unk a }

/-- `n` bytes from an address on. -/
def State.bytes (s : State) (a : Nat) : Nat → List (BitVec 8)
  | 0 => []
  | n + 1 => s.byte a :: State.bytes s (a + 1) n

/-- Write bytes from an address on. -/
def State.setBytes (s : State) (a : Nat) : List (BitVec 8) → State
  | [] => s
  | b :: r => State.setBytes (s.setByte a b) (a + 1) r

/-- Make a byte unpredictable: it reads as a free value until it is written (R13, R220). DESIGN CHOICE: log 3. -/
def State.blurByte (s : State) (a : Nat) : State :=
  { s with unk := NMap.set s.unk a s.fresh, fresh := s.fresh + 1 }

/-- Make a range of bytes unpredictable. -/
def State.blurBytes (s : State) (a : Nat) : Nat → State
  | 0 => s
  | n + 1 => State.blurBytes (s.blurByte a) (a + 1) n

/-- The little-endian value of bytes (R5). -/
def leNat : List (BitVec 8) → Nat
  | [] => 0
  | b :: r => b.toNat + 256 * leNat r

/-- The low `n` bytes of a number, little-endian (R5). -/
def leBytes (v : Nat) : Nat → List (BitVec 8)
  | 0 => []
  | n + 1 => BitVec.ofNat 8 v :: leBytes (v / 256) n

/-- A field of a byte list: `n` bytes from offset `o`, little-endian; absent bytes read 0. -/
def field (bs : List (BitVec 8)) (o n : Nat) : Nat := leNat ((bs.drop o).take n)

/-- All the bytes of a range of a list are zero. -/
def zeroRange (bs : List (BitVec 8)) (o n : Nat) : Bool := ((bs.drop o).take n).all (· == 0)

/-- The 4-bit state of a device line; every other line has none and counts as 0 (R254, R255). -/
def State.lineState (s : State) (line : Nat) : BitVec 4 := NMap.getD s.lines line 0

/-- Set a line's state (R254). -/
def State.setLineState (s : State) (line : Nat) (v : BitVec 4) : State :=
  { s with lines := if v = 0 then NMap.erase s.lines line else NMap.set s.lines line v }

/-- A poisoned line (R285). -/
def State.isPoisoned (s : State) (line : Nat) : Bool := (NMap.get? s.poisoned line).isSome

end Sys2Proof.Machine
end

