-- ==== Sys2Proof/Machine/Ops.lean ====
section
/-! DEFINITION. The named operations every meaning is built from: the parts of the state by number, the register window
(R9 to R13), ports (R14, R15, R101), traps and the return from one (R229, R231), strand end and barriers (R123, R213), crew
error records (R309) and fault records (R282, R283), and how an instruction's outcome becomes the machine's next state. -/
namespace Sys2Proof.Machine

/-! ### Parts of the state -/

/-- The strand in a slot. -/
def State.strand? (s : State) (n : Nat) : Option Strand := NMap.get? s.slots n
/-- Put a strand into a slot. -/
def State.setStrand (s : State) (n : Nat) (st : Strand) : State := { s with slots := NMap.set s.slots n st }
/-- The strand whose instruction is executed. DESIGN CHOICE: log 7. -/
def State.me? (s : State) : Option Strand := s.strand? s.actor
/-- Replace the strand whose instruction is executed. -/
def State.setMe (s : State) (st : Strand) : State := s.setStrand s.actor st
/-- A cell. -/
def State.cell (s : State) (c : Nat) : Cell := NMap.getD s.cells c Cell.fresh
/-- Replace a cell. -/
def State.setCell (s : State) (c : Nat) (x : Cell) : State := { s with cells := NMap.set s.cells c x }
/-- A cluster. -/
def State.cluster (s : State) (k : Nat) : Cluster := NMap.getD s.clusters k Cluster.fresh
/-- Replace a cluster. -/
def State.setCluster (s : State) (k : Nat) (x : Cluster) : State := { s with clusters := NMap.set s.clusters k x }
/-- A live partition. -/
def State.part? (s : State) (p : Nat) : Option Partition := NMap.get? s.parts p
/-- Change a live partition. -/
def State.modPart (s : State) (p : Nat) (f : Partition → Partition) : State :=
  match NMap.get? s.parts p with
  | some x => { s with parts := NMap.set s.parts p (f x) }
  | none => s
/-- A live launch of a partition. -/
def State.launch? (s : State) (p l : Nat) : Option Launch := (s.part? p).bind fun x => NMap.get? x.launches l
/-- Change a live launch. -/
def State.modLaunch (s : State) (p l : Nat) (f : Launch → Launch) : State :=
  s.modPart p fun x => match NMap.get? x.launches l with
    | some y => { x with launches := NMap.set x.launches l (f y) }
    | none => x
/-- A crew of a live launch. -/
def State.crew? (s : State) (p l k : Nat) : Option Crew := (s.launch? p l).bind fun x => NMap.get? x.crews k
/-- Change a crew. -/
def State.modCrew (s : State) (p l k : Nat) (f : Crew → Crew) : State :=
  s.modLaunch p l fun x => match NMap.get? x.crews k with
    | some c => { x with crews := NMap.set x.crews k (f c) }
    | none => x
/-- A hart. -/
def State.hart (s : State) (h : Nat) : Hart := NMap.getD s.harts h ⟨[], []⟩
/-- Replace a hart. -/
def State.setHart (s : State) (h : Nat) (x : Hart) : State := { s with harts := NMap.set s.harts h x }
/-- The mask bit of an MSI-X vector, in the last word of its table entry. PRESUMED: log 67. -/
def State.masked (s : State) (v : Nat) : Bool := (NMap.getD s.msixTable (16 * v + 12) 0).getLsbD 0

/-- Raise an MSI-X vector (R340); the pending-bit array keeps one that is masked (R335). DESIGN CHOICE: log 12. PRESUMED: log 67. -/
def State.raise (s : State) (v : Nat) : State :=
  if s.masked v then { s with msixPending := if s.msixPending.contains v then s.msixPending else s.msixPending ++ [v] }
  else { s with irqs := s.irqs ++ [v] }

/-- Pending vectors that are masked no more are raised. PRESUMED: log 67. -/
def State.unmask (s : State) : State :=
  { s with irqs := s.irqs ++ s.msixPending.filter (fun v => !s.masked v), msixPending := s.msixPending.filter s.masked }
/-- A free choice among `n` alternatives, and the state that has drawn it. DESIGN CHOICE: log 3. -/
def State.choose (s : State) (n : Nat) : Nat × State := (Config.pick s.fresh % n, { s with fresh := s.fresh + 1 })

/-- The cell of a slot number. -/
def cellOf (n : Nat) : Nat := n / 16
/-- The cluster of a slot number. -/
def clusterOf (n : Nat) : Nat := n / 128
/-- The physical slot within its cell. -/
def slotOf (n : Nat) : Nat := n % 16
/-- The ordinal of a cluster in its partition (R346); 0 for a cluster that has none. -/
def State.ordinal (s : State) (k : Nat) : Nat := ((s.cluster k).owner.map Prod.snd).getD 0
/-- The partition cell number of a cell (R209). -/
def State.pcn (s : State) (c : Nat) : Nat := s.ordinal (c / 8) * 8 + c % 8
/-- The cluster at an ordinal of a partition. -/
def State.clusterAt (s : State) (p k : Nat) : Option Nat := (s.part? p).bind fun x => x.clusters[k]?
/-- The cell with a partition cell number. -/
def State.cellAt (s : State) (p pcn : Nat) : Option Nat := (s.clusterAt p (pcn / 8)).map fun k => k * 8 + pcn % 8

/-! ### Launch-descriptor fields (Table 15-1) -/

/-- A descriptor field of a launch. -/
def Launch.fld (l : Launch) (o n : Nat) : Nat := field l.desc o n
/-- Crews. -/
def Launch.nCrews (l : Launch) : Nat := l.fld 0 1 + 1
/-- CELLS. -/
def Launch.nCells (l : Launch) : Nat := l.fld 1 1
/-- SLOTS. -/
def Launch.nSlots (l : Launch) : Nat := l.fld 2 1
/-- ALLOT. -/
def Launch.allot (l : Launch) : Nat := l.fld 3 1
/-- TILES. -/
def Launch.tiles (l : Launch) : Nat := l.fld 4 1
/-- The port-stall limit. -/
def Launch.stall (l : Launch) : Nat := l.fld 16 4
/-- The trap vector, 0 for none. -/
def Launch.trap (l : Launch) : Nat := l.fld 72 8
/-- FIRST, COUNT, BIND and DEPTH of a stage. -/
def Launch.stageFld (l : Launch) (n i : Nat) : Nat := l.fld (112 + 4 * n + i) 1
/-- The stage of a launch slot (R289): a slot no stage covers is in stage 0. -/
def Launch.stageOf (l : Launch) (j : Nat) : Nat :=
  ((List.range 4).find? fun n => l.stageFld n 1 != 0 && decide (l.stageFld n 0 ≤ j)
    && decide (j < l.stageFld n 0 + l.stageFld n 1)).getD 0
/-- BIND of a launch slot: 0 none, 1 stage, 2 port, 3 enq; a slot no stage covers has none (R289). -/
def Launch.bindOf (l : Launch) (j : Nat) : Nat :=
  match (List.range 4).find? fun n => l.stageFld n 1 != 0 && decide (l.stageFld n 0 ≤ j)
    && decide (j < l.stageFld n 0 + l.stageFld n 1) with
  | some n => l.stageFld n 2
  | none => 0
/-- The crew of a launch that holds a window on a cell, with the window: crew index, slot base, tile base. -/
def Launch.windowOn (l : Launch) (cell : Nat) : Option (Nat × Nat × Nat) :=
  l.crews.findSome? fun kc => (kc.2.cells.find? fun w => w.1 == cell).map fun w => (kc.1, w.2.1, w.2.2)

/-- BIND of the launch slot that a physical slot is, for a strand's launch (R51, R289); 0 outside the launch's window. -/
def State.slotBind (s : State) (n : Nat) (st : Strand) : Nat :=
  match s.launch? st.part st.launch with
  | some l => match l.windowOn (cellOf n) with
    | some (_, sb, _) => l.bindOf (slotOf n - sb)
    | none => 0
  | none => 0

/-! ### Registers (R9, R17, R22) -/

/-- Whose a strand's stores are. -/
def Strand.origin (st : Strand) : Origin := .strand st.part st.launch st.uid

/-- Some store of an agent is not yet acknowledged by its home (R241). -/
def State.owes (s : State) (who : Origin) : Bool := s.outbound.any fun o => o.who == who

/-- Some store of a hart's commands is not yet acknowledged (R241). -/
def State.hartOwes (s : State) (h : Nat) : Bool :=
  s.outbound.any fun o => match o.who with
    | .hart _ _ k => k == h
    | _ => false

/-- A store is that of an agent of a launch. -/
def Origin.ofLaunch (p l : Nat) : Origin → Bool
  | .strand q m _ => q == p && m == l
  | .hart q m _ => q == p && m == l
  | .view _ => false
  | .other => false

/-- The value of a register-stack entry (R9, R10): what was last written; 0 below index 20; else 0 or one of the values that earlier
strands of the launch left in the slot's file, which of them being unpredictable. -/
def Strand.entry (st : Strand) (i : Nat) : BitVec 64 :=
  match NMap.get? st.stk i with
  | some v => v
  | none => if i < 20 then 0 else (0 :: st.left).getD (Config.stackChoice st.uid i % (st.left.length + 1)) 0

/-- A scalar register that is no port (R9). -/
def Strand.g (st : Strand) (r : Reg) : BitVec 64 :=
  if r.toNat = 0 then 0
  else if r.toNat < 8 then NMap.getD st.fixed r.toNat 0
  else st.entry (st.winbase + r.toNat - 8)

/-- Write a scalar register that is no port; g0 discards (R9). -/
def Strand.setG (st : Strand) (r : Reg) (v : BitVec 64) : Strand :=
  if r.toNat = 0 then st
  else if r.toNat < 8 then { st with fixed := NMap.set st.fixed r.toNat v }
  else { st with stk := NMap.set st.stk (st.winbase + r.toNat - 8) v }

/-- A predicate (R22): p0 reads as all ones. -/
def Strand.p (st : Strand) (k : BitVec 3) : BitVec 16 := if k = 0 then BitVec.allOnes 16 else NMap.getD st.preds k.toNat 0

/-- Write a predicate; p0 discards (R22). -/
def Strand.setP (st : Strand) (k : BitVec 3) (v : BitVec 16) : Strand :=
  if k = 0 then st else { st with preds := NMap.set st.preds k.toNat v }

/-- A vector register (R17). -/
def Strand.v (st : Strand) (r : Reg) : BitVec 512 := NMap.getD st.vregs r.toNat 0

/-- Write a vector register. -/
def Strand.setV (st : Strand) (r : Reg) (x : BitVec 512) : Strand := { st with vregs := NMap.set st.vregs r.toNat x }

/-- The guard mask, after any inversion (R22). -/
def Strand.mask (st : Strand) (g : Guard) : BitVec 16 := if g.n then ~~~(st.p g.p) else st.p g.p

/-- The guard of a scalar instruction allows it (R22, R73). -/
def Strand.allows (st : Strand) (g : Guard) : Bool := (st.mask g).getLsbD 0

/-- A PC has bits [1:0] equal to zero (R75). -/
def alignPc (v : BitVec 64) : BitVec 64 := v &&& 0xFFFFFFFFFFFFFFFC

/-- Retire: the PC moves past the instruction's words and the strand waits no more. -/
def Strand.advance (st : Strand) (words : Nat) : Strand :=
  { st with pc := st.pc + BitVec.ofNat 64 (4 * words), wait := none, held := none }

/-- Retire to a target. -/
def Strand.jump (st : Strand) (target : BitVec 64) : Strand := { st with pc := target, wait := none, held := none }

/-- OR flags into fpflags (R98). -/
def Strand.orFlags (st : Strand) (f : Flags) : Strand := { st with fpflags := st.fpflags ||| f }

/-- A register some relaxed load has yet to write (R128). -/
def Strand.pendingG (st : Strand) (r : Reg) : Bool :=
  st.window.any fun a => match a.dest with
    | .reg d _ => d == r
    | _ => false

/-- A vector register some relaxed load has yet to write (R162). -/
def Strand.pendingV (st : Strand) (r : Reg) : Bool :=
  st.window.any fun a => match a.dest with
    | .vec d _ => d == r
    | _ => false

/-- The poison that a named register reports (R130). -/
def Strand.poisonOf (st : Strand) (gs vs : List Reg) : Option (BitVec 64) :=
  (st.poison.find? fun p => match p.1 with
    | .reg d _ => gs.contains d
    | .vec d _ => vs.contains d
    | .none => false).map Prod.snd

/-- No pending register, no outstanding access and nothing in the combining buffer (R130, R133). -/
def Strand.drained (st : Strand) : Bool := st.window.isEmpty && st.wcbuf.isNone

/-! ### Outcomes of an instruction's body -/

/-- A value, a trap, a wait, or an access that is not present (R282). -/
inductive Res (α : Type) where
  | ok (a : α)
  | trap (t : Trap)
  | wait (k : WaitKind)
  | notPresent (va : BitVec 64) (kind : Nat)

/-- What an instruction's body comes to: retired with a new state, a trap, a wait (with the state that records it), or
an access that is not present. -/
inductive Out where
  | ok (s : State)
  | trap (t : Trap)
  | wait (k : WaitKind) (s : State)
  | notPresent (va : BitVec 64) (kind : Nat)

/-- Go on with a value, or end as the value did. -/
def Res.andThen {α : Type} (r : Res α) (s : State) (f : α → Out) : Out :=
  match r with
  | .ok a => f a
  | .trap t => .trap t
  | .wait k => .wait k s
  | .notPresent va kind => .notPresent va kind

/-- Go on with a value inside a check. -/
def Res.bind {α β : Type} (r : Res α) (f : α → Res β) : Res β :=
  match r with
  | .ok a => f a
  | .trap t => .trap t
  | .wait k => .wait k
  | .notPresent va kind => .notPresent va kind

/-- Change the value of a check. -/
def Res.map {α β : Type} (f : α → β) (r : Res α) : Res β := r.bind fun a => .ok (f a)

/-- A trap with a cause, subcode and address (Table 11-2, Table 16-1). -/
def mkTrap (cause sub : Nat) (faddr : BitVec 64 := 0) : Trap := ⟨BitVec.ofNat 8 cause, BitVec.ofNat 8 sub, faddr, false⟩

/-- ILLEGAL_INSTR. -/
def illegal (sub : Nat := 0) : Trap := mkTrap 0x01 sub
/-- REG_BOUND. -/
def regBound : Trap := mkTrap 0x02 0
/-- TILE_GRANT. -/
def tileGrant : Trap := mkTrap 0x03 0
/-- TILE_SHAPE. -/
def tileShape (sub : Nat) : Trap := mkTrap 0x04 sub
/-- ALIGN. -/
def alignTrap (sub : Nat) (a : BitVec 64) : Trap := mkTrap 0x05 sub a
/-- TRANSLATION. -/
def translation (sub : Nat) (a : BitVec 64) : Trap := mkTrap 0x06 sub a
/-- PERMISSION. -/
def permission (sub : Nat) (a : BitVec 64 := 0) : Trap := mkTrap 0x07 sub a
/-- STAGED_FAULT. -/
def stagedFault (sub : Nat) (a : BitVec 64) : Trap := mkTrap 0x08 sub a

/-- Require a condition, or trap. -/
def Res.need (ok : Bool) (t : Trap) : Res Unit := if ok then .ok () else .trap t

/-! ### Ports (R14, R15, R101) -/

/-- A register field that names a port (R9). -/
def isPort (r : Reg) : Bool := decide (28 ≤ r.toNat)

/-- A receive queue of a cell. -/
def Cell.port (c : Cell) (q : Nat) : PortQueue := NMap.getD c.ports q ⟨[], [], none⟩

/-- The next cell in ring order 0, 1, 2, 3, 7, 6, 5, 4 (R14). -/
def ringNext (c : Nat) : Nat := [1, 2, 3, 7, 0, 4, 5, 6].getD c 0
/-- The previous cell in ring order. -/
def ringPrev (c : Nat) : Nat := [4, 0, 1, 2, 5, 6, 7, 3].getD c 0

/-- Where a send on a port goes: the receiving cell and its queue (Table 1-3); none when the partition has no such
cluster. -/
def State.portDest (s : State) (p cell q : Nat) : Option (Nat × Nat) :=
  let k := cell / 8
  let c := cell % 8
  match q with
  | 0 => some (k * 8 + ringNext c, 1)
  | 1 => some (k * 8 + ringPrev c, 0)
  | 2 => some (k * 8 + (7 - c), 2)
  | _ => (s.clusterAt p ((s.ordinal k) ^^^ 1)).map fun k' => (k' * 8 + c, 3)

/-- A cell holds a slot of a launch (R15). -/
def State.holdsLaunch (s : State) (p l cell : Nat) : Bool :=
  match s.launch? p l with
  | some x => (x.windowOn cell).isSome
  | none => false

/-- Pop one word of each named queue, in order. -/
def popPorts (c : Cell) : List Reg → List (Option (BitVec 64)) × Cell
  | [] => ([], c)
  | r :: rest =>
    if isPort r then
      let q := r.toNat - 28
      let pq := c.port q
      let c' := { c with ports := NMap.set c.ports q { pq with words := pq.words.drop 1 } }
      let (vs, c'') := popPorts c' rest
      (some (pq.words.headD 0) :: vs, c'')
    else
      let (vs, c') := popPorts c rest
      (none :: vs, c')

/-- Where a port destination of a strand leads, if a register is one: to a queue, or to none (R14, R15). -/
def State.sendTarget (s : State) (st : Strand) (dst : Option Reg) : Option (Option (Nat × Nat)) :=
  (dst.filter isPort).map fun r => s.portDest st.part (cellOf s.actor) (r.toNat - 28)

/-- The PERMISSION of an instruction that reads a receive queue its slot does not own, or sends where no slot of its launch is (R15). -/
def State.portTrap (s : State) (st : Strand) (srcs : List Reg) (dst : Option Reg) : Option Trap :=
  if (srcs.filter isPort).any (fun r =>
      ((s.cell (cellOf s.actor)).port (r.toNat - 28)).owner != some (st.part, st.launch, slotOf s.actor)) then some (permission 2)
  else match s.sendTarget st dst with
    | none => none
    | some none => some (permission 2)
    | some (some t) => if s.holdsLaunch st.part st.launch t.1 then none else some (permission 2)

/-- Read the scalar sources of an instruction whose destination register, if any, is `dst` (R15, R100, R101): a pending
register or an empty or full queue waits, poison met by an earlier relaxed access is reported, ports are checked, and
all pops happen as one step. The values come in the order of `srcs`, with the state after the pops. The poison comes before the port's
PERMISSION. DESIGN CHOICE: log 70. -/
def readSources (st : Strand) (s : State) (srcs : List Reg) (dst : Option Reg) (vs : List Reg := []) :
    Res (List (BitVec 64) × State) :=
  let named := srcs ++ dst.toList
  if named.any st.pendingG || vs.any st.pendingV then .wait .poll
  else match st.poisonOf named vs with
  | some a => .trap (translation 4 a)
  | none =>
    if named.any isPort then
      let cell := cellOf s.actor
      let c := s.cell cell
      let reads := srcs.filter isPort
      match s.portTrap st srcs dst with
      | some t => .trap t
      | none =>
        if st.cdl && !reads.isEmpty then .trap (permission 18)
        else if reads.any (fun r => decide ((c.port (r.toNat - 28)).words.length < (reads.filter (· == r)).length)) then
          .wait .recv
        else if (match s.sendTarget st dst with
            | some (some t) =>
              let pq := (s.cell t.1).port t.2
              decide (8 ≤ pq.words.length + pq.flight.length)
            | _ => false) then .wait .portSend
        else
          let (popped, c') := popPorts c srcs
          let s' := if reads.isEmpty then s else s.setCell cell c'
          .ok (List.zipWith (fun r v => v.getD (st.g r)) srcs popped, s')
    else .ok (srcs.map st.g, s)

/-- Write a scalar destination: a register of the strand, or a word sent on a port (R9, R14). The strand is put back. -/
def writeDest (st : Strand) (s : State) (d : Reg) (v : BitVec 64) : State :=
  if isPort d then
    match s.portDest st.part (cellOf s.actor) (d.toNat - 28) with
    | some (cell, q) =>
      let c := s.cell cell
      let pq := c.port q
      (s.setCell cell { c with ports := NMap.set c.ports q { pq with flight := pq.flight ++ [v] } }).setMe st
    | none => s.setMe st
  else s.setMe (st.setG d v)

/-! ### Tags (R24) -/

/-- A slot owns a tag. -/
def Cell.ownsTag (c : Cell) (slot tag : Nat) : Bool := (NMap.getD c.tagOwner tag 0).getLsbD slot
/-- The outstanding tags of a slot: READY clear and the slot recorded. -/
def Cell.outstanding (c : Cell) (slot : Nat) : List Nat :=
  (List.range 64).filter fun t => !c.tagReady.getLsbD t && NMap.get? c.tagSlot t == some slot
/-- Set a tag's READY bit. -/
def Cell.setReady (c : Cell) (tag : Nat) (v : Bool) : Cell :=
  let m : BitVec 64 := BitVec.ofNat 64 (2 ^ tag)
  { c with tagReady := if v then c.tagReady ||| m else c.tagReady &&& ~~~m }

/-! ### Records for the host (R283, R309) -/

/-- A crew error record (Table 16-2). -/
def errRecord (epc launch crew index stage cause faddr kind pcn : Nat) : ErrRec :=
  leBytes epc 8 ++ leBytes (launch * 2 ^ 48 + crew * 2 ^ 40 + index * 2 ^ 32 + stage * 2 ^ 24 + cause) 8
    ++ leBytes faddr 8 ++ leBytes (kind * 2 ^ 56 + pcn) 8

/-- Post a crew error record to a partition; it is appended once there is room (R309). -/
def State.postError (s : State) (p : Nat) (r : ErrRec) : State := s.modPart p fun x => { x with errs := x.errs ++ [r] }

/-- A fault record (Table 14-5). -/
def faultRecord (va seq ordinal kind index crew launch cell slot agent : Nat) : List (BitVec 8) :=
  leBytes va 8 ++ leBytes (seq * 2 ^ 48 + ordinal * 2 ^ 40 + kind * 2 ^ 32 + index * 2 ^ 24 + crew * 2 ^ 16 + launch) 8
    ++ leBytes (cell * 2 ^ 8 + slot * 2 ^ 4 + agent) 8 ++ leBytes 0 8

/-- Join the open record of a page, or open a new one (R282); the record's number comes back. -/
def State.openFault (s : State) (p : Nat) (va : BitVec 64) (who : Agent) (mk : Nat → List (BitVec 8)) : Nat × State :=
  match s.part? p with
  | none => (0, s)
  | some x =>
    let page := va.toNat / 2 ^ 16
    match x.faults.find? fun f => f.page == page with
    | some f =>
      let join := replaceFirst (fun (g : FaultRec) => g.seq == f.seq) fun g => { g with joined := g.joined ++ [who] }
      (f.seq, s.modPart p fun y => { y with faults := join y.faults })
    | none =>
      (x.fseq, s.modPart p fun y => { y with
        fseq := (y.fseq + 1) % 2 ^ 16
        faults := y.faults ++ [⟨x.fseq, page, mk x.fseq, false, [who]⟩] })

/-- Open or join the record of a strand's access (R282, R283). -/
def State.strandFault (s : State) (n : Nat) (st : Strand) (va : BitVec 64) (kind : Nat) : Nat × State :=
  s.openFault st.part va (.slot n) fun seq =>
    faultRecord va.toNat seq (s.ordinal (clusterOf n)) kind st.index st.crew st.launch (cellOf n % 8) (slotOf n) 0

/-! ### Barriers, strand end and traps -/

/-- Open the barrier when everyone has arrived (R213). DEDUCED: log 45. -/
def Crew.checkBar (c : Crew) : Crew := if c.a = c.m && c.a != 0 then { c with a := 0, phase := c.phase + 1 } else c

/-- One strand more (R213). -/
def State.crewGrow (s : State) (p l k : Nat) : State := s.modCrew p l k fun c => { c with m := c.m + 1 }
/-- One strand fewer; the barrier opens if that makes A = M (R213). -/
def State.crewShrink (s : State) (p l k : Nat) : State := s.modCrew p l k fun c => Crew.checkBar { c with m := c.m - 1 }

/-- The values that strands of a launch have left in a slot's register-stack file, each with the number of its strand (R10). -/
def State.leftIn (s : State) (n p l : Nat) : List (Nat × BitVec 64) :=
  match NMap.get? (s.cell (cellOf n)).stackLeft (slotOf n) with
  | some (q, m, vs) => if q = p && m = l then vs else []
  | none => []

/-- The values that a strand which takes a slot may meet in its file: those of earlier strands of its launch, not its own (R10). -/
def State.leftFor (s : State) (n : Nat) (st : Strand) : List (BitVec 64) :=
  (((s.leftIn n st.part st.launch).filter fun v => v.1 != st.uid).map Prod.snd).eraseDups

/-- No value of a launch stays in any register-stack file (R10): its identifier is free. -/
def State.forgetStacks (s : State) (p l : Nat) : State :=
  { s with cells := s.cells.map fun c => (c.1, { c.2 with stackLeft := c.2.stackLeft.filter fun v => !(v.2.1 == p && v.2.2.1 == l) }) }

/-- A strand leaves the values of its register stack in its slot's file (R10). -/
def State.leaveStack (s : State) (n : Nat) (st : Strand) : State :=
  if st.stk.isEmpty then s
  else
    let c := s.cell (cellOf n)
    let l := (s.leftIn n st.part st.launch ++ st.stk.map fun e => (st.uid, e.2)).eraseDups
    s.setCell (cellOf n) { c with stackLeft := NMap.set c.stackLeft (slotOf n) (st.part, st.launch, l) }

/-- A partition-wide pre-emption is complete: its packets are delivered and its strands are saved (R316). -/
def State.preemptDone (s : State) (e : Preempting) : Bool :=
  e.packets.isEmpty && e.slots.all fun n => match s.strand? n with
    | some st => st.preReq.isNone
    | none => true

/-- Pre-emptions that nobody is to be told of end once they are complete. -/
def State.endPreempts (s : State) (p : Nat) : State :=
  s.modPart p fun x => { x with preempting := x.preempting.filter fun e => e.report.isSome || !s.preemptDone e }

/-- The strand ceases to exist and its slot is free (R123); a pre-emption whose last strand it was is complete (R316). -/
def State.endStrand (s : State) (n : Nat) : State :=
  match s.strand? n with
  | none => s
  | some st =>
    let s' := { s.leaveStack n st with
                       slots := NMap.erase s.slots n,
                       resv := s.resv.filter fun r => !(r.part == st.part && r.launch == st.launch && r.crew == st.crew && r.index == st.index) }
    (s'.crewShrink st.part st.launch st.crew).endPreempts st.part

/-- HALT's condition: every access performed, the combining buffer empty, every tag READY again (R123, R133); a strand that a parity error
halts in an MMA or an XREQ stays until that is done. -/
def State.canEnd (s : State) (n : Nat) (st : Strand) : Bool :=
  st.window.isEmpty && st.wcbuf.isNone && st.mma.isNone && (s.cluster (clusterOf n)).coproc.all (fun x => x.slot != n) && ((s.cell (cellOf n)).outstanding (slotOf n)).isEmpty

/-- The strand leaves rotation and ends at once if nothing holds it (R123). A HALT in hand stays held until it retires, so that a
pre-emption can withdraw it (Table 16-3); a strand that halts on a trap holds nothing. -/
def State.haltStrand (s : State) (n : Nat) : State :=
  match s.strand? n with
  | none => s
  | some st =>
    let s' := s.setStrand n { st with halting := true, wait := none, trapPend := none }
    if s'.canEnd n st then s'.endStrand n else s'

/-- The trap vector of a strand's launch, 0 for none (R289). -/
def State.vectorOf (s : State) (st : Strand) : Nat := ((s.launch? st.part st.launch).map Launch.trap).getD 0

/-- Taking a trap (R229): the accesses have drained; with HM set or no vector the strand halts with a crew error record,
else epc, cause and faddr are saved, HM is set and the PC goes to the trap vector. Nothing else changes. DEDUCED: log 46. -/
def State.takeTrap (s : State) (n : Nat) (t : Trap) : State :=
  match s.strand? n with
  | none => s
  | some st =>
    let epc := if t.brk then st.pc + 4 else st.pc
    let st1 := { st with wait := none, held := none, trapPend := none, poison := st.poison.filter fun p => !(t.cause == 6 && t.sub == 4 && p.2 == t.faddr) }
    let code := t.sub.toNat * 256 + t.cause.toNat
    if st.hm || s.vectorOf st = 0 then
      let recorded := if st.hm then t.cause.toNat * 256 + 0x0D else code
      let s1 := s.setStrand n { st1 with pc := epc }
      (s1.postError st.part
        (errRecord epc.toNat st.launch st.crew st.index st.stage recorded t.faddr.toNat 0 (s.pcn (cellOf n)))).haltStrand n
    else
      s.setStrand n { st1 with epc := epc, cause := BitVec.ofNat 16 code, faddr := t.faddr, hm := true,
                               pc := BitVec.ofNat 64 (s.vectorOf st) }

/-- Deliver a trap: at once when the strand's accesses are performed, else when they are (R130, R229). DEDUCED: log 46. -/
def State.deliver (s : State) (n : Nat) (t : Trap) : State :=
  match s.strand? n with
  | none => s
  | some st => if st.drained then s.takeTrap n t else s.setStrand n { st with trapPend := some t, wait := none, held := none }

/-- The return from a handler (R231); the PC has bits [1:0] zero (R75). -/
def Strand.eret (st : Strand) : Strand := { st with hm := false, pc := alignPc st.epc, wait := none, held := none }

/-! ### Running one instruction -/

/-- Record a wait, keeping the cycle at which a wait of the same kind began. -/
def Strand.await (st : Strand) (k : WaitKind) (now : Nat) : Strand :=
  match st.wait with
  | some w => { st with wait := some ⟨k, if w.kind = k then w.since else now⟩ }
  | none => { st with wait := some ⟨k, now⟩ }

/-- Turn the outcome of an instruction's body, run for a strand in a state, into the next state. -/
def settle (st : Strand) (s : State) (o : Out) : State :=
  match o with
  | .ok s' => s'
  | .trap t => s.deliver s.actor t
  | .wait k s' =>
    match s'.me? with
    | some st' => s'.setMe (st'.await k s.clock)
    | none => s'
  | .notPresent va kind =>
    let (seq, s') := s.strandFault s.actor st va kind
    s'.setMe (st.await (.faultPending seq va) s.clock)

/-- Execute an instruction's body for the strand in the acting slot. DESIGN CHOICE: log 11. -/
def runBody (body : Strand → State → Out) (s : State) : Host.Outcome State Fault Refusal :=
  match s.me? with
  | none => .fault .noStrand
  | some st => .next (settle st s (body st s))

/-- A guarded body (R73): a false guard only advances the PC. -/
def guarded (g : Guard) (words : Nat) (body : Strand → State → Out) (st : Strand) (s : State) : Out :=
  if st.allows g then body st s else .ok (s.setMe (st.advance words))

/-- A lane-guarded body (R73, R148): with no acting lane it only advances the PC. -/
def laneGuarded (g : Guard) (words : Nat) (body : BitVec 16 → Strand → State → Out) (st : Strand) (s : State) : Out :=
  if st.mask g = 0 then .ok (s.setMe (st.advance words)) else body (st.mask g) st s

end Sys2Proof.Machine
end

