-- ==== Sys2Proof/Machine/Operands.lean ====
section
/-! DEFINITION. The operand forms: how a scalar instruction reads its sources, computes and writes its destination (R60,
R62, R100, R101), and the lanes of the vector registers (R147, R148). -/
namespace Sys2Proof.Machine

/-- The k-th source value. -/
def src (vs : List (BitVec 64)) (k : Nat) : BitVec 64 := vs.getD k 0

/-- Bits [31:0], sign-extended to 64 bits (R100). -/
def sext32 (x : BitVec 64) : BitVec 64 := (x.setWidth 32).signExtend 64

/-- A guarded instruction with scalar sources and a scalar destination. -/
def scalarOp (g : Guard) (words : Nat) (d : Reg) (srcs : List Reg) (f : List (BitVec 64) → BitVec 64) :
    Strand → State → Out :=
  guarded g words fun st s =>
    (readSources st s srcs (some d)).andThen s fun r => .ok (writeDest (st.advance words) r.2 d (f r.1))

/-- Register and register. -/
def regReg (g : Guard) (d a b : Reg) (f : BitVec 64 → BitVec 64 → BitVec 64) : Strand → State → Out :=
  scalarOp g 1 d [a, b] fun vs => f (src vs 0) (src vs 1)

/-- Register and literal, in the three-word form (R60). -/
def regLit (g : Guard) (d a : Reg) (lit : BitVec 64) (f : BitVec 64 → BitVec 64 → BitVec 64) : Strand → State → Out :=
  scalarOp g 3 d [a] fun vs => f (src vs 0) lit

/-- One register. -/
def regOnly (g : Guard) (d a : Reg) (f : BitVec 64 → BitVec 64) : Strand → State → Out :=
  scalarOp g 1 d [a] fun vs => f (src vs 0)

/-- A guarded instruction with scalar sources that writes a predicate. -/
def predOp (g : Guard) (words : Nat) (d : BitVec 3) (srcs : List Reg) (f : List (BitVec 64) → BitVec 16) :
    Strand → State → Out :=
  guarded g words fun st s =>
    (readSources st s srcs none).andThen s fun r => .ok (r.2.setMe ((st.setP d (f r.1)).advance words))

/-! ### Vector lanes (R147) -/

/-- A lane of a vector register. -/
def lane (x : BitVec 512) (i : Nat) : BitVec 32 := x.extractLsb' (32 * i) 32

/-- Lanes by list, lane 0 first. -/
def ofLaneList (l : List (BitVec 32)) : BitVec 512 :=
  BitVec.ofNat 512 (l.foldr (fun x acc => acc * 2 ^ 32 + x.toNat) 0)

/-- Sixteen lanes as a register: `f i` is lane i. -/
def ofLanes (f : Nat → BitVec 32) : BitVec 512 := ofLaneList ((List.range 16).map f)

/-- The lanes of a register, lane 0 first. -/
def lanes (x : BitVec 512) : List (BitVec 32) := (List.range 16).map (lane x)

/-- The new register: acting lanes take their new value, the others keep the old (R148). -/
def mergeLanes (mask : BitVec 16) (old : BitVec 512) (f : Nat → BitVec 32) : BitVec 512 :=
  ofLanes fun i => if mask.getLsbD i then f i else lane old i

/-- Some vector register named is outside the allotment (R17). -/
def outsideAllot (st : Strand) (vs : List Reg) : Bool := vs.any fun r => decide (st.allot ≤ r.toNat)

end Sys2Proof.Machine
end

