-- ==== Sys2Proof/Machine/Translate.lean ====
section
/-! DEFINITION. From an address to the byte it names: the page walk and the leaves it reads (R275 to R278), the TLB (R279,
R280), the cell windows (R274), the local spaces (R269) and the checks every access passes (R125). -/
namespace Sys2Proof.Machine

/-- Where an access lands: the flat address of its first byte, the class and the type of its page (0 normal,
1 read-mostly, 2 write-combining, 3 device, 4 strongly ordered, 5 compressed), the compressed format, and LOC (0 device
memory, 1 host, 2 peer, 3 a local space), HOME, and the first address of the page's frame. -/
structure Spot where
  flat : Nat
  cls : Nat
  mt : Nat
  zfmt : Bool
  loc : Nat
  home : Nat
  frame : Nat
  deriving DecidableEq, Repr

/-- A spot in a local space: class 0, type normal (R124, R269). -/
def Spot.local (flat : Nat) : Spot := ⟨flat, 0, 0, false, 3, 0, 0⟩

/-- How an access uses memory (Table 14-5 KIND). -/
inductive AccKind where
  | read | write | rmw | fetch
  deriving DecidableEq, Repr

/-- KIND of a fault record. -/
def AccKind.code : AccKind → Nat
  | .read => 0
  | .write => 1
  | .rmw => 2
  | .fetch => 3

/-! ### The walk -/

/-- What a walk finds. -/
inductive Walk where
  | leaf (level : Nat) (e : BitVec 64)
  | notPresent
  | bad
  | poison
  deriving DecidableEq, Repr

/-- The page size of a leaf at a level (Table 14-3). -/
def levelSize (level : Nat) : Nat :=
  match level with
  | 0 => 2 ^ 16
  | 1 => 2 ^ 21
  | _ => 2 ^ 30

/-- The index bits of an address at a level (Table 14-3). -/
def levelIndex (level va : Nat) : Nat :=
  match level with
  | 3 => va / 2 ^ 43 % 2 ^ 13
  | 2 => va / 2 ^ 30 % 2 ^ 13
  | 1 => va / 2 ^ 21 % 2 ^ 9
  | _ => va / 2 ^ 16 % 2 ^ 5

/-- The size, and so the alignment, of the table a level's entry points to (Table 14-3). -/
def nextTableSize (level : Nat) : Nat :=
  match level with
  | 3 => 65536
  | 2 => 4096
  | _ => 256

/-- FRAME of a leaf, in place (Table 14-4). -/
def leafFrame (e : BitVec 64) : Nat := (e.extractLsb' 16 36).toNat * 2 ^ 16
/-- LOC of a leaf. -/
def leafLoc (e : BitVec 64) : Nat := (e.extractLsb' 52 2).toNat
/-- CLASS of a leaf. -/
def leafClass (e : BitVec 64) : Nat := (e.extractLsb' 9 6).toNat
/-- TYPE of a leaf. -/
def leafType (e : BitVec 64) : Nat := (e.extractLsb' 5 3).toNat
/-- ZFMT of a leaf. -/
def leafZfmt (e : BitVec 64) : Bool := e.getLsbD 8
/-- HOME of a leaf. -/
def leafHome (e : BitVec 64) : Nat := (e.extractLsb' 56 8).toNat

/-- A valid entry that breaks a rule of R278 at its level. -/
def malformedEntry (level : Nat) (e : BitVec 64) : Bool :=
  if e.getLsbD 1 then
    level == 3 || e.extractLsb' 54 2 != 0 || e.getLsbD 15 || decide (6 ≤ leafType e) || leafLoc e == 3
      || leafFrame e % levelSize level != 0
      || (leafLoc e == 0 && decide (deviceEnd < leafFrame e + levelSize level))
      || (leafLoc e != 0 && (leafClass e != 0 || leafType e == 5))
      || (leafZfmt e && leafType e != 5)
  else
    let next := (e.extractLsb' 8 44).toNat * 256
    level == 0 || e.extractLsb' 1 7 != 0 || e.extractLsb' 52 12 != 0 || next % nextTableSize level != 0
      || decide (deviceEnd ≤ next)

/-- The walk of R275 from a level down; `fuel` is one more than the levels below. -/
def State.walkFrom (s : State) (va table : Nat) : Nat → Walk
  | 0 => .bad
  | level + 1 =>
    let a := table + 8 * levelIndex level va
    if s.isPoisoned (lineOf a) then .poison
    else
      let e : BitVec 64 := BitVec.ofNat 64 (leNat (s.bytes a 8))
      if !e.getLsbD 0 then .notPresent
      else if malformedEntry level e then .bad
      else if e.getLsbD 1 then .leaf level e
      else State.walkFrom s va ((e.extractLsb' 8 44).toNat * 256) level

/-- The walk of an address from a partition's root (R275). DEDUCED: log 36. -/
def State.walk (s : State) (p va : Nat) : Walk :=
  match s.part? p with
  | none => .notPresent
  | some x => s.walkFrom va x.root 4

/-- The cached leaf that covers an address (R279). -/
def tlbHit (tlb : List TlbEntry) (p va : Nat) : Option TlbEntry :=
  tlb.find? fun t => t.part == p && t.va == va / levelSize t.level

/-- The walk as an access uses it: a cached leaf that differs from the table's may be used instead until a TLBI drops it
(R280), unless the access walks afresh (R282). DEDUCED: log 36. -/
def State.lookup (s : State) (p cluster : Nat) (afresh : Bool) (va : Nat) : Walk :=
  let w := s.walk p va
  if afresh then w
  else match tlbHit (s.cluster cluster).tlb p va with
    | none => w
    | some t => if w = .leaf t.level t.leaf then w
      else if Config.oldLeaf s.clock va then .leaf t.level t.leaf else w

/-- The leaf grants what an access needs (R277). -/
def leafGrants (e : BitVec 64) : AccKind → Bool
  | .read => e.getLsbD 2
  | .write => e.getLsbD 3
  | .rmw => e.getLsbD 2 && e.getLsbD 3
  | .fetch => e.getLsbD 4

/-- The Hasp window of a peer address: the 64 windows divide the 2⁵² addresses of a FRAME equally. -/
def windowOf (pa : Nat) : Nat := pa / 2 ^ 46

/-- A peer address of a partition: the bytes are those of the module and partition its window is bound to, from the window's start
(R341). DESIGN CHOICE: log 13. -/
def State.peerFlat (s : State) (p pa : Nat) : Nat :=
  match (s.part? p).bind fun x => NMap.get? x.hwins (windowOf pa) with
  | some (m, q, _) => peerBase + (m * 16 + q) * 2 ^ 46 + pa % 2 ^ 46
  | none => peerBase + pa % 2 ^ 46

/-- The flat address a leaf of a partition gives (R275, R277). -/
def State.leafFlat (s : State) (p level : Nat) (e : BitVec 64) (va : Nat) : Nat :=
  let pa := leafFrame e + va % levelSize level
  match leafLoc e with
  | 0 => pa
  | 1 => hostBase + pa
  | _ => s.peerFlat p pa

/-- A link carries traffic to a module, which has another number than this one (R355, R356). -/
def State.carries (s : State) (l : Link) (module : Nat) : Bool := l.up && l.peer.toNat == module && s.moduleNo.toNat != module
/-- Some link carries traffic to a module (R355). -/
def State.linked (s : State) (module : Nat) : Bool := s.links.any fun l => s.carries l.2 module

/-- A link that carries traffic to a module: the one named, or the lowest that does (R355, Table 18-9). -/
def State.linkTo (s : State) (module link : Nat) : Option Nat :=
  let ok (n : Nat) : Bool := s.carries (NMap.getD s.links n Link.fresh) module
  if link < 12 && ok link then some link else (List.range 12).find? ok

/-- An access of `n` bytes to peer memory sends one flit for each 64 payload bytes or part of them on a link to the peer (R355, R356).
DESIGN CHOICE: log 13. -/
def State.flitsTo (s : State) (flat n : Nat) : State :=
  if flat < peerBase then s
  else
    match s.linkTo ((flat - peerBase) / 2 ^ 50) 12 with
    | none => s
    | some l =>
      let k := NMap.getD s.links l Link.fresh
      { s with links := NMap.set s.links l { k with flits := k.flits + BitVec.ofNat 64 ((flat % 64 + n + 63) / 64) } }

/-- A peer address lies in a window that is bound to a module some link still reaches (R355). DESIGN CHOICE: log 13. -/
def State.peerReached (s : State) (p pa : Nat) : Bool :=
  match (s.part? p).bind fun x => NMap.get? x.hwins (windowOf pa) with
  | some (m, _, size) => decide (pa % 2 ^ 46 < size) && s.linked m
  | none => false

/-- A global address of a partition, walked from a cluster: steps 2 and 3 of R125. An access to peer memory that no link
reaches completes with TRANSLATION and the poison subcode (R355). -/
def State.translate (s : State) (p cluster : Nat) (afresh : Bool) (k : AccKind) (va : BitVec 64) : Res Spot :=
  if va.extractLsb' 56 8 != 0 then .trap (translation 5 va)
  else if va.extractLsb' 48 8 = 0xFF then
    let n := va.toNat % 2 ^ 48 / 2 ^ 17
    let o := va.toNat % 2 ^ 17
    match s.cellAt p n with
    | none => .trap (translation 2 va)
    | some cell =>
      if 98304 ≤ o then .trap (translation 2 va)
      else if k = .fetch then .trap (permission 0 va)
      else .ok (Spot.local (lmemBase cell + o))
  else match s.lookup p cluster afresh va.toNat with
    | .notPresent => .notPresent va k.code
    | .bad => .trap (translation 3 va)
    | .poison => .trap (translation 4 va)
    | .leaf level e =>
      if !leafGrants e k then .trap (permission 0 va)
      else if leafLoc e = 2 && !s.peerReached p (leafFrame e + va.toNat % levelSize level) then .trap (translation 4 va)
      else
        .ok ⟨s.leafFlat p level e va.toNat, leafClass e, leafType e, leafZfmt e, leafLoc e, leafHome e, leafFrame e⟩

/-- A strand's accesses walk afresh when the host has answered the record they joined (R282). -/
def Strand.afresh (st : Strand) : Bool :=
  match st.wait with
  | some w => w.kind == .replay
  | none => false

/-- A strand's global address. -/
def State.reach (s : State) (st : Strand) (k : AccKind) (va : BitVec 64) : Res Spot :=
  s.translate st.part (clusterOf s.actor) st.afresh k va

/-- The walk of an access follows every earlier access that the access itself must follow (R280, R243): all of them for a plain access
or a release, else the acquires. DEDUCED: log 36. -/
def Strand.walkWaits (st : Strand) (plain release : Bool) : Bool :=
  if plain || release then !st.window.isEmpty else st.window.any Access.acquire

/-- A naturally aligned access of a strand in a space (R124, R125): ALIGN, then the space's own checks. -/
def State.locate (s : State) (st : Strand) (k : AccKind) (sp : BitVec 3) (va : BitVec 64) (width : Nat) : Res Spot :=
  if va.toNat % width != 0 then .trap (alignTrap 0 va)
  else if sp = 0 then s.reach st k va
  else if spaceSize sp < va.toNat + width then .trap (translation 1 va)
  else .ok (Spot.local (localBase sp (cellOf s.actor) + va.toNat))

/-- A link no longer leads to the module that a flat address of peer memory lies in (R355). -/
def State.cutOff (s : State) (flat : Nat) : Bool := decide (peerBase ≤ flat) && !s.linked ((flat - peerBase) / 2 ^ 50)

/-- One page's part of a wide operand: its first address, its spot and its length. -/
structure Piece where
  va : BitVec 64
  spot : Spot
  len : Nat
  deriving DecidableEq, Repr

/-- The end of an operand's part in its first page. -/
def pieceLen (va n : Nat) : Nat := min n (2 ^ 16 - va % 2 ^ 16)

/-- A cell-window operand that leaves its window's bytes (R274). -/
def overWindow (va : BitVec 64) (len : Nat) : Bool :=
  va.extractLsb' 48 16 == 0xFF && decide (98304 < va.toNat % 2 ^ 17 + len)

/-- A wide operand of a strand, checked page by page in ascending order under steps 2 to 4 of R125: the pages that pass
before the first failure, and the failure if there is one. `check` is the type rule. -/
def State.pieces (s : State) (st : Strand) (k : AccKind) (check : Spot → BitVec 64 → Res Unit) (va : BitVec 64) (n : Nat) :
    Nat → List Piece × Res Unit
  | 0 => ([], .ok ())
  | fuel + 1 =>
    if n = 0 then ([], .ok ())
    else
      let len := pieceLen va.toNat n
      match (s.reach st k va).bind fun spot =>
          if overWindow va len then .trap (translation 2 va) else (check spot va).bind fun _ => .ok spot with
      | .ok spot =>
        let (rest, r) := State.pieces s st k check (va + BitVec.ofNat 64 len) (n - len) fuel
        (⟨va, spot, len⟩ :: rest, r)
      | .trap t => ([], .trap t)
      | .wait w => ([], .wait w)
      | .notPresent a c => ([], .notPresent a c)

/-! ### Where the register stack is kept (R12, R13) -/

/-- The lowest resident index for a window base: top is winbase + 19 (R12). -/
def lowResident (winbase : Nat) : Nat := winbase + 19 - 47

/-- Where an entry is kept: an lmem offset, or a global address, or no place at all with the address that failed (R12). -/
inductive EntryPlace where
  | lmem (off : Nat)
  | global (va : BitVec 64)
  | none (va : BitVec 64)
  deriving DecidableEq, Repr

/-- ovfptr.LOG2SZ. -/
def Strand.log2sz (st : Strand) : Nat := (st.ovfptr.extractLsb' 58 6).toNat

/-- The place of entry i (R12). -/
def Strand.entryPlace (st : Strand) (i : Nat) : EntryPlace :=
  let c := st.carveSize * 64
  if 8 * i < c then .lmem (st.carveBase * 64 + 8 * i)
  else
    let off := 8 * i - c
    let va : BitVec 64 := ((st.ovfptr.extractLsb' 3 53).setWidth 64 <<< 3) + BitVec.ofNat 64 off
    if st.log2sz = 0 || 2 ^ st.log2sz ≤ off then .none va else .global va

/-- The entries from one index up to another. -/
def indexRange (lo hi : Nat) : List Nat := (List.range (hi - lo)).map (lo + ·)

/-- The flat addresses that a global address of a partition names from a cluster, whatever its page permits: as the table maps it, as the
cluster's TLB does, or through a cell window. -/
def State.flatsOf (s : State) (p cluster : Nat) (va : BitVec 64) : List Nat :=
  if va.extractLsb' 56 8 != 0 then []
  else if va.extractLsb' 48 8 = 0xFF then
    ((s.cellAt p (va.toNat % 2 ^ 48 / 2 ^ 17)).map fun cell => lmemBase cell + va.toNat % 2 ^ 17).toList
  else
    (match s.walk p va.toNat with
      | .leaf level e => [s.leafFlat p level e va.toNat]
      | _ => [])
      ++ ((tlbHit (s.cluster cluster).tlb p va.toNat).map fun t => s.leafFlat p t.level t.leaf va.toNat).toList

/-- The flat addresses of the spill location of entry i of the strand in slot n, if the rule of R12 gives it one. -/
def State.spillFlats (s : State) (n : Nat) (st : Strand) (i : Nat) : List Nat :=
  match st.entryPlace i with
  | .lmem off => [lmemBase (cellOf n) + off]
  | .none _ => []
  | .global va => s.flatsOf st.part (clusterOf n) va

/-- The resident entries (R12). -/
def Strand.resident (st : Strand) : List Nat := indexRange (lowResident st.winbase) (st.winbase + 20)

/-- The spill locations that some entries of the strand in slot n have. -/
def State.spillPlaces (s : State) (n : Nat) (st : Strand) (is : List Nat) : List Nat := (is.flatMap (s.spillFlats n st)).eraseDups

/-- Free values in the eight bytes at each address. -/
def State.blurAll (s : State) (places : List Nat) : State := places.foldl (fun t a => t.blurBytes a 8) s

/-- The spill locations of entries that have become resident are unpredictable (R13). -/
def State.blurEntries (s : State) (n : Nat) (st : Strand) (is : List Nat) : State := s.blurAll (s.spillPlaces n st is)

/-- A strand has spill locations: a carve-out or an overflow region. -/
def Strand.spills (st : Strand) : Bool := st.carveSize != 0 || st.log2sz != 0

/-- A strand takes a slot: it may meet what earlier strands of its launch left in the slot's file (R10), and the spill locations of the
entries that are resident are unpredictable (R13). -/
def State.seat (s : State) (n : Nat) (st : Strand) : State :=
  let st1 := { st with left := s.leftFor n st }
  let s1 := s.setStrand n st1
  if st1.spills then s1.blurEntries n st1 st1.resident else s1

/-- A byte lies in the spill location of an entry that is resident now (R13). -/
def State.underStack (s : State) (a : Nat) : Bool :=
  s.slots.any fun x => x.2.spills && x.2.resident.any fun i => (s.spillFlats x.1 x.2 i).any fun b => decide (b ≤ a) && decide (a < b + 8)

/-- The spill locations in the overflow region that the entries of the strand in slot n now have and had not in the state before: the page
tables, a TLB or ovfptr have changed. -/
def State.movedPlaces (before after : State) (n : Nat) (st : Strand) : List Nat :=
  match before.strand? n with
  | none => []
  | some old =>
    if st.log2sz = 0 || old.uid != st.uid then []
    else
      let had := before.spillPlaces n old old.resident
      (after.spillPlaces n st (st.resident.filter old.resident.contains)).filter fun a => !had.contains a

/-- A spill location that a resident entry has come to have by a change of its address or its page is unpredictable too (R13). -/
def State.blurMoved (before after : State) : State :=
  after.slots.foldl (fun t x => t.blurAll (before.movedPlaces after x.1 x.2)) after

end Sys2Proof.Machine
end

