-- ==== Sys2Proof/Machine/Image.lean ====
section
/-! DEFINITION. A strand's state as bytes: the control registers that software sees as words (Tables 1-6 to 1-9), the continuation record
with its list block (R28, R29), and the image of a full context with its header (R314). -/
namespace Sys2Proof.Machine

/-! ### Control registers as words -/

/-- A bit as a number. -/
def bitNat (b : Bool) : Nat := if b then 1 else 0

/-- status (Table 1-9). -/
def Strand.statusWord (st : Strand) : BitVec 64 :=
  BitVec.ofNat 64 (st.depth * 2 ^ 48 + bitNat st.cdl * 2 ^ 13 + bitNat st.msgb * 2 ^ 12 + st.rm.toNat * 2 ^ 8
    + bitNat (st.nmax != 0) * 2 ^ 3 + bitNat st.ftz * 2 ^ 2 + bitNat st.priv * 2 + bitNat st.hm)

/-- ivctl (Table 1-6). -/
def Strand.ivctlWord (st : Strand) : BitVec 64 :=
  BitVec.ofNat 64 (st.eps.toNat * 2 ^ 48 + st.cdrop.toNat * 2 ^ 40 + st.nmax.toNat * 2 ^ 34 + st.ncap.toNat * 2 ^ 32
    + st.recs.length)

/-- ivstat (Table 1-7). -/
def Strand.ivstatWord (st : Strand) : BitVec 64 :=
  BitVec.ofNat 64 (st.ivlate.toNat * 2 ^ 48 + st.ivdrop.toNat * 2 ^ 32 + st.ivmerge.toNat * 2 ^ 16 + bitNat st.opaq)

/-- ivrange (Table 1-7). -/
def Strand.ivrangeWord (st : Strand) : BitVec 64 := st.tmax ++ st.tmin

/-- The identifiers word of a record (Table 1-10). -/
def Strand.idsWord (st : Strand) : BitVec 64 :=
  BitVec.ofNat 64 (st.launch * 2 ^ 48 + st.crew * 2 ^ 40 + st.index * 2 ^ 32 + st.stage * 2 ^ 24)

/-- The bytes of a word. -/
def wordOf (w : BitVec 64) : List (BitVec 8) := leBytes w.toNat 8

/-- n zero bytes. -/
def zeros (n : Nat) : List (BitVec 8) := List.replicate n 0

/-! ### The continuation record (Table 1-10, R29) -/

/-- The record of a strand. -/
def Strand.recordBytes (st : Strand) : List (BitVec 8) :=
  wordOf st.pc ++ ((List.range 10).flatMap fun i => wordOf (st.g (BitVec.ofNat 5 (i + 1))))
    ++ ((List.range 8).flatMap fun k => leBytes (st.p (BitVec.ofNat 3 k)).toNat 2)
    ++ wordOf (st.statusWord ||| (st.fpflags.setWidth 64 <<< 32)) ++ wordOf st.idsWord ++ wordOf st.ivctlWord

/-- The bytes of an interval record. -/
def ivBytes (r : BitVec 256) : List (BitVec 8) := leBytes r.toNat 32

/-- The list block (R29). -/
def Strand.listBlock (st : Strand) : List (BitVec 8) := wordOf st.ivrangeWord ++ wordOf st.ivstatWord ++ zeros 16

/-- A 64-bit word of a byte list. -/
def wordAt (bs : List (BitVec 8)) (o : Nat) : BitVec 64 := BitVec.ofNat 64 (field bs o 8)

/-! ### The full context (Tables 16-4, 16-5) -/

/-- Pad a byte list with zeros to a length. -/
def padTo (n : Nat) (bs : List (BitVec 8)) : List (BitVec 8) := (bs ++ zeros n).take n

/-- The number of resident register-stack entries (Table 16-5, NSTK). -/
def residentCount (winbase : Nat) : Nat := min 48 (winbase + 20)

/-- A paused-command record (Table 16-5). -/
def Command.pausedBytes (c : Command) : List (BitVec 8) :=
  padTo 32 (c.words.flatMap fun w => leBytes w.toNat 4) ++ wordOf c.dst ++ wordOf c.src ++ wordOf c.third
    ++ leBytes c.progress 8 ++ padTo 128 c.desc ++ zeros 64

/-- OUT of a context: the mask of its paused tags. -/
def Strand.outMask (st : Strand) : Nat :=
  ((List.range 64).filter fun t => st.paused.any fun p => p.1 == t).foldl (fun a t => a + 2 ^ t) 0

/-- The header of a context (Table 16-5). -/
def Ctx.header (x : Ctx) : List (BitVec 8) :=
  let st := x.strand
  leBytes 1 1 ++ leBytes x.reason 1 ++ leBytes x.waitCode 1 ++ leBytes st.allot 1 ++ leBytes st.tfirst 1 ++ leBytes st.tcount 1
    ++ leBytes (residentCount st.winbase) 1 ++ leBytes x.slot 1 ++ leBytes st.outMask 8
    ++ leBytes (if x.waitCode = 2 then x.wline * 64 else 0) 8 ++ leBytes (if x.waitCode = 1 then x.phase else 0) 8
    ++ leBytes st.launch 2 ++ leBytes x.pcn 2 ++ zeros 28

/-- The 128 KiB image of a context (Table 16-4). -/
def Ctx.image (x : Ctx) : List (BitVec 8) :=
  let st := x.strand
  let n := residentCount st.winbase
  let lo := st.winbase + 20 - n
  st.recordBytes ++ (if st.nmax = 0 then zeros 32 else st.listBlock)
    ++ padTo 256 (st.recs.flatMap ivBytes) ++ zeros 96 ++ x.header
    ++ ((List.range 17).flatMap fun i => wordOf (st.g (BitVec.ofNat 5 (11 + i))))
    ++ leBytes st.winbase 8 ++ wordOf st.ovfptr ++ wordOf st.epc ++ leBytes st.cause.toNat 8 ++ wordOf st.faddr ++ zeros 272
    ++ padTo 384 ((List.range n).flatMap fun i => wordOf (st.entry (lo + i))) ++ zeros 640
    ++ ((List.range 64).flatMap fun t =>
        match st.paused.find? fun p => p.1 == t with
        | some p => p.2.pausedBytes
        | none => zeros 256)
    ++ padTo 2048 ((List.range st.allot).flatMap fun i => leBytes (st.v (BitVec.ofNat 5 i)).toNat 64)
    ++ padTo 128 (x.tileCfg.flatMap fun w => leBytes w.toNat 8) ++ zeros 12160
    ++ padTo 65536 (x.tiles.flatMap fun t => padTo 4096 t) ++ zeros 32768

end Sys2Proof.Machine
end

