-- ==== Sys2Proof/Machine/Contexts.lean ====
section
/-! DEFINITION. Saving a strand whole (R32, R310, R313 to R315) and what becomes of the saved context: its place in the
cluster's context cache or the partition's context area, and the hinge source it waits in (R295, R297). The same for the
combining buffer, which drains before the strand leaves its slot (R133). -/
namespace Sys2Proof.Machine

/-! ### What every store at a home does -/

/-- Reservations whose set a store of the line touches are lost (R136, R245). -/
def loseAt (line : Nat) (r : Reservation) : Reservation := if r.line = line then { r with lost := true } else r

/-- Every reservation on a line is lost. -/
def State.loseLine (s : State) (line : Nat) : State := { s with resv := s.resv.map (loseAt line) }

/-- The 32-bit word at a word number, as memory holds it. -/
def State.word (s : State) (w : Nat) : BitVec 32 := BitVec.ofNat 32 (leNat (s.bytes (4 * w) 4))

/-- The values a word has had, latest first, once a store has changed it (R76). -/
def logWord (before after : State) (w : Nat) (l : NMap (List (BitVec 32 × Nat))) : NMap (List (BitVec 32 × Nat)) :=
  let old := (NMap.get? l w).getD [(before.word w, 0)]
  NMap.set l w ((after.word w, after.clock) :: old)

/-- Some launch is live, or some command is queued, fetched or not: only then can a fetch tell old words from new ones (R76). -/
def State.watchesCode (s : State) : Bool :=
  s.parts.any (fun p => !p.2.launches.isEmpty) || s.hqs.any (fun q => q.2.prod != q.2.cons || !q.2.cmds.isEmpty)

/-- Log the words a store of `n` bytes at an address has changed (R76); while no launch can tell old words from new ones, their old
values are forgotten. -/
def State.logStore (before after : State) (a n : Nat) : State :=
  if n = 0 then after
  else
    let w0 := a / 4
    let ws := (List.range ((a + n - 1) / 4 - w0 + 1)).map (w0 + ·)
    { after with codeLog :=
        if before.watchesCode then ws.foldl (fun l w => logWord before after w l) after.codeLog else ws.foldl NMap.erase after.codeLog }

/-- The lines a range of bytes touches. -/
def linesOf (a n : Nat) : List Nat := if n = 0 then [] else (List.range ((a + n - 1) / 64 - a / 64 + 1)).map (a / 64 + ·)

/-- Note the bytes a store writes under an MMA in flight that accumulates in cbuf (R177). -/
def Strand.noteMma (a n : Nat) (st : Strand) : Strand :=
  match st.mma with
  | some m =>
    if m.cbuf && decide (a < m.dst + m.bytes.length) && decide (m.dst < a + n) then
      { st with mma := some { m with touched := m.touched ++ (List.range n).map (a + ·) } }
    else st
  | none => st

/-- Note a store to cbuf in every strand whose MMA is in flight. -/
def State.noteCbuf (s : State) (a n : Nat) : State :=
  if cbufBase 0 ≤ a && a < cmemBase 0 then { s with slots := s.slots.map fun x => (x.1, Strand.noteMma a n x.2) } else s

/-- The bytes of a store take their values and the reservations on their lines are lost (R245). -/
def State.storeBare (s0 : State) (a : Nat) (bs : List (BitVec 8)) : State :=
  let s := s0.noteCbuf a bs.length
  let s1 := s.setBytes a bs
  s.logStore { s1 with resv := (linesOf a bs.length).foldl (fun r l => r.map (loseAt l)) s1.resv } a bs.length

/-- Stored bytes that lie in the spill location of a resident entry are unpredictable (R13). -/
def State.blurStored (before after : State) (a n : Nat) : State :=
  (List.range n).foldl (fun t i => if before.underStack (a + i) then t.blurByte (a + i) else t) after

/-- A store whose home is host or peer memory enters the outbound path (R241), one to a peer as flits (R356). -/
def State.goOut (s : State) (who : Origin) (addrs : List Nat) : State :=
  match addrs with
  | [] => s
  | a :: _ => if hostBase ≤ a then State.flitsTo { s with outbound := s.outbound ++ [⟨addrs, who⟩] } a addrs.length else s

/-- A store of an agent performed at its home (R245). -/
def State.storeAs (s : State) (who : Origin) (a : Nat) (bs : List (BitVec 8)) : State :=
  (s.blurStored (s.storeBare a bs) a bs.length).goOut who ((List.range bs.length).map (a + ·))

/-- A store performed at its home that no strand and no command waits for. -/
def State.storeHome (s : State) (a : Nat) (bs : List (BitVec 8)) : State := s.storeAs .other a bs

/-- Drop a cluster's read-mostly copy of a line (R245, R247). -/
def State.dropCopy (s : State) (cluster line : Nat) : State :=
  let c := s.cluster cluster
  s.setCluster cluster { c with copies := NMap.erase c.copies line }

/-- A cluster's own copies of the lines of a read-mostly store go (R245). -/
def State.dropStored (s : State) (cluster mt a n : Nat) : State :=
  if mt = 1 then (linesOf a n).foldl (fun t l => t.dropCopy cluster l) s else s

/-- A store of an agent of a cluster: at its home, and the cluster's own copy of a read-mostly line goes (R245). -/
def State.storeFrom (s : State) (who : Origin) (cluster mt a : Nat) (bs : List (BitVec 8)) : State :=
  (s.storeAs who a bs).dropStored cluster mt a bs.length

/-- The store of a register-stack entry that leaves the file (R12, R13): its location keeps the value. -/
def State.storeSpill (s : State) (who : Origin) (cluster mt a : Nat) (bs : List (BitVec 8)) : State :=
  ((s.storeBare a bs).goOut who ((List.range bs.length).map (a + ·))).dropStored cluster mt a bs.length

/-- Perform the bytes of a combining buffer as one store (R133, R247). -/
def State.drainBuf (s : State) (who : Origin) (b : WcBuf) : State :=
  let s1 := b.bytes.foldl (fun t ob => t.setByte (b.line * 64 + ob.1) ob.2) s
  let s2 := b.bytes.foldl (fun t ob => if s.underStack (b.line * 64 + ob.1) then t.blurByte (b.line * 64 + ob.1) else t) s1
  (s.logStore (s2.loseLine b.line) (b.line * 64) 64).goOut who (b.bytes.map fun ob => b.line * 64 + ob.1)

/-- A store to a flat address is not performed: its line is poisoned, or no link leads to its home any more (R285, R355). -/
def State.noStore (s : State) (a : Nat) : Bool := s.isPoisoned (lineOf a) || s.cutOff a

/-- Drain the combining buffer of the strand in a slot; a store that is not performed is reported later (R285, R355). -/
def State.drainWc (s : State) (n : Nat) : State :=
  match s.strand? n with
  | some st =>
    match st.wcbuf with
    | some b =>
      if s.noStore (b.line * 64) then s.setStrand n { st with wcbuf := none, poison := st.poison ++ [(.none, b.va)] }
      else (s.drainBuf st.origin b).setStrand n { st with wcbuf := none }
    | none => s
  | none => s

/-! ### Withdrawing a wait -/

/-- The crew whose window on a cell a strand occupies (R298): its own, or for a migrant the crew of its launch there. -/
def State.hostCrew (s : State) (cell : Nat) (st : Strand) : Nat :=
  (((s.launch? st.part st.launch).bind fun l => l.windowOn cell).map Prod.fst).getD st.crew

/-- A strand's access located once its walk may be made (R280): the buffer's store comes before an access that is not write-combining
(R133), so the walk of such an access is made as the drained buffer leaves the tables. -/
def State.locateAfter (s : State) (st : Strand) (k : AccKind) (sp : BitVec 3) (va : BitVec 64) (width : Nat) (plain release : Bool) :
    Res Spot :=
  if va.toNat % width == 0 && sp == 0 && st.walkWaits plain release then .wait .poll
  else if sp != 0 || st.wcbuf.isNone then s.locate st k sp va width
  else match s.locate st k sp va width with
    | .ok spot => if spot.mt = 2 then .ok spot else (s.drainWc s.actor).locate st k sp va width
    | _ => (s.drainWc s.actor).locate st k sp va width

/-- Take an agent's park entries, semaphore waits, stage-queue waits and joined fault records away (R265, R284). -/
def State.withdraw (s : State) (n : Nat) : State :=
  let me : Agent := .slot n
  let k := clusterOf n
  let c := s.cluster k
  let s1 := { s with
    parked := s.parked.filter fun p => p.who != me
    passes := s.passes.map fun (w : WakePass) => { w with rest := w.rest.filter (· != me) } }
  let s2 := s1.setCluster k { c with semWaiters := c.semWaiters.filter fun w => w.who != me }
  match s.strand? n with
  | none => s2
  | some st =>
    ((s2.modCrew st.part st.launch st.crew fun x => { x with takers := x.takers.filter fun y => y.1 != n }).modCrew st.part st.launch
      (s.hostCrew (cellOf n) st) fun x => { x with takers := x.takers.filter fun y => y.1 != n }).modPart st.part fun x =>
      { x with faults := x.faults.map fun (f : FaultRec) => { f with joined := f.joined.filter (· != me) } }

/-! ### Saving -/

/-- The fates of Table 16-3 have been met: nothing is executing, pending or outstanding, an access that has issued is performed, and every
tag of the slot is READY or its command is paused. DEDUCED: log 50. -/
def State.canSave (s : State) (n : Nat) (st : Strand) : Bool :=
  st.window.isEmpty && st.wcbuf.isNone && st.mma.isNone && st.trapPend.isNone
    && (match st.wait with
        | some w => w.kind != .xreq && w.kind != .late
        | none => true)
    && ((s.cell (cellOf n)).outstanding (slotOf n)).all fun t => st.paused.any fun p => p.1 == t

/-- The strand waits on its message class: in RECVW, in a DEQ on its bound queue, or, bound to its ports, in a port read
(Table 15-2, source 1). -/
def Strand.classWait (st : Strand) (bind : Nat) : Bool :=
  st.msgb && match st.held with
    | some (.recvw ..) => true
    | some (.deq ..) => true
    | _ => bind == 2

/-- WAIT of a saved context and the barrier phase of a BAR (Table 16-5), by what its strand waited for. -/
def waitCodeOf (st : Strand) (evicted : Bool) (bind : Nat) : Nat × Nat :=
  if evicted then (2, 0)
  else match st.wait with
    | some w =>
      match w.kind with
      | .bar ph => (1, ph)
      | .recv => (if st.classWait bind then 3 else 0, 0)
      | .faultPending _ _ => (4, 0)
      | _ => (0, 0)
    | none => (0, 0)

/-- The strand with each resident entry written as the value it holds (R32): it holds it wherever it resumes. -/
def Strand.holdStack (st : Strand) : Strand :=
  { st with stk := (st.resident.filter (20 ≤ ·)).foldl (fun m i => NMap.set m i (st.entry i)) st.stk, left := [] }

/-- The tiles of a strand's grant. -/
def Strand.grant (st : Strand) : List Nat := (List.range st.tcount).map (st.tfirst + ·)

/-- Put a context into a run queue: at its tail, or in the chain behind it when its 4,096 entries are full (R297). -/
def Crew.pushEntry (c : Crew) (e : RunEntry) : Crew :=
  if c.runq.length < 4096 then { c with runq := c.runq ++ [e] } else { c with chain := c.chain ++ [e] }

/-- A context in the chain takes each queue entry that has become free (R297). -/
def Crew.refill (c : Crew) : Crew :=
  let n := 4096 - c.runq.length
  { c with runq := c.runq ++ c.chain.take n, chain := c.chain.drop n }

/-- The oldest cached context by order of saving. -/
def oldestCtx (m : NMap Ctx) : Option (Nat × Ctx) :=
  m.foldl (fun best kc => match best with
    | none => some kc
    | some b => if kc.2.order < b.2.order then some kc else some b) none

/-- The lowest free place of a partition's context area, 128 KiB each. -/
def freePlace (m : NMap Ctx) : Nat := ((List.range (m.length + 1)).find? fun i => (NMap.get? m i).isNone).getD 0

/-- Write a context's image to its place in the context area, a range of device memory. DEDUCED: log 50. -/
def State.writeArea (s : State) (base i : Nat) (x : Ctx) : State :=
  let a := base + i * 2 ^ 17
  if a + 2 ^ 17 ≤ deviceEnd then s.storeHome a x.image else s

/-- A full cache writes its oldest context to the context area and frees its entry (R313). -/
def State.spillOldest (s : State) (k : Nat) : State :=
  match oldestCtx (s.cluster k).ctxs with
  | none => s
  | some (i, x) =>
    let c := s.cluster k
    let s1 := s.setCluster k { c with ctxs := NMap.erase c.ctxs i }
    match s1.part? x.strand.part with
    | none => s1
    | some p =>
      let j := freePlace p.area
      (s1.writeArea p.ctxArea j x).modPart x.strand.part fun y => { y with area := NMap.set y.area j x }

/-- The lowest free entry of the 256 of a context cache. -/
def freeEntry (m : NMap Ctx) : Option Nat := (List.range 256).find? fun i => (NMap.get? m i).isNone

/-- Put a context into a cluster's cache, making room first (R313). -/
def State.cacheCtx (s : State) (k : Nat) (x : Ctx) : State :=
  let s1 := if (freeEntry (s.cluster k).ctxs).isNone then s.spillOldest k else s
  let c := s1.cluster k
  match freeEntry c.ctxs with
  | some i => s1.setCluster k { c with ctxs := NMap.set c.ctxs i x }
  | none => s1

/-- Save the strand in a slot and free the slot (R310, R314): to source 2 in handler mode, to source 1 when it waited on its
message class, else to its crew's memory run queue (R295), an evicted strand with its line (R264). A strand that is to take WATCHDOG when
it resumes carries the notice and waits for no arrival (R318); an arrival at BAR is kept (R213), and a HALT in hand is withdrawn (Table
16-3). The tags of paused commands read READY in the cell it leaves. DESIGN CHOICE: log 50. -/
def State.saveContext (s : State) (n reason : Nat) (line : Option (Nat × Nat)) (woken : Bool) : State :=
  match s.strand? n with
  | none => s
  | some st =>
    let cell := cellOf n
    let c := s.cell cell
    let out := c.outstanding (slotOf n)
    let (code, ph) := waitCodeOf st line.isSome (s.slotBind n st)
    let notice := st.notice || (reason == 2 && !st.hm && s.vectorOf st != 0)
    let keep : Strand := { st.holdStack with
      wait := none, held := none, preReq := none, yielded := none, notice := notice
      halting := st.halting && st.held.isNone, arrived := if code = 1 then some ph else st.arrived }
    let source := if st.hm then 2 else if line.isSome || notice then 6 else if code = 3 then 1 else 6
    let x : Ctx := {
      strand := keep, reason := reason, waitCode := if notice then 5 else code, slot := slotOf n, pcn := s.pcn cell,
      wline := (line.map Prod.fst).getD 0, phase := ph, tileCfg := st.grant.map fun t => NMap.getD c.tileCfg t 0,
      tiles := st.grant.map fun t => s.bytes (tileBase cell t) 4096,
      source := source, order := s.serial, arrival := none }
    let s1 := s.withdraw n
    let c1 := { c with tagReady := out.foldl (fun m t => m ||| BitVec.ofNat 64 (2 ^ t)) c.tagReady,
                       tagSlot := out.foldl NMap.erase c.tagSlot }
    let s2 := { ((s1.setCell cell c1).leaveStack n st) with slots := NMap.erase s1.slots n, serial := s1.serial + 1 }
    let s3 := s2.cacheCtx (clusterOf n) x
    if source = 6 then
      s3.modCrew st.part st.launch (s.hostCrew cell st) fun y =>
        y.pushEntry ⟨some x.order, none, line, line.isNone || woken⟩
    else s3

/-- Evict a strand whose park was refused (R264): at once when nothing holds it, else as soon as nothing does. -/
def State.evict (s : State) (n line cls : Nat) : State :=
  match s.strand? n with
  | none => s
  | some st =>
    if s.canSave n st && st.preReq.isNone then s.saveContext n 3 (some (line, cls)) false
    else match st.preReq with
      | some _ => s
      | none => s.setStrand n { st with preReq := some ⟨3, s.clock, some (line, cls), false⟩ }

/-- Request the pre-emption of a slot (R310); a slot already requested keeps its first request, but a strand that is to be evicted is
pre-empted instead, and waits on no line (R265). -/
def State.requestPreempt (s : State) (n reason : Nat) : State :=
  match s.strand? n with
  | none => s
  | some st =>
    match st.preReq with
    | some r => if r.line.isSome then s.setStrand n { st with preReq := some ⟨reason, r.since, none, false⟩ } else s
    | none => s.setStrand n { st with preReq := some ⟨reason, s.clock, none, false⟩ }

end Sys2Proof.Machine
end

