-- ==== Sys2Proof/Machine/Staged.lean ====
section
/-! DEFINITION. Line states and tumbler tables (R254 to R264): the entry for a state and a transition, the built-in classes,
what an allowed transition does to the line, parking, the wake it starts, and eviction when no park entry is free. -/
namespace Sys2Proof.Machine

/-! ### The entry (Table 13-1) -/

/-- What an entry decides. -/
inductive Verdict where
  | allow | park | fault
  deriving DecidableEq, Repr

/-- VERDICT; 11 behaves as 10 (R258). -/
def verdictOf (e : BitVec 16) : Verdict :=
  match (e.extractLsb' 4 2).toNat with
  | 0 => .allow
  | 1 => .park
  | _ => .fault

/-- NEXT. -/
def nextOf (e : BitVec 16) : BitVec 4 := e.extractLsb' 0 4
/-- ACCESS: 0 none, 1 read, 2 write, 3 read-modify-write. -/
def accessOf (e : BitVec 16) : Nat := (e.extractLsb' 8 2).toNat
/-- AQ. -/
def aqOf (e : BitVec 16) : Bool := e.getLsbD 6
/-- RL. -/
def rlOf (e : BitVec 16) : Bool := e.getLsbD 7

/-- An entry that no table lists: the line stays, the verdict is fault (R256). -/
def unlisted (st : Nat) : BitVec 16 := BitVec.ofNat 16 st ||| 0x20

/-- Class 1, FULL/EMPTY (Table 13-2). -/
def fullEmpty (st t : Nat) : BitVec 16 :=
  match st, t with
  | 0, 0 => 0x0281
  | 0, 1 => 0x0110
  | 0, 2 => 0x0110
  | 0, 14 => 0x0100
  | 0, 15 => 0x0200
  | 1, 0 => 0x0211
  | 1, 1 => 0x0140
  | 1, 2 => 0x0141
  | 1, 14 => 0x0101
  | 1, 15 => 0x0201
  | _, 3 => 0x0281
  | s, _ => unlisted s

/-- Class 2, SEALABLE (Table 13-3). -/
def sealable (st t : Nat) : BitVec 16 :=
  match st, t with
  | 0, 0 => 0x0081
  | 0, 1 => 0x0110
  | 0, 14 => 0x0100
  | 0, 15 => 0x0200
  | 1, 0 => 0x0001
  | 1, 1 => 0x0141
  | 1, 14 => 0x0101
  | 1, 15 => 0x0021
  | s, _ => unlisted s

/-- The entry of a class for a state and a transition, under a partition's tables (R256, R257). -/
def State.tumbler (s : State) (p cls st t : Nat) : BitVec 16 :=
  match cls with
  | 1 => fullEmpty st t
  | 2 => sealable st t
  | c =>
    match (s.part? p).bind fun x => NMap.get? x.tables c with
    | some tab => tab.getD (16 * st + t) (unlisted st)
    | none => unlisted st

/-- The entry that decides a transition at a line. -/
def State.entryAt (s : State) (p cls line t : Nat) : BitVec 16 := s.tumbler p cls (s.lineState line).toNat t

/-! ### State changes and wakes (R263, R264) -/

/-- An entry that waits on a line becomes runnable (R264). -/
def RunEntry.wake (line : Nat) (e : RunEntry) : RunEntry := if e.line.map Prod.fst = some line then { e with runnable := true } else e

/-- Wake the evicted waiters of a line in one crew. -/
def Crew.wakeLine (line : Nat) (c : Crew) : Crew :=
  { c with runq := c.runq.map (RunEntry.wake line), chain := c.chain.map (RunEntry.wake line) }

/-- An evicted context that CTXSAVE has written to memory learns of the change of its line (R237, R264). -/
def Away.wake (line : Nat) (a : Away) : Away := { a with entry := a.entry.map (RunEntry.wake line) }

/-- Wake the evicted waiters of a line in one partition. -/
def Partition.wakeLine (line : Nat) (p : Partition) : Partition :=
  { p with launches := p.launches.map fun l =>
      (l.1, { l.2 with crews := l.2.crews.map fun c => (c.1, Crew.wakeLine line c.2), away := l.2.away.map (Away.wake line) }) }

/-- A strand on its way to eviction learns of the change too. -/
def Strand.wakeLine (line : Nat) (st : Strand) : Strand :=
  match st.preReq with
  | some r => if r.line.map Prod.fst = some line then { st with preReq := some { r with woken := true } } else st
  | none => st

/-- Every evicted waiter of a line becomes runnable (R264). -/
def State.wakeEvicted (s : State) (line : Nat) : State :=
  { s with parts := s.parts.map fun p => (p.1, Partition.wakeLine line p.2),
           slots := s.slots.map fun n => (n.1, Strand.wakeLine line n.2) }

/-- The agents parked on a line, in the order they parked. -/
def State.fifo (s : State) (line : Nat) : List Agent := (s.parked.filter fun p => p.line == line).map Parked.who

/-- A wake pass starts, or the pass in progress is to be followed by another (R263). -/
def State.startPass (s : State) (line : Nat) : State :=
  if s.passes.any fun w => w.line == line then
    { s with passes := s.passes.map fun (w : WakePass) => if w.line = line then { w with again := true } else w }
  else
    let q := s.fifo line
    if q.isEmpty then s else { s with passes := s.passes ++ [⟨line, q, false⟩] }

/-- Wake a line: its parked accesses are to be re-evaluated and its evicted waiters become runnable. -/
def State.wakeLine (s : State) (line : Nat) : State := (s.startPass line).wakeEvicted line

/-- Put a line into a state; a change loses its reservations and wakes it (R136, R248, R263). -/
def State.moveLine (s : State) (line : Nat) (v : BitVec 4) : State :=
  if s.lineState line = v then s else ((s.setLineState line v).loseLine line).wakeLine line

/-! ### Parking (R262) -/

/-- The park entries a cluster's strands hold. -/
def State.parkCount (s : State) (k : Nat) : Nat :=
  (s.parked.filter fun p => match p.who with
    | .slot n => clusterOf n == k
    | _ => false).length

/-- The acting strand parks on a line; with the table full it is evicted instead (R262, R264). A codelet never waits
(R211). -/
def State.parkHere (s : State) (st : Strand) (va : BitVec 64) (line cls t : Nat) : Out :=
  if st.cdl then .trap (permission 18 va)
  else if s.parkCount (clusterOf s.actor) < 256 then .wait .parked { s with parked := s.parked ++ [⟨line, t, .slot s.actor, st.part, cls⟩] }
  else .wait .poll (s.evict s.actor line cls)

/-- Evaluate a transition for the acting strand and go on with the entry when it allows. DEDUCED: log 35. -/
def State.gate (s : State) (st : Strand) (va : BitVec 64) (spot : Spot) (t : Nat) (go : BitVec 16 → Out) : Out :=
  let line := lineOf spot.flat
  let e := s.entryAt st.part spot.cls line t
  match verdictOf e with
  | .allow => go e
  | .park => s.parkHere st va line spot.cls t
  | .fault => .trap (stagedFault 0 va)

/-! ### Accesses of several lines, decided in one step (R134) -/

/-- The lines of a page's part of an operand, with the address of the part in each. -/
def Piece.lines (p : Piece) : List (Nat × BitVec 64) :=
  (linesOf p.spot.flat p.len).map fun l =>
    (l, if l * 64 ≤ p.spot.flat then p.va else p.va + BitVec.ofNat 64 (l * 64 - p.spot.flat))

/-- The lowest line of the staged pages whose verdict is not allow: verdict, line, class and address. DEDUCED: log 35. -/
def State.firstBar (s : State) (p : Nat) (t : Nat) : List Piece → Option (Verdict × Nat × Nat × BitVec 64)
  | [] => none
  | pc :: rest =>
    if pc.spot.cls = 0 then State.firstBar s p t rest
    else
      match pc.lines.find? fun l => verdictOf (s.entryAt p pc.spot.cls l.1 t) != .allow with
      | some (l, a) => some (verdictOf (s.entryAt p pc.spot.cls l t), l, pc.spot.cls, a)
      | none => State.firstBar s p t rest

/-- Every staged line of an allowed access takes its entry's NEXT. -/
def State.takeAll (s : State) (p t : Nat) (ps : List Piece) : State :=
  ps.foldl (fun s1 pc =>
    if pc.spot.cls = 0 then s1
    else pc.lines.foldl (fun s2 l => s2.moveLine l.1 (nextOf (s2.entryAt p pc.spot.cls l.1 t))) s1) s

/-- Some staged line of an access has an entry marked RL. -/
def State.anyRelease (s : State) (p t : Nat) (ps : List Piece) : Bool :=
  ps.any fun pc => pc.spot.cls != 0 && pc.lines.any fun l => rlOf (s.entryAt p pc.spot.cls l.1 t)

/-- A line among the pages of an operand that a store is not performed in, with the address of the part in it (R285, R355). -/
def State.poisonIn (s : State) (ps : List Piece) : Option (BitVec 64) :=
  ps.findSome? fun pc => (pc.lines.find? fun l => s.noStore (64 * l.1)).map Prod.snd

end Sys2Proof.Machine
end

