-- ==== Sys2Proof/Machine/Access.lean ====
section
/-! DEFINITION. Scalar memory accesses (R124 to R134, R242 to R248): the order a strand's accesses keep, where a load takes
its value, plain and relaxed loads and stores, the combining buffer, and read-modify-writes at the home. -/
namespace Sys2Proof.Machine

/-! ### Qualifiers (Table 3-8) -/

/-- .rx. -/
def qRelaxed (q : BitVec 4) : Bool := q.getLsbD 0
/-- .aq. -/
def qAcquire (q : BitVec 4) : Bool := q.getLsbD 1
/-- .rl. -/
def qRelease (q : BitVec 4) : Bool := q.getLsbD 2

/-! ### The order of a strand's accesses (R128, R243) -/

/-- Two byte ranges overlap. -/
def overlaps (a n b m : Nat) : Bool := decide (a < b + m) && decide (b < a + n)

/-- The byte ranges of an access. -/
def Access.ranges (x : Access) : List (Nat × Nat) :=
  x.parts.map fun p => (p.1, if p.2.2.isEmpty then x.width else p.2.2.length)

/-- An access touches a byte range. -/
def Access.touches (x : Access) (a n : Nat) : Bool := x.ranges.any fun r => overlaps r.1 r.2 a n

/-- Two accesses share a byte. -/
def Access.meets (x y : Access) : Bool := y.ranges.any fun r => x.touches r.1 r.2

/-- An access of a strand that retires when it is performed must wait for earlier ones (Table 12-2): a plain one for all of
them, a release for all of them, any for those it overlaps and for acquires, and a ninth relaxed one for one of the eight (R127). -/
def Strand.heldBack (st : Strand) (plain release : Bool) (ranges : List (Nat × Nat)) : Bool :=
  if plain || release then !st.window.isEmpty
  else decide (8 ≤ st.window.length) || st.window.any fun x => x.acquire || ranges.any fun r => x.touches r.1 r.2

/-- Poison met earlier is reported at a plain access, FENCE, CALL, CALLX, RET and HALT (R130). -/
def Strand.reportAll (st : Strand) : Res Unit :=
  match st.poison with
  | p :: _ => .trap (translation 4 p.2)
  | [] => .ok ()

/-- Every earlier access of the strand is performed, its combining buffer included (the wait of R130 and of every release,
R249), and, for an instruction that reports poison, none is left to report. -/
def settled (report : Bool) (st : Strand) (s : State) (go : Strand → State → Out) : Out :=
  if !st.window.isEmpty then .wait .poll s
  else
    let s1 := s.drainWc s.actor
    match s1.me? with
    | none => .ok s1
    | some st1 => (if report then st1.reportAll else .ok ()).andThen s1 fun _ => go st1 s1

/-! ### System scope (R241, R133) -/

/-- Wait until every store that the acting strand has put on the outbound path is acknowledged, then go on (R241, R244). -/
def afterAcks (st : Strand) (s : State) (go : Out) : Out := if s.owes st.origin then .wait .acks s else go

/-- The acting strand issues nothing more until the stores of this access are acknowledged (R133, strongly ordered). -/
def State.fenceNext (s : State) : State :=
  match s.me? with
  | some st => s.setMe { st with fenced := true }
  | none => s

/-- An access that has retired holds the next instruction back (R133). -/
def fencedOut : Out → Out
  | .ok s => .ok s.fenceNext
  | o => o

/-- Some earlier access of the acting strand is not performed at every scope: what a release waits for (R249). `s` is the state in which its
combining buffer is drained. -/
def State.behind (s : State) (st : Strand) : Bool := !st.window.isEmpty || s.owes st.origin

/-- An access to a strongly ordered page (type 4) acts as if preceded and followed by FENCE.system with every bit set (Table 6-2);
`s0` is the state to wait in, `o` what the access comes to. DEDUCED: log 34. -/
def strongly (mt : Nat) (st : Strand) (s0 : State) (o : Out) : Out :=
  if mt != 4 then o
  else if !st.window.isEmpty then .wait .poll s0
  else
    afterAcks st (s0.drainWc s0.actor) (fencedOut o)

/-! ### Where a load takes its value (R246) -/

/-- A byte that a combining buffer holds. -/
def heldByte (buf : Option WcBuf) (a : Nat) : Option (BitVec 8) :=
  buf.bind fun b => if b.line = a / 64 then NMap.get? b.bytes (a % 64) else none

/-- One byte of a load: from the combining buffer, from the cluster's read-mostly copy, or from the home. -/
def State.loadByte (s : State) (buf : Option WcBuf) (cluster mt a : Nat) : BitVec 8 :=
  match heldByte buf a with
  | some v => v
  | none =>
    match if mt = 1 then NMap.get? (s.cluster cluster).copies (a / 64) else none with
    | some line => line.extractLsb' (8 * (a % 64)) 8
    | none => s.byte a

/-- The bytes of a load. -/
def State.loadBytes (s : State) (buf : Option WcBuf) (cluster mt a n : Nat) : List (BitVec 8) :=
  (List.range n).map fun i => s.loadByte buf cluster mt (a + i)

/-- A load within one line takes some byte from the home, not from the buffer or a copy (R246). -/
def State.readsHome (s : State) (buf : Option WcBuf) (cluster mt a n : Nat) : Bool :=
  !(mt == 1 && (NMap.get? (s.cluster cluster).copies (a / 64)).isSome) && (List.range n).any fun i => (heldByte buf (a + i)).isNone

/-- A load within one line reads a home line that is poisoned or that no link leads to any more (R246, R285, R355). -/
def State.loadPoison (s : State) (buf : Option WcBuf) (cluster mt a n : Nat) : Bool :=
  s.noStore a && s.readsHome buf cluster mt a n

/-- A load within one line that reads a peer's memory sends its flits (R356). -/
def State.flitsRead (s : State) (buf : Option WcBuf) (cluster mt a n : Nat) : State :=
  if s.readsHome buf cluster mt a n then s.flitsTo a n else s

/-- The value a load of one datum gives (R132). -/
def loadValue (bs : List (BitVec 8)) (sext : Bool) : BitVec 64 :=
  if sext then sext32 (BitVec.ofNat 64 (leNat bs)) else BitVec.ofNat 64 (leNat bs)

/-! ### Type rules (R133) -/

/-- The part of the instruction set an access belongs to, for Table 6-2. -/
inductive AccClass where
  | plainMem | reserve | atomic | staged
  deriving DecidableEq, Repr

/-- PERMISSION from the memory type (step 4 of R125). -/
def typeRule (c : AccClass) (spot : Spot) (va : BitVec 64) : Res Unit :=
  if spot.mt = 5 then .trap (permission 13 va)
  else if spot.mt = 3 && (c == .reserve || c == .staged) then .trap (permission 17 va)
  else .ok ()

/-- Device and strongly ordered accesses are plain whatever their qualifiers say (R133). -/
def Spot.forcesPlain (spot : Spot) : Bool := spot.mt == 3 || spot.mt == 4

/-- The page of a relaxed LD, ST, VLD or VST lets it retire early (R129). -/
def Spot.early (spot : Spot) : Bool := spot.cls == 0 && (spot.mt == 0 || spot.mt == 1 || spot.mt == 2)

/-! ### Loads -/

/-- Drain the acting strand's buffer before an access that is not write-combining (R133). -/
def State.beforeAccess (s : State) (spot : Spot) : State := if spot.mt = 2 then s else s.drainWc s.actor

/-- Put an access into the acting strand's window and retire its instruction (R127, R128). DEDUCED: log 33. -/
def enqueue (st : Strand) (s : State) (words : Nat) (x : Access) : Out :=
  if 8 ≤ st.window.length then .wait .poll s
  else
    let s1 := { s with serial := s.serial + 1 }
    .ok (s1.setMe ({ st with window := st.window ++ [{ x with id := s.serial }] }.advance words))

/-- A load of one datum into a scalar register (R126 to R134): `s` already holds the effects of reading the sources. Of a poisoned staged
line the poison is met first. DESIGN CHOICE: log 35. -/
def loadDatum (st : Strand) (s s0 : State) (words : Nat) (d : Reg) (sp : BitVec 3) (va : BitVec 64) (width : Nat)
    (q : BitVec 4) (named : Bool) : Out :=
  (s.locateAfter st .read sp va width (!qRelaxed q || named) false).andThen s0 fun spot =>
    (typeRule .plainMem spot va).andThen s0 fun _ => strongly spot.mt st s0 <|
      let plain := !qRelaxed q || named || spot.forcesPlain
      if !plain && spot.early then
        let s1 := s.beforeAccess spot
        match s1.me? with
        | none => .ok s1
        | some st1 =>
          match enqueue st1 s1 words
              { id := 0, store := false, width := width, whole := true, parts := [(spot.flat, 0, [])], va := va, acquire := qAcquire q,
                release := false, memType := spot.mt, dest := .reg d (width == 4), got := [] } with
          | .wait k _ => .wait k s0
          | o => o
      else if st.heldBack plain false [(spot.flat, width)] then .wait .poll s0
      else
        (if plain then st.reportAll else .ok ()).andThen s0 fun _ =>
          let s1 := s.beforeAccess spot
          match s1.me? with
          | none => .ok s1
          | some st1 =>
            let finish (s2 : State) : Out :=
              match s2.me? with
              | none => .ok s2
              | some st2 =>
                if s2.loadPoison st2.wcbuf (clusterOf s.actor) spot.mt spot.flat width then .trap (translation 4 va)
                else
                  let bs := s2.loadBytes st2.wcbuf (clusterOf s.actor) spot.mt spot.flat width
                  .ok (writeDest (st2.advance words) (s2.flitsRead st2.wcbuf (clusterOf s.actor) spot.mt spot.flat width) d
                    (loadValue bs (width == 4)))
            if spot.cls = 0 then finish s1
            else if s1.isPoisoned (lineOf spot.flat) then .trap (translation 4 va)
            else
              (s0.beforeAccess spot).gate st1 va spot 14 fun e =>
                if rlOf e && s1.behind st1 then .wait .poll (s0.beforeAccess spot)
                else finish (s1.moveLine (lineOf spot.flat) (nextOf e))

/-! ### Stores -/

/-- Merge bytes into the acting strand's combining buffer (R133, R247); the buffer has been drained if it held another
line. -/
def mergeBytes (b : Option WcBuf) (a : Nat) (va : BitVec 64) (now : Nat) (bs : List (BitVec 8)) : WcBuf :=
  let old : WcBuf := b.getD ⟨a / 64, va, [], now⟩
  { old with bytes := (List.range bs.length).foldl (fun m i => NMap.set m (a % 64 + i) (bs.getD i 0)) old.bytes }

/-- A write-combining store enters the buffer and retires at once (R133). -/
def storeCombine (st : Strand) (s : State) (a : Nat) (va : BitVec 64) (bs : List (BitVec 8)) : State :=
  let s1 := match st.wcbuf with
    | some b => if b.line = a / 64 then s else s.drainWc s.actor
    | none => s
  match s1.me? with
  | none => s1
  | some st1 => s1.setMe { st1 with wcbuf := some (mergeBytes st1.wcbuf a va s.clock bs) }

/-- Retire the acting strand's instruction in a state. -/
def retire (s : State) (words : Nat) : State :=
  match s.me? with
  | none => s
  | some st => s.setMe (st.advance words)

/-- A store of one datum (R126 to R134, R271). Of a poisoned staged line the poison is met first. DESIGN CHOICE: log 35. -/
def storeDatum (st : Strand) (s s0 : State) (words : Nat) (sp : BitVec 3) (va : BitVec 64) (width : Nat) (v : BitVec 64)
    (q : BitVec 4) (named : Bool) : Out :=
  (s.locateAfter st .write sp va width (!qRelaxed q || named) (qRelease q)).andThen s0 fun spot =>
    (if sp = 5 && decide (0xFF000 ≤ va.toNat) then Res.trap (permission 12 va) else typeRule .plainMem spot va).andThen s0 fun _ =>
      strongly spot.mt st s0 <|
      let bs := leBytes v.toNat width
      let plain := !qRelaxed q || named || spot.forcesPlain
      if !plain && spot.early && spot.mt != 2 then
        let s1 := s.drainWc s.actor
        match s1.me? with
        | none => .ok s1
        | some st1 =>
          match enqueue st1 s1 words
              { id := 0, store := true, width := width, whole := true, parts := [(spot.flat, 0, bs)], va := va, acquire := false,
                release := qRelease q, memType := spot.mt, dest := .none, got := [] } with
          | .wait k _ => .wait k s0
          | o => o
      else if st.heldBack plain (qRelease q) [(spot.flat, width)] then .wait .poll s0
      else if qRelease q && (s0.drainWc s.actor).owes st.origin then .wait .poll (s0.drainWc s.actor)
      else
        (if plain then st.reportAll else .ok ()).andThen s0 fun _ =>
          if spot.mt = 2 && spot.cls = 0 then
            let s1 := if qRelease q then s.drainWc s.actor else s
            match s1.me? with
            | none => .ok s1
            | some st1 =>
              if plain && s1.noStore spot.flat then .trap (translation 4 va)
              else .ok (retire (storeCombine st1 s1 spot.flat va bs) words)
          else
            let s1 := s.drainWc s.actor
            if s1.noStore spot.flat then .trap (translation 4 va)
            else if spot.cls = 0 then .ok (retire (s1.storeFrom st.origin (clusterOf s.actor) spot.mt spot.flat bs) words)
            else
              match s1.me? with
              | none => .ok s1
              | some st1 =>
                (s0.drainWc s.actor).gate st1 va spot 15 fun e =>
                  if rlOf e && s1.behind st1 then .wait .poll (s0.drainWc s.actor)
                  else
                    let s2 := s1.storeFrom st.origin (clusterOf s.actor) spot.mt spot.flat bs
                    .ok (retire (s2.moveLine (lineOf spot.flat) (nextOf e)) words)

/-! ### Read-modify-writes at the home (R139, R144, R248) -/

/-- The functions of AMO and SAMO (R138). -/
inductive AmoFn where
  | add | and | or | xor | min | max | swap
  deriving DecidableEq, Repr

/-- new of R139. -/
def AmoFn.eval {n : Nat} (f : AmoFn) (old b : BitVec n) : BitVec n :=
  match f with
  | .add => old + b
  | .and => old &&& b
  | .or => old ||| b
  | .xor => old ^^^ b
  | .min => if b.slt old then b else old
  | .max => if old.slt b then b else old
  | .swap => b

/-- new of R139 at a width in bytes, as the 64-bit datum whose low bytes are stored. -/
def AmoFn.at (f : AmoFn) (width : Nat) (old b : BitVec 64) : BitVec 64 :=
  if width = 4 then (f.eval (old.setWidth 32) (b.setWidth 32)).setWidth 64 else f.eval old b

/-- The function that a 3-bit code names (R138); 7 is refused by the decoder. -/
def amoOf (op : BitVec 3) : AmoFn :=
  match op.toNat with
  | 0 => .add
  | 1 => .and
  | 2 => .or
  | 3 => .xor
  | 4 => .min
  | 5 => .max
  | _ => .swap

/-- What an atomic access does once it may be performed: the bytes to write if any, and the value of its destination. -/
structure Effect where
  write : Option (BitVec 64)
  value : Option (BitVec 64)

/-- An access performed in one step at its home (R139, R144, R248): its width, whether it is plain and a release, the
transition it names once the datum is read, and its effect, given the entry that allowed it (Table 6-3) and the datum,
zero-extended; no effect is an access mismatch. `also` is what else the step does. -/
structure HomeAccess where
  width : Nat
  plain : Bool
  release : Bool
  trans : BitVec 64 → Nat
  act : Option (BitVec 16) → BitVec 64 → Option Effect
  also : Option (BitVec 64) → State → State

/-- Perform a home access for the acting strand, whose sources have been read into `s`; a wait goes back to `s0`. Of a poisoned staged line
the poison is met first. DEDUCED: log 34. DESIGN CHOICE: log 35. -/
def homeAccess (x : HomeAccess) (st : Strand) (s s0 : State) (words : Nat) (d : Option Reg) (spot : Spot) (va : BitVec 64) :
    Out :=
  if st.heldBack x.plain x.release [(spot.flat, x.width)] then .wait .poll s0
  else if x.release && (s0.drainWc s.actor).owes st.origin then .wait .poll (s0.drainWc s.actor)
  else strongly spot.mt st s0 <|
    (if x.plain then st.reportAll else .ok ()).andThen s0 fun _ =>
      let s1 := s.drainWc s.actor
      let line := lineOf spot.flat
      if s1.noStore spot.flat then .trap (translation 4 va)
      else
        match s1.me? with
        | none => .ok s1
        | some st1 =>
          let old : BitVec 64 := BitVec.ofNat 64 (leNat (s1.bytes spot.flat x.width))
          let finish (e : Option (BitVec 16)) : Out :=
            match x.act e old with
            | none => .trap (stagedFault 1 va)
            | some f =>
              let s2 := match f.write with
                | some v => s1.storeFrom st.origin (clusterOf s.actor) spot.mt spot.flat (leBytes v.toNat x.width)
                | none => (if spot.mt = 1 then s1.dropCopy (clusterOf s.actor) line else s1).flitsTo spot.flat x.width
              let s3 := x.also f.write (match e with
                | some e => s2.moveLine line (nextOf e)
                | none => s2)
              match s3.me?, d, f.value with
              | some st3, some r, some v => .ok (writeDest (st3.advance words) s3 r v)
              | some st3, _, _ => .ok (s3.setMe (st3.advance words))
              | none, _, _ => .ok s3
          if spot.cls = 0 then finish none
          else
            (s0.drainWc s.actor).gate st1 va spot (x.trans old) fun e =>
              if rlOf e && s1.behind st1 then .wait .poll (s0.drainWc s.actor) else finish (some e)

end Sys2Proof.Machine
end

