-- ==== Sys2Proof/Machine/LoadStore.lean ====
section
/-! DEFINITION. LD and ST in every form (R131, R132). -/
namespace Sys2Proof.Machine

/-- A load whose address is the sum of registers and a displacement. -/
def loadForm (g : Guard) (words : Nat) (d : Reg) (regs : List Reg) (disp : BitVec 64) (sp : BitVec 3) (width : Nat)
    (q : BitVec 4) : Strand → State → Out :=
  guarded g words fun st s =>
    (readSources st s regs (some d)).andThen s fun r =>
      loadDatum st r.2 s words d sp (r.1.foldl (· + ·) disp) width q ((d :: regs).any isPort)

/-- A store whose address is the sum of registers and a displacement; the data register is read as a source. -/
def storeForm (g : Guard) (words : Nat) (d : Reg) (regs : List Reg) (disp : BitVec 64) (sp : BitVec 3) (width : Nat)
    (q : BitVec 4) : Strand → State → Out :=
  guarded g words fun st s =>
    (readSources st s (regs ++ [d]) none).andThen s fun r =>
      storeDatum st r.2 s words sp ((r.1.take regs.length).foldl (· + ·) disp) width (src r.1 regs.length) q (regs.any isPort)

/-- The width that the .d bit selects. -/
def widthOf (dw : Bool) : Nat := if dw then 8 else 4

/-- The words of an extended form (Table 3-1). -/
def extWords (disp : Option (BitVec 64)) : Nat := if disp.isSome then 5 else 3

/-- LD.d gD, [gA+disp] (R131). -/
def execLdD (d a : Reg) (imm : BitVec 13) (s : State) : Host.Outcome State Fault Refusal :=
  runBody (loadForm Guard.always 1 d [a] (imm.signExtend 64) 0 8 0) s

/-- LD.d with a literal displacement (R131). -/
def execLdDLiteral (d a : Reg) (lit : BitVec 64) (s : State) : Host.Outcome State Fault Refusal :=
  runBody (loadForm Guard.always 3 d [a] lit 0 8 0) s

/-- LD.w gD, [gA+disp] (R131). -/
def execLdW (d a : Reg) (imm : BitVec 13) (s : State) : Host.Outcome State Fault Refusal :=
  runBody (loadForm Guard.always 1 d [a] (imm.signExtend 64) 0 4 0) s

/-- LD.w with a literal displacement (R131). -/
def execLdWLiteral (d a : Reg) (lit : BitVec 64) (s : State) : Host.Outcome State Fault Refusal :=
  runBody (loadForm Guard.always 3 d [a] lit 0 4 0) s

/-- ST.d [gA+disp], gD (R131). -/
def execStD (d a : Reg) (imm : BitVec 13) (s : State) : Host.Outcome State Fault Refusal :=
  runBody (storeForm Guard.always 1 d [a] (imm.signExtend 64) 0 8 0) s

/-- ST.d with a literal displacement (R131). -/
def execStDLiteral (d a : Reg) (lit : BitVec 64) (s : State) : Host.Outcome State Fault Refusal :=
  runBody (storeForm Guard.always 3 d [a] lit 0 8 0) s

/-- ST.w [gA+disp], gD (R131). -/
def execStW (d a : Reg) (imm : BitVec 13) (s : State) : Host.Outcome State Fault Refusal :=
  runBody (storeForm Guard.always 1 d [a] (imm.signExtend 64) 0 4 0) s

/-- ST.w with a literal displacement (R131). -/
def execStWLiteral (d a : Reg) (lit : BitVec 64) (s : State) : Host.Outcome State Fault Refusal :=
  runBody (storeForm Guard.always 3 d [a] lit 0 4 0) s

/-- LD gD, [gA+gB] (R131). -/
def execLdIndexed (g : Guard) (dw : Bool) (d a b : Reg) (s : State) : Host.Outcome State Fault Refusal :=
  runBody (loadForm g 1 d [a, b] 0 0 (widthOf dw) 0) s

/-- LD gD, sp:[gA+gB+disp] with a qualifier (R131). -/
def execLdExtended (g : Guard) (dw : Bool) (d a b : Reg) (sp : BitVec 3) (q : BitVec 4) (disp : Option (BitVec 64)) (s : State) :
    Host.Outcome State Fault Refusal :=
  runBody (loadForm g (extWords disp) d [a, b] (disp.getD 0) sp (widthOf dw) q) s

/-- ST [gA+gB], gD (R131). -/
def execStIndexed (g : Guard) (dw : Bool) (d a b : Reg) (s : State) : Host.Outcome State Fault Refusal :=
  runBody (storeForm g 1 d [a, b] 0 0 (widthOf dw) 0) s

/-- ST sp:[gA+gB+disp], gD with a qualifier (R131). -/
def execStExtended (g : Guard) (dw : Bool) (d a b : Reg) (sp : BitVec 3) (q : BitVec 4) (disp : Option (BitVec 64)) (s : State) :
    Host.Outcome State Fault Refusal :=
  runBody (storeForm g (extWords disp) d [a, b] (disp.getD 0) sp (widthOf dw) q) s

end Sys2Proof.Machine
end

