-- ==== Sys2Proof/Machine/Atomics.lean ====
section
/-! DEFINITION. Atomic updates and what goes with them: LR, SC, WAITRS (R135 to R137), AMO and CAS (R138, R139), FENCE
(R140, R141), CINV (R142) and the staged accesses SLD, SST and SAMO (R143 to R146). -/
namespace Sys2Proof.Machine

/-! ### Reservations (R136) -/

/-- The reservation belongs to a strand. -/
def Reservation.ownedBy (st : Strand) (r : Reservation) : Bool :=
  r.part == st.part && r.launch == st.launch && r.crew == st.crew && r.index == st.index

/-- The reservation a strand holds. -/
def State.reservation (s : State) (st : Strand) : Option Reservation := s.resv.find? (Reservation.ownedBy st)

/-- A reservation is lost once its set has been written or has changed state, or when its strand has issued more than 32
instructions since the LR. DEDUCED: log 32. -/
def Reservation.isLost (r : Reservation) : Bool := r.lost || decide (32 < r.count)

/-- Drop a strand's reservation. -/
def State.unreserve (s : State) (st : Strand) : State := { s with resv := s.resv.filter fun r => !r.ownedBy st }

/-- LR (R137). -/
def lrBody (g : Guard) (words : Nat) (dw : Bool) (d a : Reg) (q : BitVec 4) : Strand → State → Out :=
  guarded g words fun st s =>
    (readSources st s [a] (some d)).andThen s fun r =>
      let va := src r.1 0
      let w := widthOf dw
      (r.2.locateAfter st .rmw 0 va w (!qRelaxed q || [d, a].any isPort) false).andThen s fun spot =>
        (typeRule .reserve spot va).andThen s fun _ =>
          homeAccess
            { width := w, plain := !qRelaxed q || [d, a].any isPort || spot.forcesPlain, release := false, trans := fun _ => 14,
              act := fun _ old => some ⟨none, some (if dw then old else sext32 old)⟩,
              also := fun _ t => { t.unreserve st with
                resv := (t.unreserve st).resv ++ [⟨st.part, st.launch, st.crew, st.index, lineOf spot.flat, va.toNat, w, 0, false, spot.mt⟩] } }
            st r.2 s words (some d) spot va

/-- SC (R137): a failed SC performs no write and consults nothing (R134); it too drops the cluster's copy of a read-mostly line (Table
6-2). An SC whose address now translates to another physical line than the LR's fails too. DEDUCED: log 32. -/
def scBody (g : Guard) (words : Nat) (dw : Bool) (d a b : Reg) (q : BitVec 4) : Strand → State → Out :=
  guarded g words fun st s =>
    (readSources st s [a, b] (some d)).andThen s fun r =>
      let va := src r.1 0
      let w := widthOf dw
      (r.2.locateAfter st .rmw 0 va w (!qRelaxed q || [d, a, b].any isPort) (qRelease q)).andThen s fun spot =>
        (typeRule .reserve spot va).andThen s fun _ =>
          let plain := !qRelaxed q || [d, a, b].any isPort || spot.forcesPlain
          let hit := match r.2.reservation st with
            | some x => !x.isLost && x.addr == va.toNat && x.width == w && x.line == lineOf spot.flat
            | none => false
          if hit then
            homeAccess
              { width := w, plain := plain, release := qRelease q, trans := fun _ => 15,
                act := fun _ _ => some ⟨some (src r.1 1), some 0⟩, also := fun _ t => t.unreserve st }
              st r.2 s words (some d) spot va
          else if st.heldBack plain (qRelease q) [(spot.flat, w)] then .wait .poll s
          else strongly spot.mt st s <|
            (if plain then st.reportAll else .ok ()).andThen s fun _ =>
              let s0 := (r.2.drainWc s.actor).unreserve st
              let s1 := if spot.mt = 1 then s0.dropCopy (clusterOf s.actor) (lineOf spot.flat) else s0
              match s1.me? with
              | none => .ok s1
              | some st1 => .ok (writeDest (st1.advance words) s1 d 1)

/-- The access of a WAITRS to the line of its strand's reservation, under the type of the line's page (Table 6-2): the combining buffer drains
first, and the issuing cluster's copy of a read-mostly line is invalidated. -/
def State.atReserved (s : State) (x : Reservation) : State :=
  let s1 := s.drainWc s.actor
  if x.memType = 1 then s1.dropCopy (clusterOf s.actor) x.line else s1

/-- WAITRS (R137), under the type of the reserved line's page (Table 6-2). -/
def waitrsBody (g : Guard) (d a : Reg) : Strand → State → Out :=
  guarded g 1 fun st s =>
    (match readSources st s [a] (some d), st.wait with
      | .wait _, some ⟨.waitrs t, _⟩ => Res.wait (.waitrs t)
      | r, _ => r).andThen s fun r =>
      if st.cdl then .trap (permission 18)
      else
        let mt := ((s.reservation st).map Reservation.memType).getD 0
        let reserved (t : State) : State := match s.reservation st with
          | some x => t.atReserved x
          | none => t
        let n := (src r.1 0).toNat % 2 ^ 32
        let start := match st.wait with
          | some ⟨.waitrs _, since⟩ => since
          | _ => s.clock
        let answer (v : BitVec 64) : Out :=
          match (reserved r.2).me? with
          | none => .ok (reserved r.2)
          | some st1 => .ok (writeDest (st1.advance 1) (reserved r.2) d v)
        let act : Out :=
          match s.reservation st with
          | none => answer 2
          | some x =>
            if x.isLost then answer 0
            else if start + n ≤ s.clock then answer 1
            else .wait (.waitrs (start + n)) (reserved s)
        match st.wait with
        | some ⟨.waitrs _, _⟩ => if mt = 4 then fencedOut act else act
        | _ => strongly mt st s act

/-! ### AMO and CAS -/

/-- A store into the mailboxes is refused (R271). -/
def mailboxRule (sp : BitVec 3) (va : BitVec 64) : Res Unit :=
  if sp = 5 && decide (0xFF000 ≤ va.toNat) then .trap (permission 12 va) else .ok ()

/-- The value a register receives from a datum of a width (R139). -/
def datumOut (dw : Bool) (old : BitVec 64) : BitVec 64 := if dw then old else sext32 old

/-- AMO (R138, R139). DEDUCED: log 34. -/
def amoBody (f : AmoFn) (g : Guard) (words : Nat) (dw : Bool) (d a b : Reg) (sp : BitVec 3) (q : BitVec 4) : Strand → State → Out :=
  guarded g words fun st s =>
    (readSources st s [a, b] (some d)).andThen s fun r =>
      let va := src r.1 0
      let w := widthOf dw
      (r.2.locateAfter st .rmw sp va w (!qRelaxed q || [d, a, b].any isPort) (qRelease q)).andThen s fun spot =>
        ((mailboxRule sp va).bind fun _ => typeRule .atomic spot va).andThen s fun _ =>
          homeAccess
            { width := w, plain := !qRelaxed q || [d, a, b].any isPort || spot.forcesPlain, release := qRelease q,
              trans := fun _ => 15, act := fun _ old => some ⟨some (f.at w old (src r.1 1)), some (datumOut dw old)⟩,
              also := fun _ t => t }
            st r.2 s words (some d) spot va

/-- CAS (R138, R139): a CAS that fails performs a read and consults transition 14. -/
def casBody (g : Guard) (words : Nat) (dw : Bool) (d a b : Reg) (sp : BitVec 3) (q : BitVec 4) : Strand → State → Out :=
  guarded g words fun st s =>
    (readSources st s [a, b, d] none).andThen s fun r =>
      let va := src r.1 0
      let w := widthOf dw
      let hit (old : BitVec 64) : Bool := if dw then old == src r.1 2 else old.setWidth 32 == (src r.1 2).setWidth 32
      (r.2.locateAfter st .rmw sp va w (!qRelaxed q || [a, b].any isPort) (qRelease q)).andThen s fun spot =>
        ((mailboxRule sp va).bind fun _ => typeRule .atomic spot va).andThen s fun _ =>
          homeAccess
            { width := w, plain := !qRelaxed q || [a, b].any isPort || spot.forcesPlain, release := qRelease q,
              trans := fun old => if hit old then 15 else 14,
              act := fun _ old => some ⟨if hit old then some (src r.1 1) else none, some (datumOut dw old)⟩, also := fun _ t => t }
            st r.2 s words (some d) spot va

/-! ### FENCE and CINV -/

/-- FENCE (R140, R141, R244): the scopes below system wait alike, since an access is performed at all of them in one step; system scope
waits also for the acknowledgement of what has gone out (R241). A kick is performed when its instruction retires, so bit 4 adds no wait.
DEDUCED: log 34. -/
def fenceBody (g : Guard) (system : Bool) (mask : BitVec 5) : Strand → State → Out :=
  guarded g 1 fun st s =>
    if st.window.any fun x => if x.store then mask.getLsbD 1 else mask.getLsbD 0 then .wait .poll s
    else
      st.reportAll.andThen s fun _ =>
        let s1 := if mask.getLsbD 1 then s.drainWc s.actor else s
        match s1.me? with
        | none => .ok s1
        | some st1 =>
          st1.reportAll.andThen s1 fun _ =>
            let done : Out := .ok (s1.setMe (st1.advance 1))
            if system && (mask.getLsbD 0 || mask.getLsbD 1) then afterAcks st1 s1 done else done

/-- Drop a cluster's copies of the lines in a range of flat addresses. -/
def State.dropRange (s : State) (k lo hi : Nat) : State :=
  let c := s.cluster k
  s.setCluster k { c with copies := c.copies.filter fun x => !(decide (lo / 64 ≤ x.1) && decide (x.1 ≤ hi / 64)) }

/-- CINV's range form, page by page from an address on: pages not mapped read-mostly are skipped (R142). -/
def cinvPages (p k last : Nat) : Nat → Nat → State → State
  | 0, _, s => s
  | fuel + 1, va, s =>
    if last < va || 2 ^ 56 ≤ va then s
    else
      let stop := min last (va - va % 2 ^ 16 + (2 ^ 16 - 1))
      let s1 := match if va / 2 ^ 48 = 0xFF then Walk.bad else s.lookup p k false va with
        | .leaf level e => if leafType e = 1 then s.dropRange k (s.leafFlat p level e va) (s.leafFlat p level e va + (stop - va)) else s
        | _ => s
      cinvPages p k last fuel (stop + 1) s1

/-- CINV.all (R142). -/
def State.dropCopies (s : State) (k : Nat) : State := s.setCluster k { s.cluster k with copies := [] }

/-- CINV gA, gB (R142). -/
def cinvBody (g : Guard) (a b : Reg) : Strand → State → Out :=
  guarded g 1 fun st s =>
    (readSources st s [a, b] none).andThen s fun r =>
      if !st.window.isEmpty then .wait .poll s
      else
        let s1 := r.2.drainWc s.actor
        let k := clusterOf s.actor
        let lo := (src r.1 0).toNat
        let n := (src r.1 1).toNat
        let s2 := if n = 0 then s1
          else if 2 ^ 30 ≤ n then s1.dropCopies k
          else cinvPages st.part k (lo + n - 1) 16386 lo s1
        .ok (retire s2 1)

/-- CINV.all (R142). -/
def cinvAllBody (g : Guard) : Strand → State → Out :=
  guarded g 1 fun st s =>
    if !st.window.isEmpty then .wait .poll s
    else .ok (retire ((s.drainWc s.actor).dropCopies (clusterOf s.actor)) 1)

/-! ### SLD, SST and SAMO -/

/-- The data access of Table 6-3 for a staged instruction: `store` is what a write stores, given the old datum. -/
inductive StagedFn where
  | sld
  | sst
  | samo (f : AmoFn)
  deriving DecidableEq, Repr

/-- Table 6-3, and the LD, ST or AMO that transition 0 on class 0 stands for (R144). -/
def StagedFn.effect (f : StagedFn) (w : Nat) (v : BitVec 64) (e : Option (BitVec 16)) (old : BitVec 64) : Option Effect :=
  let seen := datumOut (w == 8) old
  match f, e.map accessOf with
  | .sld, none => some ⟨none, some seen⟩
  | .sld, some 0 => some ⟨none, some 0⟩
  | .sld, some 1 => some ⟨none, some seen⟩
  | .sld, some _ => none
  | .sst, none => some ⟨some v, none⟩
  | .sst, some 2 => some ⟨some v, none⟩
  | .sst, some 3 => none
  | .sst, some _ => some ⟨none, none⟩
  | .samo g, none => some ⟨some (g.at w old v), some seen⟩
  | .samo _, some 0 => some ⟨none, some 0⟩
  | .samo _, some 1 => some ⟨none, some seen⟩
  | .samo _, some 2 => some ⟨some v, some seen⟩
  | .samo g, some _ => some ⟨some (g.at w old v), some seen⟩

/-- A staged access (R143, R144): address registers, a displacement, the transition, and for SST and SAMO the register that
holds the data. -/
def stagedBody (f : StagedFn) (g : Guard) (words : Nat) (t : BitVec 4) (d : Option Reg) (a b : Reg) (data : Option Reg) (w : Nat)
    (q : BitVec 4) (disp : BitVec 64) : Strand → State → Out :=
  guarded g words fun st s =>
    (readSources st s ([a, b] ++ data.toList) d).andThen s fun r =>
      let va := src r.1 0 + src r.1 1 + disp
      (r.2.locateAfter st .rmw 0 va w (!qRelaxed q || ([a, b] ++ data.toList ++ d.toList).any isPort) (qRelease q)).andThen s fun spot =>
        (typeRule .staged spot va).andThen s fun _ =>
          if spot.cls = 0 && t != 0 then .trap (stagedFault 2 va)
          else
            homeAccess
              { width := w, plain := !qRelaxed q || ([a, b] ++ data.toList ++ d.toList).any isPort || spot.forcesPlain,
                release := qRelease q, trans := fun _ => t.toNat, act := f.effect w (src r.1 2), also := fun _ u => u }
              st r.2 s words d spot va

/-! ### The instructions -/

/-- LR gD, [gA] (R135). -/
def execLr (g : Guard) (dw : Bool) (d a : Reg) (s : State) : Host.Outcome State Fault Refusal := runBody (lrBody g 1 dw d a 0) s

/-- LR with a qualifier (R135). -/
def execLrExtended (g : Guard) (dw : Bool) (d a : Reg) (q : BitVec 4) (s : State) : Host.Outcome State Fault Refusal :=
  runBody (lrBody g 3 dw d a q) s

/-- SC gD, [gA], gB (R135). -/
def execSc (g : Guard) (dw : Bool) (d a b : Reg) (s : State) : Host.Outcome State Fault Refusal := runBody (scBody g 1 dw d a b 0) s

/-- SC with a qualifier (R135). -/
def execScExtended (g : Guard) (dw : Bool) (d a b : Reg) (q : BitVec 4) (s : State) : Host.Outcome State Fault Refusal :=
  runBody (scBody g 3 dw d a b q) s

/-- AMO.add gD, [gA], gB (R138). -/
def execAmoAdd (g : Guard) (dw : Bool) (d a b : Reg) (s : State) : Host.Outcome State Fault Refusal :=
  runBody (amoBody .add g 1 dw d a b 0 0) s

/-- AMO.add with a space and a qualifier (R138). -/
def execAmoAddExtended (g : Guard) (dw : Bool) (d a b : Reg) (sp : BitVec 3) (q : BitVec 4) (s : State) :
    Host.Outcome State Fault Refusal :=
  runBody (amoBody .add g 3 dw d a b sp q) s

/-- AMO.and gD, [gA], gB (R138). -/
def execAmoAnd (g : Guard) (dw : Bool) (d a b : Reg) (s : State) : Host.Outcome State Fault Refusal :=
  runBody (amoBody .and g 1 dw d a b 0 0) s

/-- AMO.and with a space and a qualifier (R138). -/
def execAmoAndExtended (g : Guard) (dw : Bool) (d a b : Reg) (sp : BitVec 3) (q : BitVec 4) (s : State) :
    Host.Outcome State Fault Refusal :=
  runBody (amoBody .and g 3 dw d a b sp q) s

/-- AMO.or gD, [gA], gB (R138). -/
def execAmoOr (g : Guard) (dw : Bool) (d a b : Reg) (s : State) : Host.Outcome State Fault Refusal :=
  runBody (amoBody .or g 1 dw d a b 0 0) s

/-- AMO.or with a space and a qualifier (R138). -/
def execAmoOrExtended (g : Guard) (dw : Bool) (d a b : Reg) (sp : BitVec 3) (q : BitVec 4) (s : State) :
    Host.Outcome State Fault Refusal :=
  runBody (amoBody .or g 3 dw d a b sp q) s

/-- AMO.xor gD, [gA], gB (R138). -/
def execAmoXor (g : Guard) (dw : Bool) (d a b : Reg) (s : State) : Host.Outcome State Fault Refusal :=
  runBody (amoBody .xor g 1 dw d a b 0 0) s

/-- AMO.xor with a space and a qualifier (R138). -/
def execAmoXorExtended (g : Guard) (dw : Bool) (d a b : Reg) (sp : BitVec 3) (q : BitVec 4) (s : State) :
    Host.Outcome State Fault Refusal :=
  runBody (amoBody .xor g 3 dw d a b sp q) s

/-- AMO.min gD, [gA], gB (R138). -/
def execAmoMin (g : Guard) (dw : Bool) (d a b : Reg) (s : State) : Host.Outcome State Fault Refusal :=
  runBody (amoBody .min g 1 dw d a b 0 0) s

/-- AMO.min with a space and a qualifier (R138). -/
def execAmoMinExtended (g : Guard) (dw : Bool) (d a b : Reg) (sp : BitVec 3) (q : BitVec 4) (s : State) :
    Host.Outcome State Fault Refusal :=
  runBody (amoBody .min g 3 dw d a b sp q) s

/-- AMO.max gD, [gA], gB (R138). -/
def execAmoMax (g : Guard) (dw : Bool) (d a b : Reg) (s : State) : Host.Outcome State Fault Refusal :=
  runBody (amoBody .max g 1 dw d a b 0 0) s

/-- AMO.max with a space and a qualifier (R138). -/
def execAmoMaxExtended (g : Guard) (dw : Bool) (d a b : Reg) (sp : BitVec 3) (q : BitVec 4) (s : State) :
    Host.Outcome State Fault Refusal :=
  runBody (amoBody .max g 3 dw d a b sp q) s

/-- AMO.swap gD, [gA], gB (R138). -/
def execAmoSwap (g : Guard) (dw : Bool) (d a b : Reg) (s : State) : Host.Outcome State Fault Refusal :=
  runBody (amoBody .swap g 1 dw d a b 0 0) s

/-- AMO.swap with a space and a qualifier (R138). -/
def execAmoSwapExtended (g : Guard) (dw : Bool) (d a b : Reg) (sp : BitVec 3) (q : BitVec 4) (s : State) :
    Host.Outcome State Fault Refusal :=
  runBody (amoBody .swap g 3 dw d a b sp q) s

/-- CAS gD, [gA], gB (R138). -/
def execCas (g : Guard) (dw : Bool) (d a b : Reg) (s : State) : Host.Outcome State Fault Refusal :=
  runBody (casBody g 1 dw d a b 0 0) s

/-- CAS with a space and a qualifier (R138). -/
def execCasExtended (g : Guard) (dw : Bool) (d a b : Reg) (sp : BitVec 3) (q : BitVec 4) (s : State) :
    Host.Outcome State Fault Refusal :=
  runBody (casBody g 3 dw d a b sp q) s

/-- FENCE.scope mask (R140). -/
def execFence (g : Guard) (scope : BitVec 4) (mask : BitVec 5) (s : State) : Host.Outcome State Fault Refusal :=
  runBody (fenceBody g (scope == 4) mask) s

/-- WAITRS gD, gA (R135). -/
def execWaitrs (g : Guard) (d a : Reg) (s : State) : Host.Outcome State Fault Refusal := runBody (waitrsBody g d a) s

/-- SLD gD, [gA+gB], t (R143). -/
def execSld (g : Guard) (t : BitVec 4) (d a b : Reg) (s : State) : Host.Outcome State Fault Refusal :=
  runBody (stagedBody .sld g 1 t (some d) a b none 8 0 0) s

/-- SLD with a width, a qualifier and a displacement (R143). -/
def execSldExtended (g : Guard) (t : BitVec 4) (d a b : Reg) (w : Bool) (q : BitVec 4) (disp : Option (BitVec 64)) (s : State) :
    Host.Outcome State Fault Refusal :=
  runBody (stagedBody .sld g (extWords disp) t (some d) a b none (widthOf !w) q (disp.getD 0)) s

/-- SST [gA+gB], gD, t (R143). -/
def execSst (g : Guard) (t : BitVec 4) (d a b : Reg) (s : State) : Host.Outcome State Fault Refusal :=
  runBody (stagedBody .sst g 1 t none a b (some d) 8 0 0) s

/-- SST with a width, a qualifier and a displacement (R143). -/
def execSstExtended (g : Guard) (t : BitVec 4) (d a b : Reg) (w : Bool) (q : BitVec 4) (disp : Option (BitVec 64)) (s : State) :
    Host.Outcome State Fault Refusal :=
  runBody (stagedBody .sst g (extWords disp) t none a b (some d) (widthOf !w) q (disp.getD 0)) s

/-- SAMO.op gD, [gA+gB+disp], gC, t (R143). -/
def execSamo (g : Guard) (t : BitVec 4) (d a b : Reg) (aop : BitVec 3) (w : Bool) (q : BitVec 4) (c : Reg) (disp : Option (BitVec 64))
    (s : State) : Host.Outcome State Fault Refusal :=
  runBody (stagedBody (.samo (amoOf aop)) g (extWords disp) t (some d) a b (some c) (widthOf !w) q (disp.getD 0)) s

/-- CINV gA, gB (R142). -/
def execCinv (g : Guard) (a b : Reg) (s : State) : Host.Outcome State Fault Refusal := runBody (cinvBody g a b) s

/-- CINV.all (R142). -/
def execCinvAll (g : Guard) (s : State) : Host.Outcome State Fault Refusal := runBody (cinvAllBody g) s

end Sys2Proof.Machine
end

