-- ==== Sys2Proof/Machine/Compress.lean ====
section
/-! DEFINITION. The compressed formats (R322 to R327): CRC32C, the block map, KZ token streams and ZR blocks, both ways, and the
log that receives rewritten blocks (R330, R331). -/
namespace Sys2Proof.Machine

/-! ### CRC32C (R323) -/

/-- One bit of the reflected CRC. -/
def crcBit (c : Nat) : Nat := if c % 2 = 1 then (c / 2) ^^^ 0x82F63B78 else c / 2

/-- Fold one byte in. -/
def crcByte (c : Nat) (b : BitVec 8) : Nat := crcBit (crcBit (crcBit (crcBit (crcBit (crcBit (crcBit (crcBit (c ^^^ b.toNat))))))))

/-- CRC32C of bytes, with a seed: 0 for a fresh one (R323, R333). -/
def crc32c (seed : Nat) (bs : List (BitVec 8)) : Nat := bs.foldl crcByte (seed % 2 ^ 32 ^^^ 0xFFFFFFFF) ^^^ 0xFFFFFFFF

/-! ### The block map (Tables 17-1, 17-2) -/

/-- A range of bytes lies in device memory (R278). -/
def inDevice (a n : Nat) : Bool := decide (a + n ≤ deviceEnd)

/-- A block-map header keeps the rules of Table 17-1. -/
def mapHeaderOk (zr : Bool) (h : List (BitVec 8)) : Bool :=
  let dict := field h 0 8
  let dcount := field h 8 1
  let esz := field h 9 1
  let rows := field h 10 2
  let cols := field h 12 2
  zeroRange h 14 2 && zeroRange h 20 44 &&
    (if zr then dict == 0 && dcount == 0 && decide (esz ≤ 2) && rows * cols * 2 ^ esz == 4096
     else dict % 4096 == 0 && inDevice dict 4096 && decide (dcount ≤ 64) && (dict != 0 || dcount == 0) && esz == 0 && rows == 0 && cols == 0)

/-- V of a map entry. -/
def entryValid (e : Nat) : Bool := e / 2 ^ 63 % 2 == 1
/-- NLINES of a map entry. -/
def entryLines (e : Nat) : Nat := e / 2 ^ 56 % 128
/-- ADDR of a map entry. -/
def entryAddr (e : Nat) : Nat := e % 2 ^ 52 / 64 * 64
/-- A valid map entry keeps the rules of Table 17-2. -/
def entryOk (e : Nat) : Bool :=
  1 ≤ entryLines e && entryLines e ≤ 65 && e / 2 ^ 52 % 16 == 0 && e % 64 == 0 && inDevice (entryAddr e) (64 * entryLines e)
/-- A map entry (Table 17-2). -/
def mapEntry (nlines addr : Nat) : Nat := 2 ^ 63 + nlines * 2 ^ 56 + addr

/-! ### KZ (R323 to R325) -/

/-- Copy n bytes from a distance back; the output is held latest first. -/
def backCopy (off : Nat) : Nat → List (BitVec 8) → List (BitVec 8)
  | 0, rev => rev
  | n + 1, rev => backCopy off n (rev.getD (off - 1) 0 :: rev)

/-- Decode tokens (R324); the output is held latest first, with its length. -/
def kzTokens (dict : List (List (BitVec 8))) : Nat → List (BitVec 8) → List (BitVec 8) → Nat → Option (List (BitVec 8))
  | 0, _, _, _ => none
  | fuel + 1, toks, rev, p =>
    match toks with
    | [] => if p = 4096 then some rev.reverse else none
    | b :: rest =>
      if 4096 < p then none
      else if b.toNat < 128 then
        let n := b.toNat + 1
        if rest.length < n then none else kzTokens dict fuel (rest.drop n) ((rest.take n).reverse ++ rev) (p + n)
      else if b.toNat < 192 then
        match rest with
        | lo :: hi :: more =>
          let w := lo.toNat + 256 * hi.toNat
          let off := w % 4096
          let n := b.toNat % 64 + 3
          if w / 4096 != 0 || off == 0 || decide (p < off) then none else kzTokens dict fuel more (backCopy off n rev) (p + n)
        | _ => none
      else
        match dict[b.toNat % 64]? with
        | none => none
        | some str => kzTokens dict fuel rest (str.reverse ++ rev) (p + str.length)

/-- The strings of a dictionary's first slots; none when one has a bad length (R325). -/
def dictStrings (d : List (BitVec 8)) : Nat → Option (List (List (BitVec 8)))
  | 0 => some []
  | k + 1 =>
    let n := field d (64 * k) 1
    if n = 0 || 63 < n then none else (dictStrings d k).map fun l => l ++ [(d.drop (64 * k + 1)).take n]

/-- Decode a KZ block of `nlines` lines with a dictionary of `dcount` slots (R324, R325). -/
def kzDecode (dict : List (BitVec 8)) (dcount nlines : Nat) (b : List (BitVec 8)) : Option (List (BitVec 8)) :=
  let len := field b 2 2
  let tcount := field b 4 1
  if field b 0 2 != 0x5A4B || len == 0 || decide (4128 < len) || decide (64 * nlines < 24 + len) || decide (dcount < tcount)
      || !zeroRange b 5 3 || !zeroRange b 12 4 then none
  else
    match dictStrings dict tcount with
    | none => none
    | some strs =>
      match kzTokens strs (len + 1) ((b.drop 24).take len) [] 0 with
      | none => none
      | some out => if crc32c 0 out = field b 8 4 then some out else none

/-- The token stream of literal runs alone. -/
def literalTokens (bs : List (BitVec 8)) : Nat → List (BitVec 8)
  | 0 => []
  | n + 1 => 127 :: bs.take 128 ++ literalTokens (bs.drop 128) n

/-- Pad a byte list with zeros to whole lines. -/
def toLines (bs : List (BitVec 8)) : List (BitVec 8) := bs ++ List.replicate ((64 - bs.length % 64) % 64) 0

/-- A KZ stored block (Table 17-3). -/
def kzBlock (tokens : List (BitVec 8)) (tcount owner : Nat) (data : List (BitVec 8)) : List (BitVec 8) :=
  toLines (leBytes 0x5A4B 2 ++ leBytes tokens.length 2 ++ leBytes tcount 1 ++ leBytes 0 3 ++ leBytes (crc32c 0 data) 4 ++ leBytes 0 4
    ++ leBytes owner 8 ++ tokens)

/-- Encode data as a KZ block: with the tokens offered when they decode to it, else with literal runs (R330). -/
def kzEncode (tokens dict : List (BitVec 8)) (dcount owner : Nat) (data : List (BitVec 8)) : List (BitVec 8) :=
  let b := kzBlock tokens dcount owner data
  if kzDecode dict dcount (b.length / 64) b = some data then b else kzBlock (literalTokens data 32) 0 owner data

/-! ### ZR (R326, R327) -/

/-- One row: its column indices are ascending and in range; its values go to their columns. -/
def zrRow (w cols : Nat) : List (Nat × List (BitVec 8)) → Nat → Option (List (BitVec 8))
  | [], at_ => if at_ ≤ cols then some (List.replicate ((cols - at_) * w) 0) else none
  | (k, v) :: rest, at_ =>
    if k < at_ || cols ≤ k then none
    else (zrRow w cols rest (k + 1)).map fun more => List.replicate ((k - at_) * w) 0 ++ v ++ more

/-- All rows in order. -/
def zrRows (w rows cols len : Nat) (body : List (BitVec 8)) : Nat → Option (List (BitVec 8))
  | 0 => some []
  | r + 1 =>
    let n := field body r 1
    let off := field body (rows + rows % 2 + 2 * r) 2
    if len < off + n * (2 + w) || len < rows + rows % 2 + 2 * rows then none
    else
      let pay := body.drop off
      let items := (List.range n).map fun i => (field pay (2 * i) 2, (pay.drop (2 * n + w * i)).take w)
      match zrRows w rows cols len body r, zrRow w cols items 0 with
      | some before, some row => some (before ++ row)
      | _, _ => none

/-- Decode a ZR block (R326). -/
def zrDecode (esz rows cols nlines : Nat) (b : List (BitVec 8)) : Option (List (BitVec 8)) :=
  let mode := field b 2 1
  let len := field b 12 2
  let body := (b.drop 24).take len
  if field b 0 2 != 0x525A || decide (1 < mode) || decide (64 * nlines < 24 + len) then none
  else
    let out := if mode = 1 then (if len = 4096 then some body else none) else zrRows (2 ^ esz) rows cols len body rows
    match out with
    | some x => if x.length = 4096 && crc32c 0 x == field b 8 4 then some x else none
    | none => none

/-- The nonzero elements of a row, by column. -/
def nonzeros (w : Nat) (row : List (BitVec 8)) (cols : Nat) : List (Nat × List (BitVec 8)) :=
  ((List.range cols).map fun k => (k, (row.drop (w * k)).take w)).filter fun x => x.2.any (· != 0)

/-- The compact body of a block, if every row fits (R326, R327). -/
def zrCompact (esz rows cols : Nat) (data : List (BitVec 8)) : Option (List (BitVec 8)) :=
  let w := 2 ^ esz
  let rs := (List.range rows).map fun r => nonzeros w ((data.drop (r * cols * w)).take (cols * w)) cols
  let head := rows + rows % 2 + 2 * rows
  let sizes := rs.map fun r => r.length * (2 + w)
  let offs := (List.range rows).map fun r => head + (sizes.take r).foldl (· + ·) 0
  if rs.any (fun r => decide (255 < r.length)) || decide (4096 < head + sizes.foldl (· + ·) 0) then none
  else
    some ((rs.flatMap fun r => leBytes r.length 1) ++ List.replicate (rows % 2) 0 ++ (offs.flatMap fun o => leBytes o 2)
      ++ rs.flatMap fun r => (r.flatMap fun x => leBytes x.1 2) ++ r.flatMap Prod.snd)

/-- Encode data as a ZR block (R327). -/
def zrEncode (esz rows cols owner : Nat) (data : List (BitVec 8)) : List (BitVec 8) :=
  let (mode, body) := match zrCompact esz rows cols data with
    | some b => (0, b)
    | none => (1, data)
  toLines (leBytes 0x525A 2 ++ leBytes mode 1 ++ leBytes 0 5 ++ leBytes (crc32c 0 data) 4 ++ leBytes body.length 2 ++ leBytes 0 2
    ++ leBytes owner 8 ++ body)

/-! ### Reading a logical block (R322, R328) -/

/-- What the read of a logical block gives. -/
inductive BlockRead where
  | ok (bytes : List (BitVec 8))
  | malformed
  | stop
  deriving DecidableEq, Repr

/-- Some line of a range of device memory is poisoned. -/
def State.poisonedRange (s : State) (a n : Nat) : Bool := (linesOf a n).any s.isPoisoned

/-- The map entry's address of the logical block at an offset in a page with a frame. -/
def entryPlaceOf (frame off : Nat) : Nat := frame + 64 + 8 * (off / 4096)

/-- Read the logical block at an offset of a compressed page, once (R322, R324, R326). DEDUCED: log 53. -/
def State.readBlock (s : State) (zr : Bool) (frame off : Nat) : BlockRead :=
  let ea := entryPlaceOf frame off
  if s.poisonedRange frame 64 || s.poisonedRange ea 8 then .stop
  else
    let h := s.bytes frame 64
    let e := leNat (s.bytes ea 8)
    if !mapHeaderOk zr h then .stop
    else if !entryValid e then .ok (List.replicate 4096 0)
    else if !entryOk e then .stop
    else
      let n := entryLines e
      if s.poisonedRange (entryAddr e) (64 * n) || (!zr && field h 8 1 != 0 && s.poisonedRange (field h 0 8) (64 * field h 8 1)) then .stop
      else
        let b := s.bytes (entryAddr e) (64 * n)
        let out := if zr then zrDecode (field h 9 1) (field h 10 2) (field h 12 2) n b
          else kzDecode (s.bytes (field h 0 8) (64 * field h 8 1)) (field h 8 1) n b
        match out with
        | some x => .ok x
        | none => .malformed

/-! ### The log (R330, R331) -/

/-- Room for some lines at HEAD, or at the start of the region when they do not fit before its end. DEDUCED: log 54. -/
def Log.room (l : Log) (n : Nat) : Option Nat :=
  let free (a : Nat) : Bool := decide (a + 64 * n ≤ l.base + l.size)
    && l.blocks.all fun b => decide (a + 64 * n ≤ b.1) || decide (b.1 + 64 * b.2 ≤ a)
  if free l.head then some l.head else if free l.base then some l.base else none

/-- A line written as a whole with fresh data and ECC is poisoned no more; its state becomes 0 if its sideband had failed (R285). -/
def State.freshLine (s : State) (line : Nat) : State :=
  let s1 := if NMap.get? s.poisoned line = some 2 then s.setLineState line 0 else s
  { s1 with poisoned := NMap.erase s1.poisoned line }

/-- Change a log of a partition. -/
def State.modLog (s : State) (p log : Nat) (f : Log → Log) : State :=
  s.modPart p fun x => match NMap.get? x.logs log with
    | some y => { x with logs := NMap.set x.logs log (f y) }
    | none => x

/-- A log has no room: its full-log interrupt is raised once (R331). DESIGN CHOICE: log 68. -/
def State.logFull (s : State) (p log : Nat) : State :=
  match (s.part? p).bind fun x => (NMap.get? x.logs log).map fun l => (l.full, x.evec) with
  | some (false, v) => (s.modLog p log fun l => { l with full := true }).raise v
  | _ => s

/-- Append a block to a log of a partition: its address, if there was room. DEDUCED: log 54. -/
def State.appendLog (s : State) (p log : Nat) (b : List (BitVec 8)) : Option (Nat × State) :=
  match (s.part? p).bind fun x => NMap.get? x.logs log with
  | none => none
  | some l =>
    match l.room (b.length / 64) with
    | none => none
    | some a =>
      let s1 := s.storeHome a b
      let s2 := (linesOf a b.length).foldl State.freshLine s1
      some (a, s2.modPart p fun x =>
        { x with logs := NMap.set x.logs log { l with head := a + b.length, blocks := l.blocks ++ [(a, b.length / 64)] } })

/-- TAIL passes a block (R331). -/
def State.passTail (s : State) (p log a : Nat) : State :=
  s.modLog p log fun y => { y with blocks := y.blocks.filter fun b => b.1 != a, moving := none, full := false }

/-- A running .z command has written a block at an address and has yet to store the map entry that names it (R330). -/
def State.beingNamed (s : State) (p a : Nat) : Bool :=
  s.harts.any fun h => h.2.running.any fun c => c.part == p && !c.stopped && c.job.any fun j => j.placed.map Prod.snd == some a

/-- One step of the collector on a log (R331): the live block at TAIL is copied to HEAD, and in a later step its map entry is made to
name the copy if it still names the block; TAIL then passes it, and waits at a block that a .z command is about to name. DEDUCED: log 54. -/
def State.collectLog (s : State) (p log : Nat) : State :=
  match (s.part? p).bind fun x => NMap.get? x.logs log with
  | none => s
  | some l =>
    match l.moving, l.blocks with
    | some (a, owner, b), _ =>
      if s.poisonedRange owner 8 then s
      else
        let e := leNat (s.bytes owner 8)
        let s1 := if entryValid e && entryAddr e == a then s.storeHome owner (leBytes (mapEntry (entryLines e) b) 8) else s
        s1.passTail p log a
    | none, [] => s
    | none, (a, n) :: _ =>
      let owner := field (s.bytes a 24) 16 8
      if s.beingNamed p a || s.poisonedRange owner 8 || s.poisonedRange a (64 * n) then s
      else if !inDevice owner 8 then s.passTail p log a
      else
        let e := leNat (s.bytes owner 8)
        if !entryValid e || entryAddr e != a then s.passTail p log a
        else
          match s.appendLog p log (s.bytes a (64 * n)) with
          | none => s.logFull p log
          | some (b, s1) => s1.modLog p log fun y => { y with moving := some (a, owner, b) }

end Sys2Proof.Machine
end

