-- ==== Sys2Proof/Machine/Fields.lean ====
section
/-! DEFINITION. The tests the device makes on operand fields (R60, R65 to R68, R70 and the instruction entries), and
the test of L, OP and F that it makes before fetching a later word (R72, Tables 3-10 to 3-16). -/
namespace Sys2Proof.Machine

/-- `some r` when the condition fails. -/
def need (ok : Bool) (r : Reject) : Option Reject := if ok then none else some r

/-- A scalar field that does not name a port: g0 to g27 (R9, R109, R126, R203, R227). DEDUCED: log 64. -/
def notPort (r : Reg) : Bool := decide (r.toNat < 28)

/-- Literal bits [63:32] of a .w form are reserved (R60). -/
def hi32Zero (lit : BitVec 64) : Bool := lit.extractLsb' 32 32 == 0

/-- A literal shift count: bits above [5:0] for .d and [4:0] for .w are reserved (R105). -/
def shiftCountOk (w : Bool) (lit : BitVec 64) : Bool := decide (lit.toNat < if w then 32 else 64)

/-- A literal target: bits [1:0] are reserved (R116, R118). -/
def wordAligned (lit : BitVec 64) : Bool := lit.extractLsb' 0 2 == 0

/-- EXT and INS: pos + len at most 64, the field holding len − 1 (R109). -/
def posLenOk (pos len : BitVec 6) : Bool := decide (pos.toNat + len.toNat + 1 ≤ 64)

/-- The space codes an instruction accepts (R66). -/
def spaceIn (codes : List (BitVec 3)) (sp : BitVec 3) : Bool := codes.contains sp

/-- Q of a load: plain, .rx, .rx.aq (R67). -/
def qLoad (q : BitVec 4) : Bool := q == 0 || q == 1 || q == 3
/-- Q of a store: plain, .rx, .rx.rl (R67). -/
def qStore (q : BitVec 4) : Bool := q == 0 || q == 1 || q == 5
/-- Q of a read-modify-write: all five codes (R67). -/
def qAll (q : BitVec 4) : Bool := q == 0 || q == 1 || q == 3 || q == 5 || q == 7
/-- Q of SLD, SST, VLD, VST, VGATH and VSCAT: plain or .rx (R67). -/
def qRx (q : BitVec 4) : Bool := q == 0 || q == 1

/-- FA of the floating vector instructions: FP32, FP16 or BF16 (R150). -/
def vecFormat (fa : BitVec 5) : Bool := fa == 19 || fa == 18 || fa == 17

/-- The width in bits of the formats VCVT and the engines convert, by code (Tables 4-1 and 7-2); 0 for the others. -/
def convWidth (f : BitVec 5) : Nat :=
  match f.toNat with
  | 4 | 5 | 10 | 26 | 30 => 4
  | 6 | 7 | 13 | 14 | 15 | 16 | 22 | 23 | 29 => 8
  | 8 | 21 | 17 | 18 | 24 | 25 => 16
  | 9 | 31 | 19 | 20 => 32
  | _ => 0

/-- Formats accepted as a conversion source (Table 7-2, FA). -/
def convSource (f : BitVec 5) : Bool := convWidth f != 0
/-- Formats accepted as a conversion destination: the same without the scale formats (Table 7-2, FB). -/
def convDest (f : BitVec 5) : Bool := convWidth f != 0 && f != 29 && f != 30

/-- VCVT: an accepted pair, and parts that exist (R153). -/
def vcvtOk (fa fb : BitVec 5) (hs hd : BitVec 3) : Bool :=
  convSource fa && convDest fb && decide (hs.toNat < 32 / convWidth fa) && decide (hd.toNat < 32 / convWidth fb)

/-- R65: no wait names no semaphore, no signal names none, and Q belongs to TE; without CONV both formats are 0. -/
def engineOk (e : EngineWords) : Bool :=
  (e.wt != 0 || e.ws == 0) && (e.si != 0 || e.ss == 0) && (e.te || e.q == 0)
    && (if e.conv then convSource e.fa && convDest e.fb else e.fa == 0 && e.fb == 0)

/-- Formats of one, two or four whole bytes, the widths GETX and PUTX convert (R222). -/
def wholeBytes (f : BitVec 5) : Bool := convWidth f == 8 || convWidth f == 16 || convWidth f == 32

/-- COPY (R219): sources global, lmem, abuf, cbuf, cmem; any destination; .z only to global without conversion. -/
def copyOk (e : EngineWords) : Bool :=
  engineOk e && spaceIn [0, 1, 3, 4, 5] e.ssp && spaceIn [0, 1, 2, 3, 4, 5] e.dsp
    && (!e.z || (e.dsp == 0 && !e.conv))

/-- GETX (R222). -/
def getxOk (e : EngineWords) : Bool :=
  engineOk e && !e.z && spaceIn [0, 1, 3, 4, 5] e.ssp && spaceIn [0, 1, 2, 3, 4, 5] e.dsp
    && (!e.conv || (wholeBytes e.fa && wholeBytes e.fb))

/-- PUTX (R222). -/
def putxOk (e : EngineWords) : Bool :=
  engineOk e && !e.z && spaceIn [0, 1, 3, 4, 5] e.ssp && spaceIn [0, 1, 3, 4, 5] e.dsp
    && (!e.conv || (wholeBytes e.fa && wholeBytes e.fb))

/-- COLL: every field but TAG, WS, WT, SS and SI is zero (R223). -/
def collOk (e : EngineWords) : Bool :=
  engineOk e && !e.te && !e.conv && !e.z && e.ssp == 0 && e.dsp == 0

/-- The strand control registers of Table 1-8 (R26). -/
def sysNumOk (n : BitVec 8) : Bool := decide (n.toNat ≤ 0x11)

/-- Which L a major accepts, and which F with it, or the reason the first word is no instruction (R69, R70, R72).
`l` is the value of L: 0 base, 1 base and literal, 2 extended, 3 extended and literal. -/
def headFields (op l f : Nat) : Option Reject :=
  let go (ls : List Nat) (fok : Bool) : Option Reject :=
    if !fok then some .noSuchFunction else if ls.contains l then none else some .badLength
  match op with
  | 0x00 => go [0] (f < 8)
  | 0x01 => go [0, 1] (f < 12)
  | 0x02 => go [0, 1] (f < 12)
  | 0x03 => go (if f % 8 < 4 then [0, 1] else [0]) true
  | 0x04 => go [0, 1] true
  | 0x05 => go [0, 1] true
  | 0x06 => go [0, 1] (f < 4)
  | 0x07 => go [0] true
  | 0x08 => go [0, 1] (f % 8 < 6)
  | 0x09 => go [0] (f < 8)
  | 0x0A => go [0] true
  | 0x0B => go [0] true
  | 0x0C => go [0, 1] true
  | 0x0D => go [1] true
  | 0x0E => go [0] true
  | 0x0F => go [0] true
  | 0x10 => go [0, 1] true
  | 0x11 => go [0, 1] true
  | 0x12 => go [0, 1] true
  | 0x13 => go [0, 1] true
  | 0x14 => go [0, 2, 3] (f % 4 == 0)
  | 0x15 => go [0, 2] (f < 4)
  | 0x16 => go [0, 2] (f % 8 < 7)
  | 0x17 => go [0, 2] (f < 2)
  | 0x18 => go [0] (f < 5)
  | 0x19 => go [0] (f == 0)
  | 0x1A => go [0, 2, 3] true
  | 0x1B => go [0, 2, 3] true
  | 0x1C => go [2, 3] true
  | 0x1D => go [0] (f < 2)
  | 0x20 => go [0, 2] (f < 12)
  | 0x21 => go [0, 2] (f < 2)
  | 0x22 => go [2] (f == 0)
  | 0x23 => go (if f < 8 then [0, 2] else [0]) (f < 5 || (8 ≤ f && f < 14))
  | 0x24 => go [0] true
  | 0x25 => go [0] (f < 7)
  | 0x26 => go [0] (f < 4)
  | 0x27 => go (if f < 3 then [0, 2] else [0]) (f < 6)
  | 0x28 => go [0] (f < 4)
  | 0x29 => go [0, 2, 3] (f < 2)
  | 0x2A => go [0, 2] (f < 2)
  | 0x2B => go [0] (f < 2)
  | 0x30 => go [0] (f < 7)
  | 0x31 => go [0, 2, 3] (f < 2)
  | 0x32 => go [0, 2] (f < 8)
  | 0x33 => go [0] (f < 3)
  | 0x34 => go [0] (f == 0)
  | 0x38 => go [0, 2] (f < 4)
  | 0x39 => go [0] (f < 8)
  | 0x40 => go [0] (f < 6)
  | 0x41 => go [0] (f < 2)
  | 0x42 => go [0] (f == 0)
  | 0x43 => go [0] (f == 0)
  | 0x44 => go [0] (f < 2)
  | 0x45 => go [2, 3] (f == 0)
  | 0x46 => go [2, 3] (f == 0)
  | 0x47 => go [2] (f == 0)
  | 0x48 => go [2] (f == 0)
  | 0x49 => go (if f < 2 then [0, 1] else [0]) (f < 3)
  | 0x4A => go [0] (f < 3)
  | 0x50 => go [0] (f < 2)
  | 0x51 => go [0] true
  | 0x52 => go [0] true
  | 0x53 => go [0] (f == 0)
  | 0x54 => go [0] (f < 2)
  | 0x55 => go [0] (f < 3)
  | _ => some .noSuchOpcode

end Sys2Proof.Machine
end

