-- ==== Sys2Proof/WellFormed.lean ====
section
/-! DEFINITION. Which terms of Instr stand for words the device accepts: every check that R68, R70 and the
instruction entries make on an operand field's value. The predicates are those of Machine/Fields.lean. -/
namespace Sys2Proof
open Sys2Proof.Machine

/-- The first rule an instruction's operand values break, or none. Event rows have no words and no check. DEDUCED: log 64. -/
def Instr.check : Instr → Option Reject
  | .nop _ => none
  | .yield _ => none
  | .halt _ => none
  | .movhFromShared _ _ _ => none
  | .movhToShared _ _ _ => none
  | .rng _ _ _ _ => none
  | .jmpx _ _ => none
  | .ret _ => none
  | .add _ _ _ _ => none
  | .addLiteral _ _ _ _ => none
  | .sub _ _ _ _ => none
  | .subLiteral _ _ _ _ => none
  | .mul _ _ _ _ => none
  | .mulLiteral _ _ _ _ => none
  | .mulh _ _ _ _ => none
  | .mulhLiteral _ _ _ _ => none
  | .div _ _ _ _ => none
  | .divLiteral _ _ _ _ => none
  | .rem _ _ _ _ => none
  | .remLiteral _ _ _ _ => none
  | .and _ _ _ _ => none
  | .andLiteral _ _ _ _ => none
  | .or _ _ _ _ => none
  | .orLiteral _ _ _ _ => none
  | .xor _ _ _ _ => none
  | .xorLiteral _ _ _ _ => none
  | .andn _ _ _ _ => none
  | .andnLiteral _ _ _ _ => none
  | .min _ _ _ _ => none
  | .minLiteral _ _ _ _ => none
  | .max _ _ _ _ => none
  | .maxLiteral _ _ _ _ => none
  | .addW _ _ _ _ => none
  | .addWLiteral _ _ _ lit => need (hi32Zero lit) .literalRange
  | .subW _ _ _ _ => none
  | .subWLiteral _ _ _ lit => need (hi32Zero lit) .literalRange
  | .mulW _ _ _ _ => none
  | .mulWLiteral _ _ _ lit => need (hi32Zero lit) .literalRange
  | .mulhW _ _ _ _ => none
  | .mulhWLiteral _ _ _ lit => need (hi32Zero lit) .literalRange
  | .divW _ _ _ _ => none
  | .divWLiteral _ _ _ lit => need (hi32Zero lit) .literalRange
  | .remW _ _ _ _ => none
  | .remWLiteral _ _ _ lit => need (hi32Zero lit) .literalRange
  | .andW _ _ _ _ => none
  | .andWLiteral _ _ _ lit => need (hi32Zero lit) .literalRange
  | .orW _ _ _ _ => none
  | .orWLiteral _ _ _ lit => need (hi32Zero lit) .literalRange
  | .xorW _ _ _ _ => none
  | .xorWLiteral _ _ _ lit => need (hi32Zero lit) .literalRange
  | .andnW _ _ _ _ => none
  | .andnWLiteral _ _ _ lit => need (hi32Zero lit) .literalRange
  | .minW _ _ _ _ => none
  | .minWLiteral _ _ _ lit => need (hi32Zero lit) .literalRange
  | .maxW _ _ _ _ => none
  | .maxWLiteral _ _ _ lit => need (hi32Zero lit) .literalRange
  | .shl _ _ _ _ _ => none
  | .shlLiteral _ w _ _ lit => need (shiftCountOk w lit) .literalRange
  | .shr _ _ _ _ _ => none
  | .shrLiteral _ w _ _ lit => need (shiftCountOk w lit) .literalRange
  | .sar _ _ _ _ _ => none
  | .sarLiteral _ w _ _ lit => need (shiftCountOk w lit) .literalRange
  | .rol _ _ _ _ _ => none
  | .rolLiteral _ w _ _ lit => need (shiftCountOk w lit) .literalRange
  | .clz _ _ _ _ => none
  | .ctz _ _ _ _ => none
  | .popc _ _ _ _ => none
  | .brev _ _ _ _ => none
  | .addi _ _ _ => none
  | .addiLiteral _ _ _ => none
  | .movi _ _ => none
  | .moviLiteral _ _ => none
  | .lea _ _ _ _ _ => none
  | .leaLiteral _ _ _ _ _ _ => none
  | .ext _ _ pos len => need (posLenOk pos len) .operandRange
  | .ins d _ pos len => (need (posLenOk pos len) .operandRange) <|> (need (notPort d) .portOperand)
  | .cmpEq _ _ _ _ _ => none
  | .cmpEqLiteral _ w _ _ lit => need (!w || hi32Zero lit) .literalRange
  | .cmpNe _ _ _ _ _ => none
  | .cmpNeLiteral _ w _ _ lit => need (!w || hi32Zero lit) .literalRange
  | .cmpLt _ _ _ _ _ => none
  | .cmpLtLiteral _ w _ _ lit => need (!w || hi32Zero lit) .literalRange
  | .cmpGe _ _ _ _ _ => none
  | .cmpGeLiteral _ w _ _ lit => need (!w || hi32Zero lit) .literalRange
  | .cmpLtu _ _ _ _ _ => none
  | .cmpLtuLiteral _ w _ _ lit => need (!w || hi32Zero lit) .literalRange
  | .cmpGeu _ _ _ _ _ => none
  | .cmpGeuLiteral _ w _ _ lit => need (!w || hi32Zero lit) .literalRange
  | .plogAnd _ _ _ _ => none
  | .plogOr _ _ _ _ => none
  | .plogXor _ _ _ _ => none
  | .plogAndn _ _ _ _ => none
  | .plogOrn _ _ _ _ => none
  | .plogNand _ _ _ _ => none
  | .plogNor _ _ _ _ => none
  | .plogXnor _ _ _ _ => none
  | .sel _ _ _ _ _ _ => none
  | .br _ _ => none
  | .call _ _ _ => none
  | .callLiteral _ _ lit => need (wordAligned lit) .literalRange
  | .jmp _ lit => need (wordAligned lit) .literalRange
  | .callx _ _ _ => none
  | .loop d _ => need (d != 0 && notPort d) .operandRange
  | .ldD _ _ _ => none
  | .ldDLiteral _ _ _ => none
  | .ldW _ _ _ => none
  | .ldWLiteral _ _ _ => none
  | .stD d _ _ => need (notPort d) .portOperand
  | .stDLiteral d _ _ => need (notPort d) .portOperand
  | .stW d _ _ => need (notPort d) .portOperand
  | .stWLiteral d _ _ => need (notPort d) .portOperand
  | .ldIndexed _ _ _ _ _ => none
  | .ldExtended _ _ _ _ _ sp q _ => (need (spaceIn [0, 1, 5] sp) .spaceCode) <|> (need (qLoad q) .qualifier)
  | .stIndexed _ _ d _ _ => need (notPort d) .portOperand
  | .stExtended _ _ d _ _ sp q _ => (need (notPort d) .portOperand) <|> (need (spaceIn [0, 1, 5] sp) .spaceCode) <|> (need (qStore q) .qualifier)
  | .lr _ _ _ _ => none
  | .lrExtended _ _ _ _ q => need (qLoad q) .qualifier
  | .sc _ _ _ _ _ => none
  | .scExtended _ _ _ _ _ q => need (qStore q) .qualifier
  | .amoAdd _ _ _ _ _ => none
  | .amoAddExtended _ _ _ _ _ sp q => (need (spaceIn [0, 1, 5] sp) .spaceCode) <|> (need (qAll q) .qualifier)
  | .amoAnd _ _ _ _ _ => none
  | .amoAndExtended _ _ _ _ _ sp q => (need (spaceIn [0, 1, 5] sp) .spaceCode) <|> (need (qAll q) .qualifier)
  | .amoOr _ _ _ _ _ => none
  | .amoOrExtended _ _ _ _ _ sp q => (need (spaceIn [0, 1, 5] sp) .spaceCode) <|> (need (qAll q) .qualifier)
  | .amoXor _ _ _ _ _ => none
  | .amoXorExtended _ _ _ _ _ sp q => (need (spaceIn [0, 1, 5] sp) .spaceCode) <|> (need (qAll q) .qualifier)
  | .amoMin _ _ _ _ _ => none
  | .amoMinExtended _ _ _ _ _ sp q => (need (spaceIn [0, 1, 5] sp) .spaceCode) <|> (need (qAll q) .qualifier)
  | .amoMax _ _ _ _ _ => none
  | .amoMaxExtended _ _ _ _ _ sp q => (need (spaceIn [0, 1, 5] sp) .spaceCode) <|> (need (qAll q) .qualifier)
  | .amoSwap _ _ _ _ _ => none
  | .amoSwapExtended _ _ _ _ _ sp q => (need (spaceIn [0, 1, 5] sp) .spaceCode) <|> (need (qAll q) .qualifier)
  | .cas _ _ d _ _ => need (notPort d) .portOperand
  | .casExtended _ _ d _ _ sp q => (need (notPort d) .portOperand) <|> (need (spaceIn [0, 1, 5] sp) .spaceCode) <|> (need (qAll q) .qualifier)
  | .fence _ scope mask => need (mask != 0 && scope.toNat < 5) .operandRange
  | .waitrs _ _ _ => none
  | .sld _ _ _ _ _ => none
  | .sldExtended _ _ _ _ _ _ q _ => need (qRx q) .qualifier
  | .sst _ _ d _ _ => need (notPort d) .portOperand
  | .sstExtended _ _ d _ _ _ q _ => (need (notPort d) .portOperand) <|> (need (qRx q) .qualifier)
  | .samo _ _ _ _ _ aop _ q _ _ => (need (aop != 7) .operandRange) <|> (need (qAll q) .qualifier)
  | .cinv _ _ _ => none
  | .cinvAll _ => none
  | .vadd _ _ _ _ => none
  | .vaddExtended _ _ _ _ fa => need (vecFormat fa) .formatCode
  | .vsub _ _ _ _ => none
  | .vsubExtended _ _ _ _ fa => need (vecFormat fa) .formatCode
  | .vmul _ _ _ _ => none
  | .vmulExtended _ _ _ _ fa => need (vecFormat fa) .formatCode
  | .vmin _ _ _ _ => none
  | .vminExtended _ _ _ _ fa => need (vecFormat fa) .formatCode
  | .vmax _ _ _ _ => none
  | .vmaxExtended _ _ _ _ fa => need (vecFormat fa) .formatCode
  | .vabs _ _ _ => none
  | .vabsExtended _ _ _ fa => need (vecFormat fa) .formatCode
  | .vneg _ _ _ => none
  | .vnegExtended _ _ _ fa => need (vecFormat fa) .formatCode
  | .vrcp _ _ _ => none
  | .vrcpExtended _ _ _ fa => need (vecFormat fa) .formatCode
  | .vrsq _ _ _ => none
  | .vrsqExtended _ _ _ fa => need (vecFormat fa) .formatCode
  | .vex2 _ _ _ => none
  | .vex2Extended _ _ _ fa => need (vecFormat fa) .formatCode
  | .vlg2 _ _ _ => none
  | .vlg2Extended _ _ _ fa => need (vecFormat fa) .formatCode
  | .vsqrt _ _ _ => none
  | .vsqrtExtended _ _ _ fa => need (vecFormat fa) .formatCode
  | .vfma _ _ _ _ => none
  | .vfmaExtended _ _ _ _ fa => need (vecFormat fa) .formatCode
  | .vfms _ _ _ _ => none
  | .vfmsExtended _ _ _ _ fa => need (vecFormat fa) .formatCode
  | .vcvt _ _ _ fa fb hs hd => need (vcvtOk fa fb hs hd) .formatCode
  | .vcmpFeq _ _ _ _ => none
  | .vcmpFeqExtended _ _ _ _ fa half => (need (vecFormat fa) .formatCode) <|> (need (!half || fa != 19) .operandRange)
  | .vcmpFne _ _ _ _ => none
  | .vcmpFneExtended _ _ _ _ fa half => (need (vecFormat fa) .formatCode) <|> (need (!half || fa != 19) .operandRange)
  | .vcmpFlt _ _ _ _ => none
  | .vcmpFltExtended _ _ _ _ fa half => (need (vecFormat fa) .formatCode) <|> (need (!half || fa != 19) .operandRange)
  | .vcmpFle _ _ _ _ => none
  | .vcmpFleExtended _ _ _ _ fa half => (need (vecFormat fa) .formatCode) <|> (need (!half || fa != 19) .operandRange)
  | .vcmpFunord _ _ _ _ => none
  | .vcmpFunordExtended _ _ _ _ fa half => (need (vecFormat fa) .formatCode) <|> (need (!half || fa != 19) .operandRange)
  | .vcmpIeq _ _ _ _ => none
  | .vcmpIne _ _ _ _ => none
  | .vcmpIlt _ _ _ _ => none
  | .vcmpIle _ _ _ _ => none
  | .vcmpIltu _ _ _ _ => none
  | .vcmpIleu _ _ _ _ => none
  | .vsel _ _ _ _ _ _ => none
  | .vand _ _ _ _ => none
  | .vor _ _ _ _ => none
  | .vxor _ _ _ _ => none
  | .vshl _ _ _ _ => none
  | .vshr _ _ _ _ => none
  | .viadd _ _ _ _ => none
  | .vimul _ _ _ _ => none
  | .vperm _ _ _ _ => none
  | .vbcast _ _ _ => none
  | .vextr _ _ _ _ => none
  | .vins _ _ _ _ => none
  | .vredFadd _ _ _ => none
  | .vredFaddExtended _ _ _ fa => need (vecFormat fa) .formatCode
  | .vredFmin _ _ _ => none
  | .vredFminExtended _ _ _ fa => need (vecFormat fa) .formatCode
  | .vredFmax _ _ _ => none
  | .vredFmaxExtended _ _ _ fa => need (vecFormat fa) .formatCode
  | .vredIadd _ _ _ => none
  | .vredImin _ _ _ => none
  | .vredImax _ _ _ => none
  | .vdotS8 _ _ _ _ => none
  | .vdotU8s8 _ _ _ _ => none
  | .vdotF16 _ _ _ _ => none
  | .vdotBf16 _ _ _ _ => none
  | .vld _ _ _ _ => none
  | .vldExtended _ _ _ _ sp q _ => (need (spaceIn [1, 3, 5] sp) .spaceCode) <|> (need (qRx q) .qualifier)
  | .vst _ _ _ _ => none
  | .vstExtended _ _ _ _ sp q _ => (need (spaceIn [1, 3, 5] sp) .spaceCode) <|> (need (qRx q) .qualifier)
  | .vgath _ _ _ _ => none
  | .vgathExtended _ _ _ _ sp q => (need (spaceIn [1, 3, 5] sp) .spaceCode) <|> (need (qRx q) .qualifier)
  | .vscat _ _ _ _ => none
  | .vscatExtended _ _ _ _ sp q => (need (spaceIn [1, 3, 5] sp) .spaceCode) <|> (need (qRx q) .qualifier)
  | .valloc _ _ _ => none
  | .vfree _ _ => none
  | .tcfg _ _ _ => none
  | .tcfgr _ _ _ => none
  | .tzero _ _ => none
  | .tmov _ _ _ => none
  | .tconj _ _ _ => none
  | .txp _ _ _ => none
  | .tnorm _ _ _ => none
  | .tld _ _ _ _ => none
  | .tldExtended _ _ _ _ sp _ _ => need (spaceIn [2, 3, 4] sp) .spaceCode
  | .tst _ _ _ _ => none
  | .tstExtended _ _ _ _ sp _ _ => need (spaceIn [3, 4] sp) .spaceCode
  | .mma _ _ _ _ d a b => need (d != a && d != b) .sameOperand
  | .mmaCbuf _ _ _ _ d a b _ => need (d != a && d != b) .sameOperand
  | .tsca _ d a b => need (d != a && d != b && a != b) .sameOperand
  | .qnt _ d a b => need (d != a && d != b && a != b) .sameOperand
  | .dqnt _ d a b => need (d != a && d != b && a != b) .sameOperand
  | .talg _ d _ => need (d != 0) .operandRange
  | .boxv _ _ _ _ => none
  | .boxvExtended _ _ _ _ sp => need (spaceIn [0, 1, 5] sp) .spaceCode
  | .trix _ _ _ _ => none
  | .trixExtended _ _ _ _ sp => need (spaceIn [0, 1, 5] sp) .spaceCode
  | .splt _ _ _ _ => none
  | .spltExtended _ _ _ _ sp => need (spaceIn [0, 1, 5] sp) .spaceCode
  | .volseg _ _ _ _ => none
  | .volsegExtended _ _ _ _ sp => need (spaceIn [0, 1, 5] sp) .spaceCode
  | .ivmake _ _ _ _ => none
  | .ivins _ _ => none
  | .ivget _ _ _ => none
  | .ivqry _ _ _ => none
  | .ivcut _ _ => none
  | .ivclr _ => none
  | .ivcomp _ _ => none
  | .ivcfg _ _ => none
  | .recvw _ d => need (notPort d) .portOperand
  | .migr _ a => need (notPort a) .portOperand
  | .spawn _ _ a b => need (notPort a && notPort b) .portOperand
  | .cdec _ a => need (notPort a) .portOperand
  | .hintsucc _ => none
  | .waitpred _ => none
  | .enq _ a b => need (notPort a && notPort b) .portOperand
  | .deq _ d a => need (notPort d && notPort a) .portOperand
  | .taskget _ d => need (notPort d) .portOperand
  | .bar _ => none
  | .semw _ a b => need (notPort a && notPort b) .portOperand
  | .sems _ a b => need (notPort a && notPort b) .portOperand
  | .copy _ d a b e _ => (need (notPort d && notPort a && notPort b) .portOperand) <|> (need (copyOk e) .engineField)
  | .getx _ d a b e _ => (need (notPort d && notPort a && notPort b) .portOperand) <|> (need (getxOk e) .engineField)
  | .putx _ d a b e => (need (notPort d && notPort a && notPort b) .portOperand) <|> (need (putxOk e) .engineField)
  | .coll _ a e => (need (notPort a) .portOperand) <|> (need (collOk e) .engineField)
  | .tagwAll _ a => need (notPort a) .portOperand
  | .tagwAllLiteral _ _ => none
  | .tagwAny _ a => need (notPort a) .portOperand
  | .tagwAnyLiteral _ _ => none
  | .tagf _ d => need (notPort d) .portOperand
  | .xreqLayout _ _ a b => (need (notPort a && notPort b) .portOperand) <|> (need (a != b) .sameOperand)
  | .xreqQuant _ _ a b => (need (notPort a && notPort b) .portOperand) <|> (need (a != b) .sameOperand)
  | .xreqCksum _ _ a b => (need (notPort a && notPort b) .portOperand) <|> (need (a != b) .sameOperand)
  | .trap _ _ => none
  | .eret _ => none
  | .sysr d num => (need (notPort d) .portOperand) <|> (need (sysNumOk num) .operandRange)
  | .sysw a num => (need (notPort a) .portOperand) <|> (need (sysNumOk num) .operandRange)
  | .stab _ a b => need (notPort a && notPort b) .portOperand
  | .tlbi _ a => need (notPort a) .portOperand
  | .tlbiAll _ => none
  | .preempt _ a => need (notPort a) .portOperand
  | .ctxsave _ a => need (notPort a) .portOperand
  | .ctxload _ a => need (notPort a) .portOperand
  | .portWordArrival _ _ => none
  | .portStall _ => none
  | .enqStall _ => none
  | .waitrsTimeout _ => none
  | .reservationInstructionLimit _ => none
  | .yieldExpiry _ => none
  | .loadPerformed _ _ => none
  | .storePerformed _ _ => none
  | .atomicPerformed _ => none
  | .stagedAccessAtHome _ => none
  | .parkReevaluation _ => none
  | .readMostlyFill _ _ => none
  | .readMostlyDrop _ _ => none
  | .writeCombiningDrain _ => none
  | .pageWalk _ _ => none
  | .faultRecordAppend _ => none
  | .errorRecordAppend _ => none
  | .trapDelivery _ => none
  | .strandEnd _ => none
  | .semaphoreWaitStep _ _ => none
  | .migrantArrival _ => none
  | .hingeFill _ => none
  | .arbiterDispatch _ => none
  | .crewPlacement _ => none
  | .bootForward _ _ => none
  | .launchEnd _ => none
  | .engineCommandStart _ => none
  | .compressedBlockRewrite _ _ _ => none
  | .logCollectorStep _ => none
  | .teTransition _ _ => none
  | .engineSignal _ _ => none
  | .mailboxWrite _ _ => none
  | .tagReady _ _ => none
  | .commandPause _ _ => none
  | .collStep _ _ => none
  | .xreqCompletion _ => none
  | .contextSave _ => none
  | .contextCacheSpill _ => none
  | .watchdogT1 _ => none
  | .watchdogT2 _ => none
  | .viewTake _ _ => none
  | .viewFrameEncode _ _ => none
  | .viewRecordWrite _ => none
  | .viewRelease _ _ => none
  | .haspFlitReceive _ _ => none
  | .haspLinkDown _ => none
  | .moduleReset _ _ _ _ => none
  | .doorbell _ _ => none
  | .commandFetch _ => none
  | .seqRefetch _ => none
  | .queueEnable _ => none
  | .completionConsumerWrite _ _ => none
  | .viewConsumerWrite _ _ => none
  | .viewFaultClear _ _ => none
  | .haspReplaysClear _ _ => none
  | .haspModuleWrite _ _ => none
  | .wbaseWrite _ => none
  | .errorCounterClear _ _ _ => none
  | .firmwareStageImage _ => none
  | .installImageKey => none
  | .removeImageKey => none
  | .firmwareBadCommand => none
  | .attestationRequest _ => none
  | .attestationReport => none
  | .registerWrite _ _ => none
  | .launch _ => none
  | .replay _ => none
  | .patch _ => none
  | .patchApply _ => none
  | .qcreate _ => none
  | .qdestroy _ => none
  | .fanswer _ => none
  | .sreset _ => none
  | .vbind _ => none
  | .group _ => none
  | .hwin _ => none
  | .logset _ => none
  | .ppreempt _ => none
  | .restart _ => none
  | .kload _ => none
  | .kunload _ => none
  | .pcreate _ => none
  | .presize _ => none
  | .pdestroy _ => none
  | .illegalInstrIssue _ => none
  | .instructionFetchFault _ => none
  | .mmaCompletion _ => none
  | .memoryError _ _ => none
  | .parityError _ => none
  | .queueConsumerIndexWrite _ _ _ => none
  | .bar4Access _ _ => none

/-- Well formed: no check fails. -/
def Instr.wf (i : Instr) : Bool := i.check.isNone

/-- Rows of the opcode table that are instruction words; the other rows are events of the machine. -/
def Instr.encodable : Instr → Bool
  | .nop .. => true
  | .yield .. => true
  | .halt .. => true
  | .movhFromShared .. => true
  | .movhToShared .. => true
  | .rng .. => true
  | .jmpx .. => true
  | .ret .. => true
  | .add .. => true
  | .addLiteral .. => true
  | .sub .. => true
  | .subLiteral .. => true
  | .mul .. => true
  | .mulLiteral .. => true
  | .mulh .. => true
  | .mulhLiteral .. => true
  | .div .. => true
  | .divLiteral .. => true
  | .rem .. => true
  | .remLiteral .. => true
  | .and .. => true
  | .andLiteral .. => true
  | .or .. => true
  | .orLiteral .. => true
  | .xor .. => true
  | .xorLiteral .. => true
  | .andn .. => true
  | .andnLiteral .. => true
  | .min .. => true
  | .minLiteral .. => true
  | .max .. => true
  | .maxLiteral .. => true
  | .addW .. => true
  | .addWLiteral .. => true
  | .subW .. => true
  | .subWLiteral .. => true
  | .mulW .. => true
  | .mulWLiteral .. => true
  | .mulhW .. => true
  | .mulhWLiteral .. => true
  | .divW .. => true
  | .divWLiteral .. => true
  | .remW .. => true
  | .remWLiteral .. => true
  | .andW .. => true
  | .andWLiteral .. => true
  | .orW .. => true
  | .orWLiteral .. => true
  | .xorW .. => true
  | .xorWLiteral .. => true
  | .andnW .. => true
  | .andnWLiteral .. => true
  | .minW .. => true
  | .minWLiteral .. => true
  | .maxW .. => true
  | .maxWLiteral .. => true
  | .shl .. => true
  | .shlLiteral .. => true
  | .shr .. => true
  | .shrLiteral .. => true
  | .sar .. => true
  | .sarLiteral .. => true
  | .rol .. => true
  | .rolLiteral .. => true
  | .clz .. => true
  | .ctz .. => true
  | .popc .. => true
  | .brev .. => true
  | .addi .. => true
  | .addiLiteral .. => true
  | .movi .. => true
  | .moviLiteral .. => true
  | .lea .. => true
  | .leaLiteral .. => true
  | .ext .. => true
  | .ins .. => true
  | .cmpEq .. => true
  | .cmpEqLiteral .. => true
  | .cmpNe .. => true
  | .cmpNeLiteral .. => true
  | .cmpLt .. => true
  | .cmpLtLiteral .. => true
  | .cmpGe .. => true
  | .cmpGeLiteral .. => true
  | .cmpLtu .. => true
  | .cmpLtuLiteral .. => true
  | .cmpGeu .. => true
  | .cmpGeuLiteral .. => true
  | .plogAnd .. => true
  | .plogOr .. => true
  | .plogXor .. => true
  | .plogAndn .. => true
  | .plogOrn .. => true
  | .plogNand .. => true
  | .plogNor .. => true
  | .plogXnor .. => true
  | .sel .. => true
  | .br .. => true
  | .call .. => true
  | .callLiteral .. => true
  | .jmp .. => true
  | .callx .. => true
  | .loop .. => true
  | .ldD .. => true
  | .ldDLiteral .. => true
  | .ldW .. => true
  | .ldWLiteral .. => true
  | .stD .. => true
  | .stDLiteral .. => true
  | .stW .. => true
  | .stWLiteral .. => true
  | .ldIndexed .. => true
  | .ldExtended .. => true
  | .stIndexed .. => true
  | .stExtended .. => true
  | .lr .. => true
  | .lrExtended .. => true
  | .sc .. => true
  | .scExtended .. => true
  | .amoAdd .. => true
  | .amoAddExtended .. => true
  | .amoAnd .. => true
  | .amoAndExtended .. => true
  | .amoOr .. => true
  | .amoOrExtended .. => true
  | .amoXor .. => true
  | .amoXorExtended .. => true
  | .amoMin .. => true
  | .amoMinExtended .. => true
  | .amoMax .. => true
  | .amoMaxExtended .. => true
  | .amoSwap .. => true
  | .amoSwapExtended .. => true
  | .cas .. => true
  | .casExtended .. => true
  | .fence .. => true
  | .waitrs .. => true
  | .sld .. => true
  | .sldExtended .. => true
  | .sst .. => true
  | .sstExtended .. => true
  | .samo .. => true
  | .cinv .. => true
  | .cinvAll .. => true
  | .vadd .. => true
  | .vaddExtended .. => true
  | .vsub .. => true
  | .vsubExtended .. => true
  | .vmul .. => true
  | .vmulExtended .. => true
  | .vmin .. => true
  | .vminExtended .. => true
  | .vmax .. => true
  | .vmaxExtended .. => true
  | .vabs .. => true
  | .vabsExtended .. => true
  | .vneg .. => true
  | .vnegExtended .. => true
  | .vrcp .. => true
  | .vrcpExtended .. => true
  | .vrsq .. => true
  | .vrsqExtended .. => true
  | .vex2 .. => true
  | .vex2Extended .. => true
  | .vlg2 .. => true
  | .vlg2Extended .. => true
  | .vsqrt .. => true
  | .vsqrtExtended .. => true
  | .vfma .. => true
  | .vfmaExtended .. => true
  | .vfms .. => true
  | .vfmsExtended .. => true
  | .vcvt .. => true
  | .vcmpFeq .. => true
  | .vcmpFeqExtended .. => true
  | .vcmpFne .. => true
  | .vcmpFneExtended .. => true
  | .vcmpFlt .. => true
  | .vcmpFltExtended .. => true
  | .vcmpFle .. => true
  | .vcmpFleExtended .. => true
  | .vcmpFunord .. => true
  | .vcmpFunordExtended .. => true
  | .vcmpIeq .. => true
  | .vcmpIne .. => true
  | .vcmpIlt .. => true
  | .vcmpIle .. => true
  | .vcmpIltu .. => true
  | .vcmpIleu .. => true
  | .vsel .. => true
  | .vand .. => true
  | .vor .. => true
  | .vxor .. => true
  | .vshl .. => true
  | .vshr .. => true
  | .viadd .. => true
  | .vimul .. => true
  | .vperm .. => true
  | .vbcast .. => true
  | .vextr .. => true
  | .vins .. => true
  | .vredFadd .. => true
  | .vredFaddExtended .. => true
  | .vredFmin .. => true
  | .vredFminExtended .. => true
  | .vredFmax .. => true
  | .vredFmaxExtended .. => true
  | .vredIadd .. => true
  | .vredImin .. => true
  | .vredImax .. => true
  | .vdotS8 .. => true
  | .vdotU8s8 .. => true
  | .vdotF16 .. => true
  | .vdotBf16 .. => true
  | .vld .. => true
  | .vldExtended .. => true
  | .vst .. => true
  | .vstExtended .. => true
  | .vgath .. => true
  | .vgathExtended .. => true
  | .vscat .. => true
  | .vscatExtended .. => true
  | .valloc .. => true
  | .vfree .. => true
  | .tcfg .. => true
  | .tcfgr .. => true
  | .tzero .. => true
  | .tmov .. => true
  | .tconj .. => true
  | .txp .. => true
  | .tnorm .. => true
  | .tld .. => true
  | .tldExtended .. => true
  | .tst .. => true
  | .tstExtended .. => true
  | .mma .. => true
  | .mmaCbuf .. => true
  | .tsca .. => true
  | .qnt .. => true
  | .dqnt .. => true
  | .talg .. => true
  | .boxv .. => true
  | .boxvExtended .. => true
  | .trix .. => true
  | .trixExtended .. => true
  | .splt .. => true
  | .spltExtended .. => true
  | .volseg .. => true
  | .volsegExtended .. => true
  | .ivmake .. => true
  | .ivins .. => true
  | .ivget .. => true
  | .ivqry .. => true
  | .ivcut .. => true
  | .ivclr .. => true
  | .ivcomp .. => true
  | .ivcfg .. => true
  | .recvw .. => true
  | .migr .. => true
  | .spawn .. => true
  | .cdec .. => true
  | .hintsucc .. => true
  | .waitpred .. => true
  | .enq .. => true
  | .deq .. => true
  | .taskget .. => true
  | .bar .. => true
  | .semw .. => true
  | .sems .. => true
  | .copy .. => true
  | .getx .. => true
  | .putx .. => true
  | .coll .. => true
  | .tagwAll .. => true
  | .tagwAllLiteral .. => true
  | .tagwAny .. => true
  | .tagwAnyLiteral .. => true
  | .tagf .. => true
  | .xreqLayout .. => true
  | .xreqQuant .. => true
  | .xreqCksum .. => true
  | .trap .. => true
  | .eret .. => true
  | .sysr .. => true
  | .sysw .. => true
  | .stab .. => true
  | .tlbi .. => true
  | .tlbiAll .. => true
  | .preempt .. => true
  | .ctxsave .. => true
  | .ctxload .. => true
  | .portWordArrival .. => false
  | .portStall .. => false
  | .enqStall .. => false
  | .waitrsTimeout .. => false
  | .reservationInstructionLimit .. => false
  | .yieldExpiry .. => false
  | .loadPerformed .. => false
  | .storePerformed .. => false
  | .atomicPerformed .. => false
  | .stagedAccessAtHome .. => false
  | .parkReevaluation .. => false
  | .readMostlyFill .. => false
  | .readMostlyDrop .. => false
  | .writeCombiningDrain .. => false
  | .pageWalk .. => false
  | .faultRecordAppend .. => false
  | .errorRecordAppend .. => false
  | .trapDelivery .. => false
  | .strandEnd .. => false
  | .semaphoreWaitStep .. => false
  | .migrantArrival .. => false
  | .hingeFill .. => false
  | .arbiterDispatch .. => false
  | .crewPlacement .. => false
  | .bootForward .. => false
  | .launchEnd .. => false
  | .engineCommandStart .. => false
  | .compressedBlockRewrite .. => false
  | .logCollectorStep .. => false
  | .teTransition .. => false
  | .engineSignal .. => false
  | .mailboxWrite .. => false
  | .tagReady .. => false
  | .commandPause .. => false
  | .collStep .. => false
  | .xreqCompletion .. => false
  | .contextSave .. => false
  | .contextCacheSpill .. => false
  | .watchdogT1 .. => false
  | .watchdogT2 .. => false
  | .viewTake .. => false
  | .viewFrameEncode .. => false
  | .viewRecordWrite .. => false
  | .viewRelease .. => false
  | .haspFlitReceive .. => false
  | .haspLinkDown .. => false
  | .moduleReset .. => false
  | .doorbell .. => false
  | .commandFetch .. => false
  | .seqRefetch .. => false
  | .queueEnable .. => false
  | .completionConsumerWrite .. => false
  | .viewConsumerWrite .. => false
  | .viewFaultClear .. => false
  | .haspReplaysClear .. => false
  | .haspModuleWrite .. => false
  | .wbaseWrite .. => false
  | .errorCounterClear .. => false
  | .firmwareStageImage .. => false
  | .installImageKey => false
  | .removeImageKey => false
  | .firmwareBadCommand => false
  | .attestationRequest .. => false
  | .attestationReport => false
  | .registerWrite .. => false
  | .launch .. => false
  | .replay .. => false
  | .patch .. => false
  | .patchApply .. => false
  | .qcreate .. => false
  | .qdestroy .. => false
  | .fanswer .. => false
  | .sreset .. => false
  | .vbind .. => false
  | .group .. => false
  | .hwin .. => false
  | .logset .. => false
  | .ppreempt .. => false
  | .restart .. => false
  | .kload .. => false
  | .kunload .. => false
  | .pcreate .. => false
  | .presize .. => false
  | .pdestroy .. => false
  | .illegalInstrIssue .. => false
  | .instructionFetchFault .. => false
  | .mmaCompletion .. => false
  | .memoryError .. => false
  | .parityError .. => false
  | .queueConsumerIndexWrite .. => false
  | .bar4Access .. => false

end Sys2Proof
end

