-- ==== Sys2Proof/Decode.lean ====
section
/-! DEFINITION. The decoder and the encoder of 03_encoding_and_opcode_map: word layouts (R59 to R67), the opcode map
(R69) and the words that are not instructions (R70). The decoder is total on any words and rejects by name. -/
namespace Sys2Proof
open Sys2Proof.Machine

/-- The words of one instruction, zeros standing for the words it does not have (R59). -/
structure Words where
  w0 : BitVec 32
  w1 : BitVec 32
  w2 : BitVec 32
  w3 : BitVec 32
  w4 : BitVec 32
  deriving DecidableEq, Repr

/-- L: length and form (R59, Table 3-1). -/
def Words.l (w : Words) : BitVec 2 := w.w0.extractLsb' 0 2
/-- OP: major opcode (Table 3-2). -/
def Words.op (w : Words) : BitVec 7 := w.w0.extractLsb' 2 7
/-- D (Table 3-2). -/
def Words.d (w : Words) : BitVec 5 := w.w0.extractLsb' 9 5
/-- A (Table 3-2). -/
def Words.a (w : Words) : BitVec 5 := w.w0.extractLsb' 14 5
/-- B (Table 3-2). -/
def Words.b (w : Words) : BitVec 5 := w.w0.extractLsb' 19 5
/-- G and N (Table 3-2). -/
def Words.g (w : Words) : Guard := ⟨w.w0.getLsbD 27, w.w0.extractLsb' 24 3⟩
/-- F; in the B-form OFFHI or K (Tables 3-2, 3-4). -/
def Words.f (w : Words) : BitVec 4 := w.w0.extractLsb' 28 4
/-- IMM13 of the I-form (Table 3-3). -/
def Words.imm (w : Words) : BitVec 13 := w.w0.extractLsb' 19 13
/-- OFFLO of the B-form (Table 3-4). -/
def Words.off (w : Words) : BitVec 15 := w.w0.extractLsb' 9 15
/-- XOP of extension word 1 (Table 3-5). -/
def Words.xop (w : Words) : BitVec 7 := w.w1.extractLsb' 25 7
/-- FC (Table 3-5). -/
def Words.fc (w : Words) : BitVec 5 := w.w1.extractLsb' 20 5
/-- FB (Table 3-5). -/
def Words.fb (w : Words) : BitVec 5 := w.w1.extractLsb' 15 5
/-- FA (Table 3-5). -/
def Words.fa (w : Words) : BitVec 5 := w.w1.extractLsb' 10 5
/-- E (Table 3-5). -/
def Words.e (w : Words) : BitVec 5 := w.w1.extractLsb' 5 5
/-- C (Table 3-5). -/
def Words.c (w : Words) : BitVec 5 := w.w1.extractLsb' 0 5
/-- Q of extension word 2 (Table 3-5). -/
def Words.q (w : Words) : BitVec 4 := w.w2.extractLsb' 28 4
/-- SI (Table 3-5). -/
def Words.si (w : Words) : BitVec 4 := w.w2.extractLsb' 24 4
/-- SS (Table 3-5). -/
def Words.ss (w : Words) : BitVec 8 := w.w2.extractLsb' 16 8
/-- WT (Table 3-5). -/
def Words.wt (w : Words) : BitVec 8 := w.w2.extractLsb' 8 8
/-- WS (Table 3-5). -/
def Words.ws (w : Words) : BitVec 8 := w.w2.extractLsb' 0 8
/-- The literal of an L 01 form: words 1 and 2 (Table 3-1). -/
def Words.lit1 (w : Words) : BitVec 64 := w.w2 ++ w.w1
/-- The literal of an L 11 form, when there is one: words 3 and 4 (Table 3-1). -/
def Words.litOpt (w : Words) : Option (BitVec 64) := if w.l == 3 then some (w.w4 ++ w.w3) else none
/-- The engine-command fields of words 1 and 2 (R65, Table 3-6). -/
def Words.engine (w : Words) : EngineWords :=
  { te := w.w1.getLsbD 30, conv := w.w1.getLsbD 29, z := w.w1.getLsbD 28, ssp := w.w1.extractLsb' 20 3,
    fb := w.fb, fa := w.fa, dsp := w.w1.extractLsb' 6 3, tag := w.w1.extractLsb' 0 6,
    q := w.q, si := w.si, ss := w.ss, wt := w.wt, ws := w.ws }
/-- The reserved bits of an engine command's word 1 (Table 3-6). -/
def Words.engineReserved (w : Words) : BitVec 7 :=
  w.w1.extractLsb' 31 1 ++ w.w1.extractLsb' 23 5 ++ w.w1.extractLsb' 9 1

/-- Accept an instruction: the fields it does not use are zero, the operands lie in their types, and no check of its
entry fails (R68, R70). -/
def Words.accept (_w : Words) (zero range : List Bool) (i : Instr) : Except Reject Instr :=
  if zero.all id then
    if range.all id then
      match i.check with
      | none => .ok i
      | some r => .error r
    else .error .operandRange
  else .error .reservedField

/-- How many words the first word announces (R59). -/
def wordCount (w0 : BitVec 32) : Nat :=
  match (w0.extractLsb' 0 2).toNat with
  | 0 => 1
  | 3 => 5
  | _ => 3

/-- What L, OP and F decide before any later word is fetched (R72): none when the first word may begin an instruction. -/
def headCheck (w0 : BitVec 32) : Option Reject :=
  headFields (w0.extractLsb' 2 7).toNat (w0.extractLsb' 0 2).toNat (w0.extractLsb' 28 4).toNat


/-- Major 0x00: NOP, YIELD, HALT, MOVH, RNG, JMPX, RET (R69). -/
def decode00 (w : Words) : Except Reject Instr :=
  if w.l == 0 && w.f == 0 then w.accept [w.d == 0, w.a == 0, w.b == 0] [] (.nop w.g)
  else
  if w.l == 0 && w.f == 1 then w.accept [w.d == 0, w.a == 0, w.b == 0] [] (.yield w.g)
  else
  if w.l == 0 && w.f == 2 then w.accept [w.d == 0, w.a == 0, w.b == 0] [] (.halt w.g)
  else
  if w.l == 0 && w.f == 3 then w.accept [w.b == 0] [w.a.extractLsb' 3 2 == 0] (.movhFromShared w.g w.d (w.a.setWidth 3))
  else
  if w.l == 0 && w.f == 4 then w.accept [w.b == 0] [w.d.extractLsb' 3 2 == 0] (.movhToShared w.g (w.d.setWidth 3) w.a)
  else
  if w.l == 0 && w.f == 5 then w.accept [] [] (.rng w.g w.d w.a w.b)
  else
  if w.l == 0 && w.f == 6 then w.accept [w.d == 0, w.b == 0] [] (.jmpx w.g w.a)
  else
  if w.l == 0 && w.f == 7 then w.accept [w.d == 0, w.a == 0, w.b == 0] [] (.ret w.g)
  else
  .error .noSuchFunction

/-- Major 0x01: ADD, SUB, MUL, MULH, DIV, REM, AND, OR, XOR, ANDN, MIN, MAX (R69). -/
def decode01 (w : Words) : Except Reject Instr :=
  if w.l == 0 && w.f == 0 then w.accept [] [] (.add w.g w.d w.a w.b)
  else
  if w.l == 1 && w.f == 0 then w.accept [w.b == 0] [] (.addLiteral w.g w.d w.a w.lit1)
  else
  if w.l == 0 && w.f == 1 then w.accept [] [] (.sub w.g w.d w.a w.b)
  else
  if w.l == 1 && w.f == 1 then w.accept [w.b == 0] [] (.subLiteral w.g w.d w.a w.lit1)
  else
  if w.l == 0 && w.f == 2 then w.accept [] [] (.mul w.g w.d w.a w.b)
  else
  if w.l == 1 && w.f == 2 then w.accept [w.b == 0] [] (.mulLiteral w.g w.d w.a w.lit1)
  else
  if w.l == 0 && w.f == 3 then w.accept [] [] (.mulh w.g w.d w.a w.b)
  else
  if w.l == 1 && w.f == 3 then w.accept [w.b == 0] [] (.mulhLiteral w.g w.d w.a w.lit1)
  else
  if w.l == 0 && w.f == 4 then w.accept [] [] (.div w.g w.d w.a w.b)
  else
  if w.l == 1 && w.f == 4 then w.accept [w.b == 0] [] (.divLiteral w.g w.d w.a w.lit1)
  else
  if w.l == 0 && w.f == 5 then w.accept [] [] (.rem w.g w.d w.a w.b)
  else
  if w.l == 1 && w.f == 5 then w.accept [w.b == 0] [] (.remLiteral w.g w.d w.a w.lit1)
  else
  if w.l == 0 && w.f == 6 then w.accept [] [] (.and w.g w.d w.a w.b)
  else
  if w.l == 1 && w.f == 6 then w.accept [w.b == 0] [] (.andLiteral w.g w.d w.a w.lit1)
  else
  if w.l == 0 && w.f == 7 then w.accept [] [] (.or w.g w.d w.a w.b)
  else
  if w.l == 1 && w.f == 7 then w.accept [w.b == 0] [] (.orLiteral w.g w.d w.a w.lit1)
  else
  if w.l == 0 && w.f == 8 then w.accept [] [] (.xor w.g w.d w.a w.b)
  else
  if w.l == 1 && w.f == 8 then w.accept [w.b == 0] [] (.xorLiteral w.g w.d w.a w.lit1)
  else
  if w.l == 0 && w.f == 9 then w.accept [] [] (.andn w.g w.d w.a w.b)
  else
  if w.l == 1 && w.f == 9 then w.accept [w.b == 0] [] (.andnLiteral w.g w.d w.a w.lit1)
  else
  if w.l == 0 && w.f == 10 then w.accept [] [] (.min w.g w.d w.a w.b)
  else
  if w.l == 1 && w.f == 10 then w.accept [w.b == 0] [] (.minLiteral w.g w.d w.a w.lit1)
  else
  if w.l == 0 && w.f == 11 then w.accept [] [] (.max w.g w.d w.a w.b)
  else
  if w.l == 1 && w.f == 11 then w.accept [w.b == 0] [] (.maxLiteral w.g w.d w.a w.lit1)
  else
  .error .noSuchFunction

/-- Major 0x02: ADD, SUB, MUL, MULH, DIV, REM, AND, OR, XOR, ANDN, MIN, MAX (R69). -/
def decode02 (w : Words) : Except Reject Instr :=
  if w.l == 0 && w.f == 0 then w.accept [] [] (.addW w.g w.d w.a w.b)
  else
  if w.l == 1 && w.f == 0 then w.accept [w.b == 0] [] (.addWLiteral w.g w.d w.a w.lit1)
  else
  if w.l == 0 && w.f == 1 then w.accept [] [] (.subW w.g w.d w.a w.b)
  else
  if w.l == 1 && w.f == 1 then w.accept [w.b == 0] [] (.subWLiteral w.g w.d w.a w.lit1)
  else
  if w.l == 0 && w.f == 2 then w.accept [] [] (.mulW w.g w.d w.a w.b)
  else
  if w.l == 1 && w.f == 2 then w.accept [w.b == 0] [] (.mulWLiteral w.g w.d w.a w.lit1)
  else
  if w.l == 0 && w.f == 3 then w.accept [] [] (.mulhW w.g w.d w.a w.b)
  else
  if w.l == 1 && w.f == 3 then w.accept [w.b == 0] [] (.mulhWLiteral w.g w.d w.a w.lit1)
  else
  if w.l == 0 && w.f == 4 then w.accept [] [] (.divW w.g w.d w.a w.b)
  else
  if w.l == 1 && w.f == 4 then w.accept [w.b == 0] [] (.divWLiteral w.g w.d w.a w.lit1)
  else
  if w.l == 0 && w.f == 5 then w.accept [] [] (.remW w.g w.d w.a w.b)
  else
  if w.l == 1 && w.f == 5 then w.accept [w.b == 0] [] (.remWLiteral w.g w.d w.a w.lit1)
  else
  if w.l == 0 && w.f == 6 then w.accept [] [] (.andW w.g w.d w.a w.b)
  else
  if w.l == 1 && w.f == 6 then w.accept [w.b == 0] [] (.andWLiteral w.g w.d w.a w.lit1)
  else
  if w.l == 0 && w.f == 7 then w.accept [] [] (.orW w.g w.d w.a w.b)
  else
  if w.l == 1 && w.f == 7 then w.accept [w.b == 0] [] (.orWLiteral w.g w.d w.a w.lit1)
  else
  if w.l == 0 && w.f == 8 then w.accept [] [] (.xorW w.g w.d w.a w.b)
  else
  if w.l == 1 && w.f == 8 then w.accept [w.b == 0] [] (.xorWLiteral w.g w.d w.a w.lit1)
  else
  if w.l == 0 && w.f == 9 then w.accept [] [] (.andnW w.g w.d w.a w.b)
  else
  if w.l == 1 && w.f == 9 then w.accept [w.b == 0] [] (.andnWLiteral w.g w.d w.a w.lit1)
  else
  if w.l == 0 && w.f == 10 then w.accept [] [] (.minW w.g w.d w.a w.b)
  else
  if w.l == 1 && w.f == 10 then w.accept [w.b == 0] [] (.minWLiteral w.g w.d w.a w.lit1)
  else
  if w.l == 0 && w.f == 11 then w.accept [] [] (.maxW w.g w.d w.a w.b)
  else
  if w.l == 1 && w.f == 11 then w.accept [w.b == 0] [] (.maxWLiteral w.g w.d w.a w.lit1)
  else
  .error .noSuchFunction

/-- Major 0x03: SHL, SHR, SAR, ROL, CLZ, CTZ, POPC, BREV (R69). -/
def decode03 (w : Words) : Except Reject Instr :=
  if w.l == 0 && w.f.extractLsb' 0 3 == 0 then w.accept [] [] (.shl w.g (w.f.getLsbD 3) w.d w.a w.b)
  else
  if w.l == 1 && w.f.extractLsb' 0 3 == 0 then w.accept [w.b == 0] [] (.shlLiteral w.g (w.f.getLsbD 3) w.d w.a w.lit1)
  else
  if w.l == 0 && w.f.extractLsb' 0 3 == 1 then w.accept [] [] (.shr w.g (w.f.getLsbD 3) w.d w.a w.b)
  else
  if w.l == 1 && w.f.extractLsb' 0 3 == 1 then w.accept [w.b == 0] [] (.shrLiteral w.g (w.f.getLsbD 3) w.d w.a w.lit1)
  else
  if w.l == 0 && w.f.extractLsb' 0 3 == 2 then w.accept [] [] (.sar w.g (w.f.getLsbD 3) w.d w.a w.b)
  else
  if w.l == 1 && w.f.extractLsb' 0 3 == 2 then w.accept [w.b == 0] [] (.sarLiteral w.g (w.f.getLsbD 3) w.d w.a w.lit1)
  else
  if w.l == 0 && w.f.extractLsb' 0 3 == 3 then w.accept [] [] (.rol w.g (w.f.getLsbD 3) w.d w.a w.b)
  else
  if w.l == 1 && w.f.extractLsb' 0 3 == 3 then w.accept [w.b == 0] [] (.rolLiteral w.g (w.f.getLsbD 3) w.d w.a w.lit1)
  else
  if w.l == 0 && w.f.extractLsb' 0 3 == 4 then w.accept [w.b == 0] [] (.clz w.g (w.f.getLsbD 3) w.d w.a)
  else
  if w.l == 0 && w.f.extractLsb' 0 3 == 5 then w.accept [w.b == 0] [] (.ctz w.g (w.f.getLsbD 3) w.d w.a)
  else
  if w.l == 0 && w.f.extractLsb' 0 3 == 6 then w.accept [w.b == 0] [] (.popc w.g (w.f.getLsbD 3) w.d w.a)
  else
  if w.l == 0 && w.f.extractLsb' 0 3 == 7 then w.accept [w.b == 0] [] (.brev w.g (w.f.getLsbD 3) w.d w.a)
  else
  .error .noSuchFunction

/-- Major 0x04: ADDI (R69). -/
def decode04 (w : Words) : Except Reject Instr :=
  if w.l == 0 then w.accept [] [] (.addi w.d w.a w.imm)
  else
  if w.l == 1 then w.accept [w.imm == 0] [] (.addiLiteral w.d w.a w.lit1)
  else
  .error .noSuchFunction

/-- Major 0x05: MOVI (R69). -/
def decode05 (w : Words) : Except Reject Instr :=
  if w.l == 0 then w.accept [w.a == 0] [] (.movi w.d w.imm)
  else
  if w.l == 1 then w.accept [w.a == 0, w.imm == 0] [] (.moviLiteral w.d w.lit1)
  else
  .error .noSuchFunction

/-- Major 0x06: LEA (R69). -/
def decode06 (w : Words) : Except Reject Instr :=
  if w.l == 0 && w.f.extractLsb' 2 2 == 0 then w.accept [] [] (.lea w.g (w.f.extractLsb' 0 2) w.d w.a w.b)
  else
  if w.l == 1 && w.f.extractLsb' 2 2 == 0 then w.accept [] [] (.leaLiteral w.g (w.f.extractLsb' 0 2) w.d w.a w.b w.lit1)
  else
  .error .noSuchFunction

/-- Major 0x07: EXT, INS (R69). -/
def decode07 (w : Words) : Except Reject Instr :=
  if w.l == 0 && w.imm.getLsbD 12 == false then w.accept [] [] (.ext w.d w.a (w.imm.extractLsb' 6 6) (w.imm.extractLsb' 0 6))
  else
  if w.l == 0 && w.imm.getLsbD 12 == true then w.accept [] [] (.ins w.d w.a (w.imm.extractLsb' 6 6) (w.imm.extractLsb' 0 6))
  else
  .error .noSuchFunction

/-- Major 0x08: CMP (R69). -/
def decode08 (w : Words) : Except Reject Instr :=
  if w.l == 0 && w.f.extractLsb' 0 3 == 0 then w.accept [] [w.d.extractLsb' 3 2 == 0] (.cmpEq w.g (w.f.getLsbD 3) (w.d.setWidth 3) w.a w.b)
  else
  if w.l == 1 && w.f.extractLsb' 0 3 == 0 then w.accept [w.b == 0] [w.d.extractLsb' 3 2 == 0] (.cmpEqLiteral w.g (w.f.getLsbD 3) (w.d.setWidth 3) w.a w.lit1)
  else
  if w.l == 0 && w.f.extractLsb' 0 3 == 1 then w.accept [] [w.d.extractLsb' 3 2 == 0] (.cmpNe w.g (w.f.getLsbD 3) (w.d.setWidth 3) w.a w.b)
  else
  if w.l == 1 && w.f.extractLsb' 0 3 == 1 then w.accept [w.b == 0] [w.d.extractLsb' 3 2 == 0] (.cmpNeLiteral w.g (w.f.getLsbD 3) (w.d.setWidth 3) w.a w.lit1)
  else
  if w.l == 0 && w.f.extractLsb' 0 3 == 2 then w.accept [] [w.d.extractLsb' 3 2 == 0] (.cmpLt w.g (w.f.getLsbD 3) (w.d.setWidth 3) w.a w.b)
  else
  if w.l == 1 && w.f.extractLsb' 0 3 == 2 then w.accept [w.b == 0] [w.d.extractLsb' 3 2 == 0] (.cmpLtLiteral w.g (w.f.getLsbD 3) (w.d.setWidth 3) w.a w.lit1)
  else
  if w.l == 0 && w.f.extractLsb' 0 3 == 3 then w.accept [] [w.d.extractLsb' 3 2 == 0] (.cmpGe w.g (w.f.getLsbD 3) (w.d.setWidth 3) w.a w.b)
  else
  if w.l == 1 && w.f.extractLsb' 0 3 == 3 then w.accept [w.b == 0] [w.d.extractLsb' 3 2 == 0] (.cmpGeLiteral w.g (w.f.getLsbD 3) (w.d.setWidth 3) w.a w.lit1)
  else
  if w.l == 0 && w.f.extractLsb' 0 3 == 4 then w.accept [] [w.d.extractLsb' 3 2 == 0] (.cmpLtu w.g (w.f.getLsbD 3) (w.d.setWidth 3) w.a w.b)
  else
  if w.l == 1 && w.f.extractLsb' 0 3 == 4 then w.accept [w.b == 0] [w.d.extractLsb' 3 2 == 0] (.cmpLtuLiteral w.g (w.f.getLsbD 3) (w.d.setWidth 3) w.a w.lit1)
  else
  if w.l == 0 && w.f.extractLsb' 0 3 == 5 then w.accept [] [w.d.extractLsb' 3 2 == 0] (.cmpGeu w.g (w.f.getLsbD 3) (w.d.setWidth 3) w.a w.b)
  else
  if w.l == 1 && w.f.extractLsb' 0 3 == 5 then w.accept [w.b == 0] [w.d.extractLsb' 3 2 == 0] (.cmpGeuLiteral w.g (w.f.getLsbD 3) (w.d.setWidth 3) w.a w.lit1)
  else
  .error .noSuchFunction

/-- Major 0x09: PLOG (R69). -/
def decode09 (w : Words) : Except Reject Instr :=
  if w.l == 0 && w.f == 0 then w.accept [] [w.d.extractLsb' 3 2 == 0, w.a.extractLsb' 3 2 == 0, w.b.extractLsb' 3 2 == 0] (.plogAnd w.g (w.d.setWidth 3) (w.a.setWidth 3) (w.b.setWidth 3))
  else
  if w.l == 0 && w.f == 1 then w.accept [] [w.d.extractLsb' 3 2 == 0, w.a.extractLsb' 3 2 == 0, w.b.extractLsb' 3 2 == 0] (.plogOr w.g (w.d.setWidth 3) (w.a.setWidth 3) (w.b.setWidth 3))
  else
  if w.l == 0 && w.f == 2 then w.accept [] [w.d.extractLsb' 3 2 == 0, w.a.extractLsb' 3 2 == 0, w.b.extractLsb' 3 2 == 0] (.plogXor w.g (w.d.setWidth 3) (w.a.setWidth 3) (w.b.setWidth 3))
  else
  if w.l == 0 && w.f == 3 then w.accept [] [w.d.extractLsb' 3 2 == 0, w.a.extractLsb' 3 2 == 0, w.b.extractLsb' 3 2 == 0] (.plogAndn w.g (w.d.setWidth 3) (w.a.setWidth 3) (w.b.setWidth 3))
  else
  if w.l == 0 && w.f == 4 then w.accept [] [w.d.extractLsb' 3 2 == 0, w.a.extractLsb' 3 2 == 0, w.b.extractLsb' 3 2 == 0] (.plogOrn w.g (w.d.setWidth 3) (w.a.setWidth 3) (w.b.setWidth 3))
  else
  if w.l == 0 && w.f == 5 then w.accept [] [w.d.extractLsb' 3 2 == 0, w.a.extractLsb' 3 2 == 0, w.b.extractLsb' 3 2 == 0] (.plogNand w.g (w.d.setWidth 3) (w.a.setWidth 3) (w.b.setWidth 3))
  else
  if w.l == 0 && w.f == 6 then w.accept [] [w.d.extractLsb' 3 2 == 0, w.a.extractLsb' 3 2 == 0, w.b.extractLsb' 3 2 == 0] (.plogNor w.g (w.d.setWidth 3) (w.a.setWidth 3) (w.b.setWidth 3))
  else
  if w.l == 0 && w.f == 7 then w.accept [] [w.d.extractLsb' 3 2 == 0, w.a.extractLsb' 3 2 == 0, w.b.extractLsb' 3 2 == 0] (.plogXnor w.g (w.d.setWidth 3) (w.a.setWidth 3) (w.b.setWidth 3))
  else
  .error .noSuchFunction

/-- Major 0x0A: SEL (R69). -/
def decode0A (w : Words) : Except Reject Instr :=
  if w.l == 0 then w.accept [] [] (.sel w.g (w.f.getLsbD 3) (w.f.extractLsb' 0 3) w.d w.a w.b)
  else
  .error .noSuchFunction

/-- Major 0x0B: BR (R69). -/
def decode0B (w : Words) : Except Reject Instr :=
  if w.l == 0 then w.accept [] [] (.br w.g (w.f ++ w.off))
  else
  .error .noSuchFunction

/-- Major 0x0C: CALL (R69). -/
def decode0C (w : Words) : Except Reject Instr :=
  if w.l == 0 then w.accept [] [] (.call w.g w.f w.off)
  else
  if w.l == 1 then w.accept [w.off == 0] [] (.callLiteral w.g w.f w.lit1)
  else
  .error .noSuchFunction

/-- Major 0x0D: JMP (R69). -/
def decode0D (w : Words) : Except Reject Instr :=
  if w.l == 1 then w.accept [w.f == 0, w.off == 0] [] (.jmp w.g w.lit1)
  else
  .error .noSuchFunction

/-- Major 0x0E: CALLX (R69). -/
def decode0E (w : Words) : Except Reject Instr :=
  if w.l == 0 then w.accept [w.d == 0, w.b == 0] [] (.callx w.g w.f w.a)
  else
  .error .noSuchFunction

/-- Major 0x0F: LOOP (R69). -/
def decode0F (w : Words) : Except Reject Instr :=
  if w.l == 0 then w.accept [w.a == 0] [] (.loop w.d w.imm)
  else
  .error .noSuchFunction

/-- Major 0x10: LD (R69). -/
def decode10 (w : Words) : Except Reject Instr :=
  if w.l == 0 then w.accept [] [] (.ldD w.d w.a w.imm)
  else
  if w.l == 1 then w.accept [w.imm == 0] [] (.ldDLiteral w.d w.a w.lit1)
  else
  .error .noSuchFunction

/-- Major 0x11: LD (R69). -/
def decode11 (w : Words) : Except Reject Instr :=
  if w.l == 0 then w.accept [] [] (.ldW w.d w.a w.imm)
  else
  if w.l == 1 then w.accept [w.imm == 0] [] (.ldWLiteral w.d w.a w.lit1)
  else
  .error .noSuchFunction

/-- Major 0x12: ST (R69). -/
def decode12 (w : Words) : Except Reject Instr :=
  if w.l == 0 then w.accept [] [] (.stD w.d w.a w.imm)
  else
  if w.l == 1 then w.accept [w.imm == 0] [] (.stDLiteral w.d w.a w.lit1)
  else
  .error .noSuchFunction

/-- Major 0x13: ST (R69). -/
def decode13 (w : Words) : Except Reject Instr :=
  if w.l == 0 then w.accept [] [] (.stW w.d w.a w.imm)
  else
  if w.l == 1 then w.accept [w.imm == 0] [] (.stWLiteral w.d w.a w.lit1)
  else
  .error .noSuchFunction

/-- Major 0x14: LD, ST (R69). -/
def decode14 (w : Words) : Except Reject Instr :=
  if w.l == 0 && w.f.extractLsb' 3 1 == 0 && w.f.extractLsb' 0 2 == 0 then w.accept [] [] (.ldIndexed w.g (w.f.getLsbD 2) w.d w.a w.b)
  else
  if (w.l == 2 || w.l == 3) && w.f.extractLsb' 3 1 == 0 && w.f.extractLsb' 0 2 == 0 then w.accept [w.e.extractLsb' 3 2 == 0, w.xop == 0, w.fc == 0, w.fb == 0, w.fa == 0, w.c == 0, w.si == 0, w.ss == 0, w.wt == 0, w.ws == 0] [] (.ldExtended w.g (w.f.getLsbD 2) w.d w.a w.b (w.e.extractLsb' 0 3) w.q w.litOpt)
  else
  if w.l == 0 && w.f.extractLsb' 3 1 == 1 && w.f.extractLsb' 0 2 == 0 then w.accept [] [] (.stIndexed w.g (w.f.getLsbD 2) w.d w.a w.b)
  else
  if (w.l == 2 || w.l == 3) && w.f.extractLsb' 3 1 == 1 && w.f.extractLsb' 0 2 == 0 then w.accept [w.e.extractLsb' 3 2 == 0, w.xop == 0, w.fc == 0, w.fb == 0, w.fa == 0, w.c == 0, w.si == 0, w.ss == 0, w.wt == 0, w.ws == 0] [] (.stExtended w.g (w.f.getLsbD 2) w.d w.a w.b (w.e.extractLsb' 0 3) w.q w.litOpt)
  else
  .error .noSuchFunction

/-- Major 0x15: LR, SC (R69). -/
def decode15 (w : Words) : Except Reject Instr :=
  if w.l == 0 && w.f.extractLsb' 1 3 == 0 then w.accept [w.b == 0] [] (.lr w.g (w.f.getLsbD 0) w.d w.a)
  else
  if w.l == 2 && w.f.extractLsb' 1 3 == 0 then w.accept [w.b == 0, w.xop == 0, w.fc == 0, w.fb == 0, w.fa == 0, w.e == 0, w.c == 0, w.si == 0, w.ss == 0, w.wt == 0, w.ws == 0] [] (.lrExtended w.g (w.f.getLsbD 0) w.d w.a w.q)
  else
  if w.l == 0 && w.f.extractLsb' 1 3 == 1 then w.accept [] [] (.sc w.g (w.f.getLsbD 0) w.d w.a w.b)
  else
  if w.l == 2 && w.f.extractLsb' 1 3 == 1 then w.accept [w.xop == 0, w.fc == 0, w.fb == 0, w.fa == 0, w.e == 0, w.c == 0, w.si == 0, w.ss == 0, w.wt == 0, w.ws == 0] [] (.scExtended w.g (w.f.getLsbD 0) w.d w.a w.b w.q)
  else
  .error .noSuchFunction

/-- Major 0x16: AMO (R69). -/
def decode16 (w : Words) : Except Reject Instr :=
  if w.l == 0 && w.f.extractLsb' 0 3 == 0 then w.accept [] [] (.amoAdd w.g (w.f.getLsbD 3) w.d w.a w.b)
  else
  if w.l == 2 && w.f.extractLsb' 0 3 == 0 then w.accept [w.e.extractLsb' 3 2 == 0, w.xop == 0, w.fc == 0, w.fb == 0, w.fa == 0, w.c == 0, w.si == 0, w.ss == 0, w.wt == 0, w.ws == 0] [] (.amoAddExtended w.g (w.f.getLsbD 3) w.d w.a w.b (w.e.extractLsb' 0 3) w.q)
  else
  if w.l == 0 && w.f.extractLsb' 0 3 == 1 then w.accept [] [] (.amoAnd w.g (w.f.getLsbD 3) w.d w.a w.b)
  else
  if w.l == 2 && w.f.extractLsb' 0 3 == 1 then w.accept [w.e.extractLsb' 3 2 == 0, w.xop == 0, w.fc == 0, w.fb == 0, w.fa == 0, w.c == 0, w.si == 0, w.ss == 0, w.wt == 0, w.ws == 0] [] (.amoAndExtended w.g (w.f.getLsbD 3) w.d w.a w.b (w.e.extractLsb' 0 3) w.q)
  else
  if w.l == 0 && w.f.extractLsb' 0 3 == 2 then w.accept [] [] (.amoOr w.g (w.f.getLsbD 3) w.d w.a w.b)
  else
  if w.l == 2 && w.f.extractLsb' 0 3 == 2 then w.accept [w.e.extractLsb' 3 2 == 0, w.xop == 0, w.fc == 0, w.fb == 0, w.fa == 0, w.c == 0, w.si == 0, w.ss == 0, w.wt == 0, w.ws == 0] [] (.amoOrExtended w.g (w.f.getLsbD 3) w.d w.a w.b (w.e.extractLsb' 0 3) w.q)
  else
  if w.l == 0 && w.f.extractLsb' 0 3 == 3 then w.accept [] [] (.amoXor w.g (w.f.getLsbD 3) w.d w.a w.b)
  else
  if w.l == 2 && w.f.extractLsb' 0 3 == 3 then w.accept [w.e.extractLsb' 3 2 == 0, w.xop == 0, w.fc == 0, w.fb == 0, w.fa == 0, w.c == 0, w.si == 0, w.ss == 0, w.wt == 0, w.ws == 0] [] (.amoXorExtended w.g (w.f.getLsbD 3) w.d w.a w.b (w.e.extractLsb' 0 3) w.q)
  else
  if w.l == 0 && w.f.extractLsb' 0 3 == 4 then w.accept [] [] (.amoMin w.g (w.f.getLsbD 3) w.d w.a w.b)
  else
  if w.l == 2 && w.f.extractLsb' 0 3 == 4 then w.accept [w.e.extractLsb' 3 2 == 0, w.xop == 0, w.fc == 0, w.fb == 0, w.fa == 0, w.c == 0, w.si == 0, w.ss == 0, w.wt == 0, w.ws == 0] [] (.amoMinExtended w.g (w.f.getLsbD 3) w.d w.a w.b (w.e.extractLsb' 0 3) w.q)
  else
  if w.l == 0 && w.f.extractLsb' 0 3 == 5 then w.accept [] [] (.amoMax w.g (w.f.getLsbD 3) w.d w.a w.b)
  else
  if w.l == 2 && w.f.extractLsb' 0 3 == 5 then w.accept [w.e.extractLsb' 3 2 == 0, w.xop == 0, w.fc == 0, w.fb == 0, w.fa == 0, w.c == 0, w.si == 0, w.ss == 0, w.wt == 0, w.ws == 0] [] (.amoMaxExtended w.g (w.f.getLsbD 3) w.d w.a w.b (w.e.extractLsb' 0 3) w.q)
  else
  if w.l == 0 && w.f.extractLsb' 0 3 == 6 then w.accept [] [] (.amoSwap w.g (w.f.getLsbD 3) w.d w.a w.b)
  else
  if w.l == 2 && w.f.extractLsb' 0 3 == 6 then w.accept [w.e.extractLsb' 3 2 == 0, w.xop == 0, w.fc == 0, w.fb == 0, w.fa == 0, w.c == 0, w.si == 0, w.ss == 0, w.wt == 0, w.ws == 0] [] (.amoSwapExtended w.g (w.f.getLsbD 3) w.d w.a w.b (w.e.extractLsb' 0 3) w.q)
  else
  .error .noSuchFunction

/-- Major 0x17: CAS (R69). -/
def decode17 (w : Words) : Except Reject Instr :=
  if w.l == 0 && w.f.extractLsb' 1 3 == 0 then w.accept [] [] (.cas w.g (w.f.getLsbD 0) w.d w.a w.b)
  else
  if w.l == 2 && w.f.extractLsb' 1 3 == 0 then w.accept [w.e.extractLsb' 3 2 == 0, w.xop == 0, w.fc == 0, w.fb == 0, w.fa == 0, w.c == 0, w.si == 0, w.ss == 0, w.wt == 0, w.ws == 0] [] (.casExtended w.g (w.f.getLsbD 0) w.d w.a w.b (w.e.extractLsb' 0 3) w.q)
  else
  .error .noSuchFunction

/-- Major 0x18: FENCE (R69). -/
def decode18 (w : Words) : Except Reject Instr :=
  if w.l == 0 then w.accept [w.a == 0, w.b == 0] [] (.fence w.g w.f w.d)
  else
  .error .noSuchFunction

/-- Major 0x19: WAITRS (R69). -/
def decode19 (w : Words) : Except Reject Instr :=
  if w.l == 0 && w.f == 0 then w.accept [w.b == 0] [] (.waitrs w.g w.d w.a)
  else
  .error .noSuchFunction

/-- Major 0x1A: SLD (R69). -/
def decode1A (w : Words) : Except Reject Instr :=
  if w.l == 0 then w.accept [] [] (.sld w.g w.f w.d w.a w.b)
  else
  if (w.l == 2 || w.l == 3) then w.accept [w.e.extractLsb' 0 3 == 0, w.e.getLsbD 4 == false, w.xop == 0, w.fc == 0, w.fb == 0, w.fa == 0, w.c == 0, w.si == 0, w.ss == 0, w.wt == 0, w.ws == 0] [] (.sldExtended w.g w.f w.d w.a w.b (w.e.getLsbD 3) w.q w.litOpt)
  else
  .error .noSuchFunction

/-- Major 0x1B: SST (R69). -/
def decode1B (w : Words) : Except Reject Instr :=
  if w.l == 0 then w.accept [] [] (.sst w.g w.f w.d w.a w.b)
  else
  if (w.l == 2 || w.l == 3) then w.accept [w.e.extractLsb' 0 3 == 0, w.e.getLsbD 4 == false, w.xop == 0, w.fc == 0, w.fb == 0, w.fa == 0, w.c == 0, w.si == 0, w.ss == 0, w.wt == 0, w.ws == 0] [] (.sstExtended w.g w.f w.d w.a w.b (w.e.getLsbD 3) w.q w.litOpt)
  else
  .error .noSuchFunction

/-- Major 0x1C: SAMO (R69). -/
def decode1C (w : Words) : Except Reject Instr :=
  if (w.l == 2 || w.l == 3) then w.accept [w.e.extractLsb' 0 3 == 0, w.e.getLsbD 4 == false, w.xop.extractLsb' 3 4 == 0, w.fc == 0, w.fb == 0, w.fa == 0, w.si == 0, w.ss == 0, w.wt == 0, w.ws == 0] [] (.samo w.g w.f w.d w.a w.b (w.xop.extractLsb' 0 3) (w.e.getLsbD 3) w.q w.c w.litOpt)
  else
  .error .noSuchFunction

/-- Major 0x1D: CINV (R69). -/
def decode1D (w : Words) : Except Reject Instr :=
  if w.l == 0 && w.f == 0 then w.accept [w.d == 0] [] (.cinv w.g w.a w.b)
  else
  if w.l == 0 && w.f == 1 then w.accept [w.d == 0, w.a == 0, w.b == 0] [] (.cinvAll w.g)
  else
  .error .noSuchFunction

/-- Major 0x20: VADD, VSUB, VMUL, VMIN, VMAX, VABS, VNEG, VRCP, VRSQ, VEX2, VLG2, VSQRT (R69). -/
def decode20 (w : Words) : Except Reject Instr :=
  if w.l == 0 && w.f == 0 then w.accept [] [] (.vadd w.g w.d w.a w.b)
  else
  if w.l == 2 && w.f == 0 then w.accept [w.xop == 0, w.fc == 0, w.fb == 0, w.e == 0, w.c == 0, w.q == 0, w.si == 0, w.ss == 0, w.wt == 0, w.ws == 0] [] (.vaddExtended w.g w.d w.a w.b w.fa)
  else
  if w.l == 0 && w.f == 1 then w.accept [] [] (.vsub w.g w.d w.a w.b)
  else
  if w.l == 2 && w.f == 1 then w.accept [w.xop == 0, w.fc == 0, w.fb == 0, w.e == 0, w.c == 0, w.q == 0, w.si == 0, w.ss == 0, w.wt == 0, w.ws == 0] [] (.vsubExtended w.g w.d w.a w.b w.fa)
  else
  if w.l == 0 && w.f == 2 then w.accept [] [] (.vmul w.g w.d w.a w.b)
  else
  if w.l == 2 && w.f == 2 then w.accept [w.xop == 0, w.fc == 0, w.fb == 0, w.e == 0, w.c == 0, w.q == 0, w.si == 0, w.ss == 0, w.wt == 0, w.ws == 0] [] (.vmulExtended w.g w.d w.a w.b w.fa)
  else
  if w.l == 0 && w.f == 3 then w.accept [] [] (.vmin w.g w.d w.a w.b)
  else
  if w.l == 2 && w.f == 3 then w.accept [w.xop == 0, w.fc == 0, w.fb == 0, w.e == 0, w.c == 0, w.q == 0, w.si == 0, w.ss == 0, w.wt == 0, w.ws == 0] [] (.vminExtended w.g w.d w.a w.b w.fa)
  else
  if w.l == 0 && w.f == 4 then w.accept [] [] (.vmax w.g w.d w.a w.b)
  else
  if w.l == 2 && w.f == 4 then w.accept [w.xop == 0, w.fc == 0, w.fb == 0, w.e == 0, w.c == 0, w.q == 0, w.si == 0, w.ss == 0, w.wt == 0, w.ws == 0] [] (.vmaxExtended w.g w.d w.a w.b w.fa)
  else
  if w.l == 0 && w.f == 5 then w.accept [w.b == 0] [] (.vabs w.g w.d w.a)
  else
  if w.l == 2 && w.f == 5 then w.accept [w.b == 0, w.xop == 0, w.fc == 0, w.fb == 0, w.e == 0, w.c == 0, w.q == 0, w.si == 0, w.ss == 0, w.wt == 0, w.ws == 0] [] (.vabsExtended w.g w.d w.a w.fa)
  else
  if w.l == 0 && w.f == 6 then w.accept [w.b == 0] [] (.vneg w.g w.d w.a)
  else
  if w.l == 2 && w.f == 6 then w.accept [w.b == 0, w.xop == 0, w.fc == 0, w.fb == 0, w.e == 0, w.c == 0, w.q == 0, w.si == 0, w.ss == 0, w.wt == 0, w.ws == 0] [] (.vnegExtended w.g w.d w.a w.fa)
  else
  if w.l == 0 && w.f == 7 then w.accept [w.b == 0] [] (.vrcp w.g w.d w.a)
  else
  if w.l == 2 && w.f == 7 then w.accept [w.b == 0, w.xop == 0, w.fc == 0, w.fb == 0, w.e == 0, w.c == 0, w.q == 0, w.si == 0, w.ss == 0, w.wt == 0, w.ws == 0] [] (.vrcpExtended w.g w.d w.a w.fa)
  else
  if w.l == 0 && w.f == 8 then w.accept [w.b == 0] [] (.vrsq w.g w.d w.a)
  else
  if w.l == 2 && w.f == 8 then w.accept [w.b == 0, w.xop == 0, w.fc == 0, w.fb == 0, w.e == 0, w.c == 0, w.q == 0, w.si == 0, w.ss == 0, w.wt == 0, w.ws == 0] [] (.vrsqExtended w.g w.d w.a w.fa)
  else
  if w.l == 0 && w.f == 9 then w.accept [w.b == 0] [] (.vex2 w.g w.d w.a)
  else
  if w.l == 2 && w.f == 9 then w.accept [w.b == 0, w.xop == 0, w.fc == 0, w.fb == 0, w.e == 0, w.c == 0, w.q == 0, w.si == 0, w.ss == 0, w.wt == 0, w.ws == 0] [] (.vex2Extended w.g w.d w.a w.fa)
  else
  if w.l == 0 && w.f == 10 then w.accept [w.b == 0] [] (.vlg2 w.g w.d w.a)
  else
  if w.l == 2 && w.f == 10 then w.accept [w.b == 0, w.xop == 0, w.fc == 0, w.fb == 0, w.e == 0, w.c == 0, w.q == 0, w.si == 0, w.ss == 0, w.wt == 0, w.ws == 0] [] (.vlg2Extended w.g w.d w.a w.fa)
  else
  if w.l == 0 && w.f == 11 then w.accept [w.b == 0] [] (.vsqrt w.g w.d w.a)
  else
  if w.l == 2 && w.f == 11 then w.accept [w.b == 0, w.xop == 0, w.fc == 0, w.fb == 0, w.e == 0, w.c == 0, w.q == 0, w.si == 0, w.ss == 0, w.wt == 0, w.ws == 0] [] (.vsqrtExtended w.g w.d w.a w.fa)
  else
  .error .noSuchFunction

/-- Major 0x21: VFMA, VFMS (R69). -/
def decode21 (w : Words) : Except Reject Instr :=
  if w.l == 0 && w.f == 0 then w.accept [] [] (.vfma w.g w.d w.a w.b)
  else
  if w.l == 2 && w.f == 0 then w.accept [w.xop == 0, w.fc == 0, w.fb == 0, w.e == 0, w.c == 0, w.q == 0, w.si == 0, w.ss == 0, w.wt == 0, w.ws == 0] [] (.vfmaExtended w.g w.d w.a w.b w.fa)
  else
  if w.l == 0 && w.f == 1 then w.accept [] [] (.vfms w.g w.d w.a w.b)
  else
  if w.l == 2 && w.f == 1 then w.accept [w.xop == 0, w.fc == 0, w.fb == 0, w.e == 0, w.c == 0, w.q == 0, w.si == 0, w.ss == 0, w.wt == 0, w.ws == 0] [] (.vfmsExtended w.g w.d w.a w.b w.fa)
  else
  .error .noSuchFunction

/-- Major 0x22: VCVT (R69). -/
def decode22 (w : Words) : Except Reject Instr :=
  if w.l == 2 && w.f == 0 then w.accept [w.b == 0, w.xop.getLsbD 6 == false, w.fc == 0, w.e == 0, w.c == 0, w.q == 0, w.si == 0, w.ss == 0, w.wt == 0, w.ws == 0] [] (.vcvt w.g w.d w.a w.fa w.fb (w.xop.extractLsb' 0 3) (w.xop.extractLsb' 3 3))
  else
  .error .noSuchFunction

/-- Major 0x23: VCMP (R69). -/
def decode23 (w : Words) : Except Reject Instr :=
  if w.l == 0 && w.f == 0 then w.accept [] [w.d.extractLsb' 3 2 == 0] (.vcmpFeq w.g (w.d.setWidth 3) w.a w.b)
  else
  if w.l == 2 && w.f == 0 then w.accept [w.xop.extractLsb' 1 6 == 0, w.fc == 0, w.fb == 0, w.e == 0, w.c == 0, w.q == 0, w.si == 0, w.ss == 0, w.wt == 0, w.ws == 0] [w.d.extractLsb' 3 2 == 0] (.vcmpFeqExtended w.g (w.d.setWidth 3) w.a w.b w.fa (w.xop.getLsbD 0))
  else
  if w.l == 0 && w.f == 1 then w.accept [] [w.d.extractLsb' 3 2 == 0] (.vcmpFne w.g (w.d.setWidth 3) w.a w.b)
  else
  if w.l == 2 && w.f == 1 then w.accept [w.xop.extractLsb' 1 6 == 0, w.fc == 0, w.fb == 0, w.e == 0, w.c == 0, w.q == 0, w.si == 0, w.ss == 0, w.wt == 0, w.ws == 0] [w.d.extractLsb' 3 2 == 0] (.vcmpFneExtended w.g (w.d.setWidth 3) w.a w.b w.fa (w.xop.getLsbD 0))
  else
  if w.l == 0 && w.f == 2 then w.accept [] [w.d.extractLsb' 3 2 == 0] (.vcmpFlt w.g (w.d.setWidth 3) w.a w.b)
  else
  if w.l == 2 && w.f == 2 then w.accept [w.xop.extractLsb' 1 6 == 0, w.fc == 0, w.fb == 0, w.e == 0, w.c == 0, w.q == 0, w.si == 0, w.ss == 0, w.wt == 0, w.ws == 0] [w.d.extractLsb' 3 2 == 0] (.vcmpFltExtended w.g (w.d.setWidth 3) w.a w.b w.fa (w.xop.getLsbD 0))
  else
  if w.l == 0 && w.f == 3 then w.accept [] [w.d.extractLsb' 3 2 == 0] (.vcmpFle w.g (w.d.setWidth 3) w.a w.b)
  else
  if w.l == 2 && w.f == 3 then w.accept [w.xop.extractLsb' 1 6 == 0, w.fc == 0, w.fb == 0, w.e == 0, w.c == 0, w.q == 0, w.si == 0, w.ss == 0, w.wt == 0, w.ws == 0] [w.d.extractLsb' 3 2 == 0] (.vcmpFleExtended w.g (w.d.setWidth 3) w.a w.b w.fa (w.xop.getLsbD 0))
  else
  if w.l == 0 && w.f == 4 then w.accept [] [w.d.extractLsb' 3 2 == 0] (.vcmpFunord w.g (w.d.setWidth 3) w.a w.b)
  else
  if w.l == 2 && w.f == 4 then w.accept [w.xop.extractLsb' 1 6 == 0, w.fc == 0, w.fb == 0, w.e == 0, w.c == 0, w.q == 0, w.si == 0, w.ss == 0, w.wt == 0, w.ws == 0] [w.d.extractLsb' 3 2 == 0] (.vcmpFunordExtended w.g (w.d.setWidth 3) w.a w.b w.fa (w.xop.getLsbD 0))
  else
  if w.l == 0 && w.f == 8 then w.accept [] [w.d.extractLsb' 3 2 == 0] (.vcmpIeq w.g (w.d.setWidth 3) w.a w.b)
  else
  if w.l == 0 && w.f == 9 then w.accept [] [w.d.extractLsb' 3 2 == 0] (.vcmpIne w.g (w.d.setWidth 3) w.a w.b)
  else
  if w.l == 0 && w.f == 10 then w.accept [] [w.d.extractLsb' 3 2 == 0] (.vcmpIlt w.g (w.d.setWidth 3) w.a w.b)
  else
  if w.l == 0 && w.f == 11 then w.accept [] [w.d.extractLsb' 3 2 == 0] (.vcmpIle w.g (w.d.setWidth 3) w.a w.b)
  else
  if w.l == 0 && w.f == 12 then w.accept [] [w.d.extractLsb' 3 2 == 0] (.vcmpIltu w.g (w.d.setWidth 3) w.a w.b)
  else
  if w.l == 0 && w.f == 13 then w.accept [] [w.d.extractLsb' 3 2 == 0] (.vcmpIleu w.g (w.d.setWidth 3) w.a w.b)
  else
  .error .noSuchFunction

/-- Major 0x24: VSEL (R69). -/
def decode24 (w : Words) : Except Reject Instr :=
  if w.l == 0 then w.accept [] [] (.vsel w.g (w.f.getLsbD 3) (w.f.extractLsb' 0 3) w.d w.a w.b)
  else
  .error .noSuchFunction

/-- Major 0x25: VAND, VOR, VXOR, VSHL, VSHR, VIADD, VIMUL (R69). -/
def decode25 (w : Words) : Except Reject Instr :=
  if w.l == 0 && w.f == 0 then w.accept [] [] (.vand w.g w.d w.a w.b)
  else
  if w.l == 0 && w.f == 1 then w.accept [] [] (.vor w.g w.d w.a w.b)
  else
  if w.l == 0 && w.f == 2 then w.accept [] [] (.vxor w.g w.d w.a w.b)
  else
  if w.l == 0 && w.f == 3 then w.accept [] [] (.vshl w.g w.d w.a w.b)
  else
  if w.l == 0 && w.f == 4 then w.accept [] [] (.vshr w.g w.d w.a w.b)
  else
  if w.l == 0 && w.f == 5 then w.accept [] [] (.viadd w.g w.d w.a w.b)
  else
  if w.l == 0 && w.f == 6 then w.accept [] [] (.vimul w.g w.d w.a w.b)
  else
  .error .noSuchFunction

/-- Major 0x26: VPERM, VBCAST, VEXTR, VINS (R69). -/
def decode26 (w : Words) : Except Reject Instr :=
  if w.l == 0 && w.f == 0 then w.accept [] [] (.vperm w.g w.d w.a w.b)
  else
  if w.l == 0 && w.f == 1 then w.accept [w.b == 0] [] (.vbcast w.g w.d w.a)
  else
  if w.l == 0 && w.f == 2 then w.accept [] [] (.vextr w.g w.d w.a w.b)
  else
  if w.l == 0 && w.f == 3 then w.accept [] [] (.vins w.g w.d w.a w.b)
  else
  .error .noSuchFunction

/-- Major 0x27: VRED (R69). -/
def decode27 (w : Words) : Except Reject Instr :=
  if w.l == 0 && w.f == 0 then w.accept [w.b == 0] [] (.vredFadd w.g w.d w.a)
  else
  if w.l == 2 && w.f == 0 then w.accept [w.b == 0, w.xop == 0, w.fc == 0, w.fb == 0, w.e == 0, w.c == 0, w.q == 0, w.si == 0, w.ss == 0, w.wt == 0, w.ws == 0] [] (.vredFaddExtended w.g w.d w.a w.fa)
  else
  if w.l == 0 && w.f == 1 then w.accept [w.b == 0] [] (.vredFmin w.g w.d w.a)
  else
  if w.l == 2 && w.f == 1 then w.accept [w.b == 0, w.xop == 0, w.fc == 0, w.fb == 0, w.e == 0, w.c == 0, w.q == 0, w.si == 0, w.ss == 0, w.wt == 0, w.ws == 0] [] (.vredFminExtended w.g w.d w.a w.fa)
  else
  if w.l == 0 && w.f == 2 then w.accept [w.b == 0] [] (.vredFmax w.g w.d w.a)
  else
  if w.l == 2 && w.f == 2 then w.accept [w.b == 0, w.xop == 0, w.fc == 0, w.fb == 0, w.e == 0, w.c == 0, w.q == 0, w.si == 0, w.ss == 0, w.wt == 0, w.ws == 0] [] (.vredFmaxExtended w.g w.d w.a w.fa)
  else
  if w.l == 0 && w.f == 3 then w.accept [w.b == 0] [] (.vredIadd w.g w.d w.a)
  else
  if w.l == 0 && w.f == 4 then w.accept [w.b == 0] [] (.vredImin w.g w.d w.a)
  else
  if w.l == 0 && w.f == 5 then w.accept [w.b == 0] [] (.vredImax w.g w.d w.a)
  else
  .error .noSuchFunction

/-- Major 0x28: VDOT (R69). -/
def decode28 (w : Words) : Except Reject Instr :=
  if w.l == 0 && w.f == 0 then w.accept [] [] (.vdotS8 w.g w.d w.a w.b)
  else
  if w.l == 0 && w.f == 1 then w.accept [] [] (.vdotU8s8 w.g w.d w.a w.b)
  else
  if w.l == 0 && w.f == 2 then w.accept [] [] (.vdotF16 w.g w.d w.a w.b)
  else
  if w.l == 0 && w.f == 3 then w.accept [] [] (.vdotBf16 w.g w.d w.a w.b)
  else
  .error .noSuchFunction

/-- Major 0x29: VLD, VST (R69). -/
def decode29 (w : Words) : Except Reject Instr :=
  if w.l == 0 && w.f == 0 then w.accept [] [] (.vld w.g w.d w.a w.b)
  else
  if (w.l == 2 || w.l == 3) && w.f == 0 then w.accept [w.e.extractLsb' 3 2 == 0, w.xop == 0, w.fc == 0, w.fb == 0, w.fa == 0, w.c == 0, w.si == 0, w.ss == 0, w.wt == 0, w.ws == 0] [] (.vldExtended w.g w.d w.a w.b (w.e.extractLsb' 0 3) w.q w.litOpt)
  else
  if w.l == 0 && w.f == 1 then w.accept [] [] (.vst w.g w.d w.a w.b)
  else
  if (w.l == 2 || w.l == 3) && w.f == 1 then w.accept [w.e.extractLsb' 3 2 == 0, w.xop == 0, w.fc == 0, w.fb == 0, w.fa == 0, w.c == 0, w.si == 0, w.ss == 0, w.wt == 0, w.ws == 0] [] (.vstExtended w.g w.d w.a w.b (w.e.extractLsb' 0 3) w.q w.litOpt)
  else
  .error .noSuchFunction

/-- Major 0x2A: VGATH, VSCAT (R69). -/
def decode2A (w : Words) : Except Reject Instr :=
  if w.l == 0 && w.f == 0 then w.accept [] [] (.vgath w.g w.d w.a w.b)
  else
  if w.l == 2 && w.f == 0 then w.accept [w.e.extractLsb' 3 2 == 0, w.xop == 0, w.fc == 0, w.fb == 0, w.fa == 0, w.c == 0, w.si == 0, w.ss == 0, w.wt == 0, w.ws == 0] [] (.vgathExtended w.g w.d w.a w.b (w.e.extractLsb' 0 3) w.q)
  else
  if w.l == 0 && w.f == 1 then w.accept [] [] (.vscat w.g w.d w.a w.b)
  else
  if w.l == 2 && w.f == 1 then w.accept [w.e.extractLsb' 3 2 == 0, w.xop == 0, w.fc == 0, w.fb == 0, w.fa == 0, w.c == 0, w.si == 0, w.ss == 0, w.wt == 0, w.ws == 0] [] (.vscatExtended w.g w.d w.a w.b (w.e.extractLsb' 0 3) w.q)
  else
  .error .noSuchFunction

/-- Major 0x2B: VALLOC, VFREE (R69). -/
def decode2B (w : Words) : Except Reject Instr :=
  if w.l == 0 && w.f == 0 then w.accept [w.b == 0] [] (.valloc w.g w.d w.a)
  else
  if w.l == 0 && w.f == 1 then w.accept [w.d == 0, w.b == 0] [] (.vfree w.g w.a)
  else
  .error .noSuchFunction

/-- Major 0x30: TCFG, TCFGR, TZERO, TMOV, TCONJ, TXP, TNORM (R69). -/
def decode30 (w : Words) : Except Reject Instr :=
  if w.l == 0 && w.f == 0 then w.accept [w.b == 0] [w.d.extractLsb' 4 1 == 0] (.tcfg w.g (w.d.setWidth 4) w.a)
  else
  if w.l == 0 && w.f == 1 then w.accept [w.b == 0] [w.a.extractLsb' 4 1 == 0] (.tcfgr w.g w.d (w.a.setWidth 4))
  else
  if w.l == 0 && w.f == 2 then w.accept [w.a == 0, w.b == 0] [w.d.extractLsb' 4 1 == 0] (.tzero w.g (w.d.setWidth 4))
  else
  if w.l == 0 && w.f == 3 then w.accept [w.b == 0] [w.d.extractLsb' 4 1 == 0, w.a.extractLsb' 4 1 == 0] (.tmov w.g (w.d.setWidth 4) (w.a.setWidth 4))
  else
  if w.l == 0 && w.f == 4 then w.accept [w.b == 0] [w.d.extractLsb' 4 1 == 0, w.a.extractLsb' 4 1 == 0] (.tconj w.g (w.d.setWidth 4) (w.a.setWidth 4))
  else
  if w.l == 0 && w.f == 5 then w.accept [w.b == 0] [w.d.extractLsb' 4 1 == 0, w.a.extractLsb' 4 1 == 0] (.txp w.g (w.d.setWidth 4) (w.a.setWidth 4))
  else
  if w.l == 0 && w.f == 6 then w.accept [w.b == 0] [w.d.extractLsb' 4 1 == 0, w.a.extractLsb' 4 1 == 0] (.tnorm w.g (w.d.setWidth 4) (w.a.setWidth 4))
  else
  .error .noSuchFunction

/-- Major 0x31: TLD, TST (R69). -/
def decode31 (w : Words) : Except Reject Instr :=
  if w.l == 0 && w.f == 0 then w.accept [] [w.d.extractLsb' 4 1 == 0] (.tld w.g (w.d.setWidth 4) w.a w.b)
  else
  if (w.l == 2 || w.l == 3) && w.f == 0 then w.accept [w.e.extractLsb' 3 2 == 0, w.xop.extractLsb' 1 6 == 0, w.fc == 0, w.fb == 0, w.fa == 0, w.c == 0, w.q == 0, w.si == 0, w.ss == 0, w.wt == 0, w.ws == 0] [w.d.extractLsb' 4 1 == 0] (.tldExtended w.g (w.d.setWidth 4) w.a w.b (w.e.extractLsb' 0 3) (w.xop.getLsbD 0) w.litOpt)
  else
  if w.l == 0 && w.f == 1 then w.accept [] [w.d.extractLsb' 4 1 == 0] (.tst w.g (w.d.setWidth 4) w.a w.b)
  else
  if (w.l == 2 || w.l == 3) && w.f == 1 then w.accept [w.e.extractLsb' 3 2 == 0, w.xop.extractLsb' 1 6 == 0, w.fc == 0, w.fb == 0, w.fa == 0, w.c == 0, w.q == 0, w.si == 0, w.ss == 0, w.wt == 0, w.ws == 0] [w.d.extractLsb' 4 1 == 0] (.tstExtended w.g (w.d.setWidth 4) w.a w.b (w.e.extractLsb' 0 3) (w.xop.getLsbD 0) w.litOpt)
  else
  .error .noSuchFunction

/-- Major 0x32: MMA (R69). -/
def decode32 (w : Words) : Except Reject Instr :=
  if w.l == 0 && w.f.extractLsb' 3 1 == 0 then w.accept [] [w.d.extractLsb' 4 1 == 0, w.a.extractLsb' 4 1 == 0, w.b.extractLsb' 4 1 == 0] (.mma w.g (w.f.getLsbD 2) (w.f.getLsbD 1) (w.f.getLsbD 0) (w.d.setWidth 4) (w.a.setWidth 4) (w.b.setWidth 4))
  else
  if w.l == 2 && w.f.extractLsb' 3 1 == 0 then w.accept [w.e == 4, w.xop == 0, w.fc == 0, w.fb == 0, w.fa == 0, w.q == 0, w.si == 0, w.ss == 0, w.wt == 0, w.ws == 0] [w.d.extractLsb' 4 1 == 0, w.a.extractLsb' 4 1 == 0, w.b.extractLsb' 4 1 == 0] (.mmaCbuf w.g (w.f.getLsbD 2) (w.f.getLsbD 1) (w.f.getLsbD 0) (w.d.setWidth 4) (w.a.setWidth 4) (w.b.setWidth 4) w.c)
  else
  .error .noSuchFunction

/-- Major 0x33: TSCA, QNT, DQNT (R69). -/
def decode33 (w : Words) : Except Reject Instr :=
  if w.l == 0 && w.f == 0 then w.accept [] [w.d.extractLsb' 4 1 == 0, w.a.extractLsb' 4 1 == 0, w.b.extractLsb' 4 1 == 0] (.tsca w.g (w.d.setWidth 4) (w.a.setWidth 4) (w.b.setWidth 4))
  else
  if w.l == 0 && w.f == 1 then w.accept [] [w.d.extractLsb' 4 1 == 0, w.a.extractLsb' 4 1 == 0, w.b.extractLsb' 4 1 == 0] (.qnt w.g (w.d.setWidth 4) (w.a.setWidth 4) (w.b.setWidth 4))
  else
  if w.l == 0 && w.f == 2 then w.accept [] [w.d.extractLsb' 4 1 == 0, w.a.extractLsb' 4 1 == 0, w.b.extractLsb' 4 1 == 0] (.dqnt w.g (w.d.setWidth 4) (w.a.setWidth 4) (w.b.setWidth 4))
  else
  .error .noSuchFunction

/-- Major 0x34: TALG (R69). -/
def decode34 (w : Words) : Except Reject Instr :=
  if w.l == 0 && w.f == 0 then w.accept [w.b == 0] [w.d.extractLsb' 3 2 == 0] (.talg w.g (w.d.setWidth 3) w.a)
  else
  .error .noSuchFunction

/-- Major 0x38: BOXV, TRIX, SPLT, VOLSEG (R69). -/
noncomputable def decode38 (w : Words) : Except Reject Instr :=
  if w.l == 0 && w.f == 0 then w.accept [] [] (.boxv w.g w.d w.a w.b)
  else
  if w.l == 2 && w.f == 0 then w.accept [w.e.extractLsb' 3 2 == 0, w.xop == 0, w.fc == 0, w.fb == 0, w.fa == 0, w.c == 0, w.q == 0, w.si == 0, w.ss == 0, w.wt == 0, w.ws == 0] [] (.boxvExtended w.g w.d w.a w.b (w.e.extractLsb' 0 3))
  else
  if w.l == 0 && w.f == 1 then w.accept [] [] (.trix w.g w.d w.a w.b)
  else
  if w.l == 2 && w.f == 1 then w.accept [w.e.extractLsb' 3 2 == 0, w.xop == 0, w.fc == 0, w.fb == 0, w.fa == 0, w.c == 0, w.q == 0, w.si == 0, w.ss == 0, w.wt == 0, w.ws == 0] [] (.trixExtended w.g w.d w.a w.b (w.e.extractLsb' 0 3))
  else
  if w.l == 0 && w.f == 2 then w.accept [] [] (.splt w.g w.d w.a w.b)
  else
  if w.l == 2 && w.f == 2 then w.accept [w.e.extractLsb' 3 2 == 0, w.xop == 0, w.fc == 0, w.fb == 0, w.fa == 0, w.c == 0, w.q == 0, w.si == 0, w.ss == 0, w.wt == 0, w.ws == 0] [] (.spltExtended w.g w.d w.a w.b (w.e.extractLsb' 0 3))
  else
  if w.l == 0 && w.f == 3 then w.accept [] [] (.volseg w.g w.d w.a w.b)
  else
  if w.l == 2 && w.f == 3 then w.accept [w.e.extractLsb' 3 2 == 0, w.xop == 0, w.fc == 0, w.fb == 0, w.fa == 0, w.c == 0, w.q == 0, w.si == 0, w.ss == 0, w.wt == 0, w.ws == 0] [] (.volsegExtended w.g w.d w.a w.b (w.e.extractLsb' 0 3))
  else
  .error .noSuchFunction

/-- Major 0x39: IVMAKE, IVINS, IVGET, IVQRY, IVCUT, IVCLR, IVCOMP, IVCFG (R69). -/
noncomputable def decode39 (w : Words) : Except Reject Instr :=
  if w.l == 0 && w.f == 0 then w.accept [] [] (.ivmake w.g w.d w.a w.b)
  else
  if w.l == 0 && w.f == 1 then w.accept [w.d == 0, w.b == 0] [] (.ivins w.g w.a)
  else
  if w.l == 0 && w.f == 2 then w.accept [w.b == 0] [] (.ivget w.g w.d w.a)
  else
  if w.l == 0 && w.f == 3 then w.accept [w.a == 0] [w.b.extractLsb' 3 2 == 0] (.ivqry w.g w.d (w.b.setWidth 3))
  else
  if w.l == 0 && w.f == 4 then w.accept [w.d == 0, w.b == 0] [] (.ivcut w.g w.a)
  else
  if w.l == 0 && w.f == 5 then w.accept [w.d == 0, w.a == 0, w.b == 0] [] (.ivclr w.g)
  else
  if w.l == 0 && w.f == 6 then w.accept [w.a == 0, w.b == 0] [] (.ivcomp w.g w.d)
  else
  if w.l == 0 && w.f == 7 then w.accept [w.d == 0, w.b == 0] [] (.ivcfg w.g w.a)
  else
  .error .noSuchFunction

/-- Major 0x40: RECVW, MIGR, SPAWN, CDEC, HINTSUCC, WAITPRED (R69). -/
noncomputable def decode40 (w : Words) : Except Reject Instr :=
  if w.l == 0 && w.f == 0 then w.accept [w.a == 0, w.b == 0] [] (.recvw w.g w.d)
  else
  if w.l == 0 && w.f == 1 then w.accept [w.d == 0, w.b == 0] [] (.migr w.g w.a)
  else
  if w.l == 0 && w.f == 2 then w.accept [] [w.d.extractLsb' 3 2 == 0] (.spawn w.g (w.d.setWidth 3) w.a w.b)
  else
  if w.l == 0 && w.f == 3 then w.accept [w.d == 0, w.b == 0] [] (.cdec w.g w.a)
  else
  if w.l == 0 && w.f == 4 then w.accept [w.d == 0, w.a == 0, w.b == 0] [] (.hintsucc w.g)
  else
  if w.l == 0 && w.f == 5 then w.accept [w.d == 0, w.a == 0, w.b == 0] [] (.waitpred w.g)
  else
  .error .noSuchFunction

/-- Major 0x41: ENQ, DEQ (R69). -/
noncomputable def decode41 (w : Words) : Except Reject Instr :=
  if w.l == 0 && w.f == 0 then w.accept [w.d == 0] [] (.enq w.g w.a w.b)
  else
  if w.l == 0 && w.f == 1 then w.accept [w.b == 0] [] (.deq w.g w.d w.a)
  else
  .error .noSuchFunction

/-- Major 0x42: TASKGET (R69). -/
noncomputable def decode42 (w : Words) : Except Reject Instr :=
  if w.l == 0 && w.f == 0 then w.accept [w.a == 0, w.b == 0] [] (.taskget w.g w.d)
  else
  .error .noSuchFunction

/-- Major 0x43: BAR (R69). -/
noncomputable def decode43 (w : Words) : Except Reject Instr :=
  if w.l == 0 && w.f == 0 then w.accept [w.d == 0, w.a == 0, w.b == 0] [] (.bar w.g)
  else
  .error .noSuchFunction

/-- Major 0x44: SEMW, SEMS (R69). -/
noncomputable def decode44 (w : Words) : Except Reject Instr :=
  if w.l == 0 && w.f == 0 then w.accept [w.d == 0] [] (.semw w.g w.a w.b)
  else
  if w.l == 0 && w.f == 1 then w.accept [w.d == 0] [] (.sems w.g w.a w.b)
  else
  .error .noSuchFunction

/-- Major 0x45: COPY (R69). -/
noncomputable def decode45 (w : Words) : Except Reject Instr :=
  if (w.l == 2 || w.l == 3) && w.f == 0 then w.accept [w.engineReserved == 0] [] (.copy w.g w.d w.a w.b w.engine w.litOpt)
  else
  .error .noSuchFunction

/-- Major 0x46: GETX (R69). -/
noncomputable def decode46 (w : Words) : Except Reject Instr :=
  if (w.l == 2 || w.l == 3) && w.f == 0 then w.accept [w.engineReserved == 0] [] (.getx w.g w.d w.a w.b w.engine w.litOpt)
  else
  .error .noSuchFunction

/-- Major 0x47: PUTX (R69). -/
noncomputable def decode47 (w : Words) : Except Reject Instr :=
  if w.l == 2 && w.f == 0 then w.accept [w.engineReserved == 0] [] (.putx w.g w.d w.a w.b w.engine)
  else
  .error .noSuchFunction

/-- Major 0x48: COLL (R69). -/
noncomputable def decode48 (w : Words) : Except Reject Instr :=
  if w.l == 2 && w.f == 0 then w.accept [w.d == 0, w.b == 0, w.engineReserved == 0] [] (.coll w.g w.a w.engine)
  else
  .error .noSuchFunction

/-- Major 0x49: TAGW, TAGF (R69). -/
noncomputable def decode49 (w : Words) : Except Reject Instr :=
  if w.l == 0 && w.f == 0 then w.accept [w.d == 0, w.b == 0] [] (.tagwAll w.g w.a)
  else
  if w.l == 1 && w.f == 0 then w.accept [w.d == 0, w.a == 0, w.b == 0] [] (.tagwAllLiteral w.g w.lit1)
  else
  if w.l == 0 && w.f == 1 then w.accept [w.d == 0, w.b == 0] [] (.tagwAny w.g w.a)
  else
  if w.l == 1 && w.f == 1 then w.accept [w.d == 0, w.a == 0, w.b == 0] [] (.tagwAnyLiteral w.g w.lit1)
  else
  if w.l == 0 && w.f == 2 then w.accept [w.a == 0, w.b == 0] [] (.tagf w.g w.d)
  else
  .error .noSuchFunction

/-- Major 0x4A: XREQ (R69). -/
noncomputable def decode4A (w : Words) : Except Reject Instr :=
  if w.l == 0 && w.f == 0 then w.accept [] [w.d.extractLsb' 3 2 == 0] (.xreqLayout w.g (w.d.setWidth 3) w.a w.b)
  else
  if w.l == 0 && w.f == 1 then w.accept [] [w.d.extractLsb' 3 2 == 0] (.xreqQuant w.g (w.d.setWidth 3) w.a w.b)
  else
  if w.l == 0 && w.f == 2 then w.accept [] [w.d.extractLsb' 3 2 == 0] (.xreqCksum w.g (w.d.setWidth 3) w.a w.b)
  else
  .error .noSuchFunction

/-- Major 0x50: TRAP, ERET (R69). -/
noncomputable def decode50 (w : Words) : Except Reject Instr :=
  if w.l == 0 && w.f == 0 then w.accept [w.d == 0, w.a == 0] [] (.trap w.g w.b)
  else
  if w.l == 0 && w.f == 1 then w.accept [w.d == 0, w.a == 0, w.b == 0] [] (.eret w.g)
  else
  .error .noSuchFunction

/-- Major 0x51: SYSR (R69). -/
noncomputable def decode51 (w : Words) : Except Reject Instr :=
  if w.l == 0 then w.accept [w.a == 0, w.imm.extractLsb' 8 5 == 0] [] (.sysr w.d (w.imm.extractLsb' 0 8))
  else
  .error .noSuchFunction

/-- Major 0x52: SYSW (R69). -/
noncomputable def decode52 (w : Words) : Except Reject Instr :=
  if w.l == 0 then w.accept [w.d == 0, w.imm.extractLsb' 8 5 == 0] [] (.sysw w.a (w.imm.extractLsb' 0 8))
  else
  .error .noSuchFunction

/-- Major 0x53: STAB (R69). -/
noncomputable def decode53 (w : Words) : Except Reject Instr :=
  if w.l == 0 && w.f == 0 then w.accept [w.d == 0] [] (.stab w.g w.a w.b)
  else
  .error .noSuchFunction

/-- Major 0x54: TLBI (R69). -/
noncomputable def decode54 (w : Words) : Except Reject Instr :=
  if w.l == 0 && w.f == 0 then w.accept [w.d == 0, w.b == 0] [] (.tlbi w.g w.a)
  else
  if w.l == 0 && w.f == 1 then w.accept [w.d == 0, w.a == 0, w.b == 0] [] (.tlbiAll w.g)
  else
  .error .noSuchFunction

/-- Major 0x55: PREEMPT, CTXSAVE, CTXLOAD (R69). -/
noncomputable def decode55 (w : Words) : Except Reject Instr :=
  if w.l == 0 && w.f == 0 then w.accept [w.d == 0, w.b == 0] [] (.preempt w.g w.a)
  else
  if w.l == 0 && w.f == 1 then w.accept [w.d == 0, w.b == 0] [] (.ctxsave w.g w.a)
  else
  if w.l == 0 && w.f == 2 then w.accept [w.d == 0, w.b == 0] [] (.ctxload w.g w.a)
  else
  .error .noSuchFunction

/-- The instruction of a complete word list whose first word has passed `headCheck` (R69). -/
noncomputable def decodeMajor (w : Words) : Except Reject Instr :=
  match w.op.toNat with
  | 0x00 => decode00 w
  | 0x01 => decode01 w
  | 0x02 => decode02 w
  | 0x03 => decode03 w
  | 0x04 => decode04 w
  | 0x05 => decode05 w
  | 0x06 => decode06 w
  | 0x07 => decode07 w
  | 0x08 => decode08 w
  | 0x09 => decode09 w
  | 0x0A => decode0A w
  | 0x0B => decode0B w
  | 0x0C => decode0C w
  | 0x0D => decode0D w
  | 0x0E => decode0E w
  | 0x0F => decode0F w
  | 0x10 => decode10 w
  | 0x11 => decode11 w
  | 0x12 => decode12 w
  | 0x13 => decode13 w
  | 0x14 => decode14 w
  | 0x15 => decode15 w
  | 0x16 => decode16 w
  | 0x17 => decode17 w
  | 0x18 => decode18 w
  | 0x19 => decode19 w
  | 0x1A => decode1A w
  | 0x1B => decode1B w
  | 0x1C => decode1C w
  | 0x1D => decode1D w
  | 0x20 => decode20 w
  | 0x21 => decode21 w
  | 0x22 => decode22 w
  | 0x23 => decode23 w
  | 0x24 => decode24 w
  | 0x25 => decode25 w
  | 0x26 => decode26 w
  | 0x27 => decode27 w
  | 0x28 => decode28 w
  | 0x29 => decode29 w
  | 0x2A => decode2A w
  | 0x2B => decode2B w
  | 0x30 => decode30 w
  | 0x31 => decode31 w
  | 0x32 => decode32 w
  | 0x33 => decode33 w
  | 0x34 => decode34 w
  | 0x38 => decode38 w
  | 0x39 => decode39 w
  | 0x40 => decode40 w
  | 0x41 => decode41 w
  | 0x42 => decode42 w
  | 0x43 => decode43 w
  | 0x44 => decode44 w
  | 0x45 => decode45 w
  | 0x46 => decode46 w
  | 0x47 => decode47 w
  | 0x48 => decode48 w
  | 0x49 => decode49 w
  | 0x4A => decode4A w
  | 0x50 => decode50 w
  | 0x51 => decode51 w
  | 0x52 => decode52 w
  | 0x53 => decode53 w
  | 0x54 => decode54 w
  | 0x55 => decode55 w
  | _ => .error .noSuchOpcode

/-- Decode the words of one instruction (R72: first word 0's L, OP and F, then every other field). -/
noncomputable def decodeWords (w : Words) : Except Reject Instr :=
  match headCheck w.w0 with
  | some r => .error r
  | none => decodeMajor w

/-- The words of an instruction from a word list: exactly as many as the first announces (R59). -/
def Words.ofList : List (BitVec 32) → Option (Words × List (BitVec 32))
  | [] => none
  | w0 :: rest =>
    match wordCount w0, rest with
    | 1, r => some (⟨w0, 0, 0, 0, 0⟩, r)
    | 3, w1 :: w2 :: r => some (⟨w0, w1, w2, 0, 0⟩, r)
    | 5, w1 :: w2 :: w3 :: w4 :: r => some (⟨w0, w1, w2, w3, w4⟩, r)
    | _, _ => none

/-- Decode the first instruction of a word list and return the rest. -/
noncomputable def decodeList (ws : List (BitVec 32)) : Except Reject (Instr × List (BitVec 32)) :=
  match Words.ofList ws with
  | none => .error .tooShort
  | some (w, rest) =>
    match decodeWords w with
    | .ok i => .ok (i, rest)
    | .error r => .error r

/-- The 32-bit words of a byte list, little-endian (R5, R59); a trailing part word is dropped. -/
def wordsOfBytes : List (BitVec 8) → List (BitVec 32)
  | b0 :: b1 :: b2 :: b3 :: r => (b3 ++ b2 ++ b1 ++ b0) :: wordsOfBytes r
  | _ => []

/-- The bytes of a word, lowest address first (R5). -/
def wordBytes (w : BitVec 32) : List (BitVec 8) :=
  [w.extractLsb' 0 8, w.extractLsb' 8 8, w.extractLsb' 16 8, w.extractLsb' 24 8]

/-- Decode the first instruction of a byte list. -/
noncomputable def decodeBytes (bs : List (BitVec 8)) : Except Reject (Instr × List (BitVec 32)) := decodeList (wordsOfBytes bs)

/-- One bit as a field. -/
def bit (b : Bool) : BitVec 1 := BitVec.ofBool b

/-- The R-form base word (R61, Table 3-2). -/
def packR (l : BitVec 2) (op : BitVec 7) (d a b : BitVec 5) (g : Guard) (f : BitVec 4) : BitVec 32 :=
  f ++ bit g.n ++ g.p ++ b ++ a ++ d ++ op ++ l

/-- The I-form base word (R62, Table 3-3). -/
def packI (l : BitVec 2) (op : BitVec 7) (d a : BitVec 5) (imm : BitVec 13) : BitVec 32 :=
  imm ++ a ++ d ++ op ++ l

/-- The B-form base word (R63, Table 3-4). -/
def packB (l : BitVec 2) (op : BitVec 7) (lo : BitVec 15) (g : Guard) (hi : BitVec 4) : BitVec 32 :=
  hi ++ bit g.n ++ g.p ++ lo ++ op ++ l

/-- Extension word 1 (R64, Table 3-5). -/
def packExt1 (xop : BitVec 7) (fc fb fa e c : BitVec 5) : BitVec 32 := xop ++ fc ++ fb ++ fa ++ e ++ c

/-- Extension word 2 (R64, Table 3-5). -/
def packExt2 (q si : BitVec 4) (ss wt ws : BitVec 8) : BitVec 32 := q ++ si ++ ss ++ wt ++ ws

/-- Extension word 1 of an engine command (R65, Table 3-6). -/
def packEng (e : EngineWords) : BitVec 32 :=
  0#1 ++ bit e.te ++ bit e.conv ++ bit e.z ++ 0#5 ++ e.ssp ++ e.fb ++ e.fa ++ 0#1 ++ e.dsp ++ e.tag

/-- The two words of a literal (Table 3-1). -/
def litWords (lit : BitVec 64) : List (BitVec 32) := [lit.extractLsb' 0 32, lit.extractLsb' 32 32]

/-- The literal words of an extended form that may carry a displacement. -/
def litWordsOpt : Option (BitVec 64) → List (BitVec 32)
  | none => []
  | some l => litWords l

/-- L of an extended form: 10 without a literal, 11 with one (Table 3-1). -/
def lenBits : Option (BitVec 64) → BitVec 2
  | none => 2
  | some _ => 3


/-- The words of an instruction, in memory order, from Tables 3-2 to 3-6 and 3-10 to 3-16; event rows have none. -/
def encode : Instr → List (BitVec 32)
  | .nop g => [packR 0 0x00 0 0 0 g 0#4]
  | .yield g => [packR 0 0x00 0 0 0 g 1#4]
  | .halt g => [packR 0 0x00 0 0 0 g 2#4]
  | .movhFromShared g d a => [packR 0 0x00 d (a.setWidth 5) 0 g 3#4]
  | .movhToShared g d a => [packR 0 0x00 (d.setWidth 5) a 0 g 4#4]
  | .rng g d a b => [packR 0 0x00 d a b g 5#4]
  | .jmpx g a => [packR 0 0x00 0 a 0 g 6#4]
  | .ret g => [packR 0 0x00 0 0 0 g 7#4]
  | .add g d a b => [packR 0 0x01 d a b g 0#4]
  | .addLiteral g d a lit => packR 1 0x01 d a 0 g 0#4 :: litWords lit
  | .sub g d a b => [packR 0 0x01 d a b g 1#4]
  | .subLiteral g d a lit => packR 1 0x01 d a 0 g 1#4 :: litWords lit
  | .mul g d a b => [packR 0 0x01 d a b g 2#4]
  | .mulLiteral g d a lit => packR 1 0x01 d a 0 g 2#4 :: litWords lit
  | .mulh g d a b => [packR 0 0x01 d a b g 3#4]
  | .mulhLiteral g d a lit => packR 1 0x01 d a 0 g 3#4 :: litWords lit
  | .div g d a b => [packR 0 0x01 d a b g 4#4]
  | .divLiteral g d a lit => packR 1 0x01 d a 0 g 4#4 :: litWords lit
  | .rem g d a b => [packR 0 0x01 d a b g 5#4]
  | .remLiteral g d a lit => packR 1 0x01 d a 0 g 5#4 :: litWords lit
  | .and g d a b => [packR 0 0x01 d a b g 6#4]
  | .andLiteral g d a lit => packR 1 0x01 d a 0 g 6#4 :: litWords lit
  | .or g d a b => [packR 0 0x01 d a b g 7#4]
  | .orLiteral g d a lit => packR 1 0x01 d a 0 g 7#4 :: litWords lit
  | .xor g d a b => [packR 0 0x01 d a b g 8#4]
  | .xorLiteral g d a lit => packR 1 0x01 d a 0 g 8#4 :: litWords lit
  | .andn g d a b => [packR 0 0x01 d a b g 9#4]
  | .andnLiteral g d a lit => packR 1 0x01 d a 0 g 9#4 :: litWords lit
  | .min g d a b => [packR 0 0x01 d a b g 10#4]
  | .minLiteral g d a lit => packR 1 0x01 d a 0 g 10#4 :: litWords lit
  | .max g d a b => [packR 0 0x01 d a b g 11#4]
  | .maxLiteral g d a lit => packR 1 0x01 d a 0 g 11#4 :: litWords lit
  | .addW g d a b => [packR 0 0x02 d a b g 0#4]
  | .addWLiteral g d a lit => packR 1 0x02 d a 0 g 0#4 :: litWords lit
  | .subW g d a b => [packR 0 0x02 d a b g 1#4]
  | .subWLiteral g d a lit => packR 1 0x02 d a 0 g 1#4 :: litWords lit
  | .mulW g d a b => [packR 0 0x02 d a b g 2#4]
  | .mulWLiteral g d a lit => packR 1 0x02 d a 0 g 2#4 :: litWords lit
  | .mulhW g d a b => [packR 0 0x02 d a b g 3#4]
  | .mulhWLiteral g d a lit => packR 1 0x02 d a 0 g 3#4 :: litWords lit
  | .divW g d a b => [packR 0 0x02 d a b g 4#4]
  | .divWLiteral g d a lit => packR 1 0x02 d a 0 g 4#4 :: litWords lit
  | .remW g d a b => [packR 0 0x02 d a b g 5#4]
  | .remWLiteral g d a lit => packR 1 0x02 d a 0 g 5#4 :: litWords lit
  | .andW g d a b => [packR 0 0x02 d a b g 6#4]
  | .andWLiteral g d a lit => packR 1 0x02 d a 0 g 6#4 :: litWords lit
  | .orW g d a b => [packR 0 0x02 d a b g 7#4]
  | .orWLiteral g d a lit => packR 1 0x02 d a 0 g 7#4 :: litWords lit
  | .xorW g d a b => [packR 0 0x02 d a b g 8#4]
  | .xorWLiteral g d a lit => packR 1 0x02 d a 0 g 8#4 :: litWords lit
  | .andnW g d a b => [packR 0 0x02 d a b g 9#4]
  | .andnWLiteral g d a lit => packR 1 0x02 d a 0 g 9#4 :: litWords lit
  | .minW g d a b => [packR 0 0x02 d a b g 10#4]
  | .minWLiteral g d a lit => packR 1 0x02 d a 0 g 10#4 :: litWords lit
  | .maxW g d a b => [packR 0 0x02 d a b g 11#4]
  | .maxWLiteral g d a lit => packR 1 0x02 d a 0 g 11#4 :: litWords lit
  | .shl g w d a b => [packR 0 0x03 d a b g (bit w ++ 0#3)]
  | .shlLiteral g w d a lit => packR 1 0x03 d a 0 g (bit w ++ 0#3) :: litWords lit
  | .shr g w d a b => [packR 0 0x03 d a b g (bit w ++ 1#3)]
  | .shrLiteral g w d a lit => packR 1 0x03 d a 0 g (bit w ++ 1#3) :: litWords lit
  | .sar g w d a b => [packR 0 0x03 d a b g (bit w ++ 2#3)]
  | .sarLiteral g w d a lit => packR 1 0x03 d a 0 g (bit w ++ 2#3) :: litWords lit
  | .rol g w d a b => [packR 0 0x03 d a b g (bit w ++ 3#3)]
  | .rolLiteral g w d a lit => packR 1 0x03 d a 0 g (bit w ++ 3#3) :: litWords lit
  | .clz g w d a => [packR 0 0x03 d a 0 g (bit w ++ 4#3)]
  | .ctz g w d a => [packR 0 0x03 d a 0 g (bit w ++ 5#3)]
  | .popc g w d a => [packR 0 0x03 d a 0 g (bit w ++ 6#3)]
  | .brev g w d a => [packR 0 0x03 d a 0 g (bit w ++ 7#3)]
  | .addi d a imm => [packI 0 0x04 d a imm]
  | .addiLiteral d a lit => packI 1 0x04 d a 0 :: litWords lit
  | .movi d imm => [packI 0 0x05 d 0 imm]
  | .moviLiteral d lit => packI 1 0x05 d 0 0 :: litWords lit
  | .lea g sc d a b => [packR 0 0x06 d a b g (0#2 ++ sc)]
  | .leaLiteral g sc d a b lit => packR 1 0x06 d a b g (0#2 ++ sc) :: litWords lit
  | .ext d a pos len => [packI 0 0x07 d a (0#1 ++ pos ++ len)]
  | .ins d a pos len => [packI 0 0x07 d a (1#1 ++ pos ++ len)]
  | .cmpEq g w d a b => [packR 0 0x08 (d.setWidth 5) a b g (bit w ++ 0#3)]
  | .cmpEqLiteral g w d a lit => packR 1 0x08 (d.setWidth 5) a 0 g (bit w ++ 0#3) :: litWords lit
  | .cmpNe g w d a b => [packR 0 0x08 (d.setWidth 5) a b g (bit w ++ 1#3)]
  | .cmpNeLiteral g w d a lit => packR 1 0x08 (d.setWidth 5) a 0 g (bit w ++ 1#3) :: litWords lit
  | .cmpLt g w d a b => [packR 0 0x08 (d.setWidth 5) a b g (bit w ++ 2#3)]
  | .cmpLtLiteral g w d a lit => packR 1 0x08 (d.setWidth 5) a 0 g (bit w ++ 2#3) :: litWords lit
  | .cmpGe g w d a b => [packR 0 0x08 (d.setWidth 5) a b g (bit w ++ 3#3)]
  | .cmpGeLiteral g w d a lit => packR 1 0x08 (d.setWidth 5) a 0 g (bit w ++ 3#3) :: litWords lit
  | .cmpLtu g w d a b => [packR 0 0x08 (d.setWidth 5) a b g (bit w ++ 4#3)]
  | .cmpLtuLiteral g w d a lit => packR 1 0x08 (d.setWidth 5) a 0 g (bit w ++ 4#3) :: litWords lit
  | .cmpGeu g w d a b => [packR 0 0x08 (d.setWidth 5) a b g (bit w ++ 5#3)]
  | .cmpGeuLiteral g w d a lit => packR 1 0x08 (d.setWidth 5) a 0 g (bit w ++ 5#3) :: litWords lit
  | .plogAnd g d a b => [packR 0 0x09 (d.setWidth 5) (a.setWidth 5) (b.setWidth 5) g 0#4]
  | .plogOr g d a b => [packR 0 0x09 (d.setWidth 5) (a.setWidth 5) (b.setWidth 5) g 1#4]
  | .plogXor g d a b => [packR 0 0x09 (d.setWidth 5) (a.setWidth 5) (b.setWidth 5) g 2#4]
  | .plogAndn g d a b => [packR 0 0x09 (d.setWidth 5) (a.setWidth 5) (b.setWidth 5) g 3#4]
  | .plogOrn g d a b => [packR 0 0x09 (d.setWidth 5) (a.setWidth 5) (b.setWidth 5) g 4#4]
  | .plogNand g d a b => [packR 0 0x09 (d.setWidth 5) (a.setWidth 5) (b.setWidth 5) g 5#4]
  | .plogNor g d a b => [packR 0 0x09 (d.setWidth 5) (a.setWidth 5) (b.setWidth 5) g 6#4]
  | .plogXnor g d a b => [packR 0 0x09 (d.setWidth 5) (a.setWidth 5) (b.setWidth 5) g 7#4]
  | .sel g inv sel d a b => [packR 0 0x0A d a b g (bit inv ++ sel)]
  | .br g off => [packB 0 0x0B (off.extractLsb' 0 15) g (off.extractLsb' 15 4)]
  | .call g k off => [packB 0 0x0C off g k]
  | .callLiteral g k lit => packB 1 0x0C 0 g k :: litWords lit
  | .jmp g lit => packB 1 0x0D 0 g 0 :: litWords lit
  | .callx g k a => [packR 0 0x0E 0 a 0 g k]
  | .loop d imm => [packI 0 0x0F d 0 imm]
  | .ldD d a imm => [packI 0 0x10 d a imm]
  | .ldDLiteral d a lit => packI 1 0x10 d a 0 :: litWords lit
  | .ldW d a imm => [packI 0 0x11 d a imm]
  | .ldWLiteral d a lit => packI 1 0x11 d a 0 :: litWords lit
  | .stD d a imm => [packI 0 0x12 d a imm]
  | .stDLiteral d a lit => packI 1 0x12 d a 0 :: litWords lit
  | .stW d a imm => [packI 0 0x13 d a imm]
  | .stWLiteral d a lit => packI 1 0x13 d a 0 :: litWords lit
  | .ldIndexed g dw d a b => [packR 0 0x14 d a b g (0#1 ++ bit dw ++ 0#2)]
  | .ldExtended g dw d a b sp q disp => packR (lenBits disp) 0x14 d a b g (0#1 ++ bit dw ++ 0#2) :: ([packExt1 0 0 0 0 (0#2 ++ sp) 0, packExt2 q 0 0 0 0] ++ litWordsOpt disp)
  | .stIndexed g dw d a b => [packR 0 0x14 d a b g (1#1 ++ bit dw ++ 0#2)]
  | .stExtended g dw d a b sp q disp => packR (lenBits disp) 0x14 d a b g (1#1 ++ bit dw ++ 0#2) :: ([packExt1 0 0 0 0 (0#2 ++ sp) 0, packExt2 q 0 0 0 0] ++ litWordsOpt disp)
  | .lr g dw d a => [packR 0 0x15 d a 0 g (0#3 ++ bit dw)]
  | .lrExtended g dw d a q => packR 2 0x15 d a 0 g (0#3 ++ bit dw) :: [packExt1 0 0 0 0 0 0, packExt2 q 0 0 0 0]
  | .sc g dw d a b => [packR 0 0x15 d a b g (1#3 ++ bit dw)]
  | .scExtended g dw d a b q => packR 2 0x15 d a b g (1#3 ++ bit dw) :: [packExt1 0 0 0 0 0 0, packExt2 q 0 0 0 0]
  | .amoAdd g dw d a b => [packR 0 0x16 d a b g (bit dw ++ 0#3)]
  | .amoAddExtended g dw d a b sp q => packR 2 0x16 d a b g (bit dw ++ 0#3) :: [packExt1 0 0 0 0 (0#2 ++ sp) 0, packExt2 q 0 0 0 0]
  | .amoAnd g dw d a b => [packR 0 0x16 d a b g (bit dw ++ 1#3)]
  | .amoAndExtended g dw d a b sp q => packR 2 0x16 d a b g (bit dw ++ 1#3) :: [packExt1 0 0 0 0 (0#2 ++ sp) 0, packExt2 q 0 0 0 0]
  | .amoOr g dw d a b => [packR 0 0x16 d a b g (bit dw ++ 2#3)]
  | .amoOrExtended g dw d a b sp q => packR 2 0x16 d a b g (bit dw ++ 2#3) :: [packExt1 0 0 0 0 (0#2 ++ sp) 0, packExt2 q 0 0 0 0]
  | .amoXor g dw d a b => [packR 0 0x16 d a b g (bit dw ++ 3#3)]
  | .amoXorExtended g dw d a b sp q => packR 2 0x16 d a b g (bit dw ++ 3#3) :: [packExt1 0 0 0 0 (0#2 ++ sp) 0, packExt2 q 0 0 0 0]
  | .amoMin g dw d a b => [packR 0 0x16 d a b g (bit dw ++ 4#3)]
  | .amoMinExtended g dw d a b sp q => packR 2 0x16 d a b g (bit dw ++ 4#3) :: [packExt1 0 0 0 0 (0#2 ++ sp) 0, packExt2 q 0 0 0 0]
  | .amoMax g dw d a b => [packR 0 0x16 d a b g (bit dw ++ 5#3)]
  | .amoMaxExtended g dw d a b sp q => packR 2 0x16 d a b g (bit dw ++ 5#3) :: [packExt1 0 0 0 0 (0#2 ++ sp) 0, packExt2 q 0 0 0 0]
  | .amoSwap g dw d a b => [packR 0 0x16 d a b g (bit dw ++ 6#3)]
  | .amoSwapExtended g dw d a b sp q => packR 2 0x16 d a b g (bit dw ++ 6#3) :: [packExt1 0 0 0 0 (0#2 ++ sp) 0, packExt2 q 0 0 0 0]
  | .cas g dw d a b => [packR 0 0x17 d a b g (0#3 ++ bit dw)]
  | .casExtended g dw d a b sp q => packR 2 0x17 d a b g (0#3 ++ bit dw) :: [packExt1 0 0 0 0 (0#2 ++ sp) 0, packExt2 q 0 0 0 0]
  | .fence g scope mask => [packR 0 0x18 mask 0 0 g scope]
  | .waitrs g d a => [packR 0 0x19 d a 0 g 0#4]
  | .sld g t d a b => [packR 0 0x1A d a b g t]
  | .sldExtended g t d a b w q disp => packR (lenBits disp) 0x1A d a b g t :: ([packExt1 0 0 0 0 (0#1 ++ bit w ++ 0#3) 0, packExt2 q 0 0 0 0] ++ litWordsOpt disp)
  | .sst g t d a b => [packR 0 0x1B d a b g t]
  | .sstExtended g t d a b w q disp => packR (lenBits disp) 0x1B d a b g t :: ([packExt1 0 0 0 0 (0#1 ++ bit w ++ 0#3) 0, packExt2 q 0 0 0 0] ++ litWordsOpt disp)
  | .samo g t d a b aop w q c disp => packR (lenBits disp) 0x1C d a b g t :: ([packExt1 (0#4 ++ aop) 0 0 0 (0#1 ++ bit w ++ 0#3) c, packExt2 q 0 0 0 0] ++ litWordsOpt disp)
  | .cinv g a b => [packR 0 0x1D 0 a b g 0#4]
  | .cinvAll g => [packR 0 0x1D 0 0 0 g 1#4]
  | .vadd g d a b => [packR 0 0x20 d a b g 0#4]
  | .vaddExtended g d a b fa => packR 2 0x20 d a b g 0#4 :: [packExt1 0 0 0 fa 0 0, packExt2 0 0 0 0 0]
  | .vsub g d a b => [packR 0 0x20 d a b g 1#4]
  | .vsubExtended g d a b fa => packR 2 0x20 d a b g 1#4 :: [packExt1 0 0 0 fa 0 0, packExt2 0 0 0 0 0]
  | .vmul g d a b => [packR 0 0x20 d a b g 2#4]
  | .vmulExtended g d a b fa => packR 2 0x20 d a b g 2#4 :: [packExt1 0 0 0 fa 0 0, packExt2 0 0 0 0 0]
  | .vmin g d a b => [packR 0 0x20 d a b g 3#4]
  | .vminExtended g d a b fa => packR 2 0x20 d a b g 3#4 :: [packExt1 0 0 0 fa 0 0, packExt2 0 0 0 0 0]
  | .vmax g d a b => [packR 0 0x20 d a b g 4#4]
  | .vmaxExtended g d a b fa => packR 2 0x20 d a b g 4#4 :: [packExt1 0 0 0 fa 0 0, packExt2 0 0 0 0 0]
  | .vabs g d a => [packR 0 0x20 d a 0 g 5#4]
  | .vabsExtended g d a fa => packR 2 0x20 d a 0 g 5#4 :: [packExt1 0 0 0 fa 0 0, packExt2 0 0 0 0 0]
  | .vneg g d a => [packR 0 0x20 d a 0 g 6#4]
  | .vnegExtended g d a fa => packR 2 0x20 d a 0 g 6#4 :: [packExt1 0 0 0 fa 0 0, packExt2 0 0 0 0 0]
  | .vrcp g d a => [packR 0 0x20 d a 0 g 7#4]
  | .vrcpExtended g d a fa => packR 2 0x20 d a 0 g 7#4 :: [packExt1 0 0 0 fa 0 0, packExt2 0 0 0 0 0]
  | .vrsq g d a => [packR 0 0x20 d a 0 g 8#4]
  | .vrsqExtended g d a fa => packR 2 0x20 d a 0 g 8#4 :: [packExt1 0 0 0 fa 0 0, packExt2 0 0 0 0 0]
  | .vex2 g d a => [packR 0 0x20 d a 0 g 9#4]
  | .vex2Extended g d a fa => packR 2 0x20 d a 0 g 9#4 :: [packExt1 0 0 0 fa 0 0, packExt2 0 0 0 0 0]
  | .vlg2 g d a => [packR 0 0x20 d a 0 g 10#4]
  | .vlg2Extended g d a fa => packR 2 0x20 d a 0 g 10#4 :: [packExt1 0 0 0 fa 0 0, packExt2 0 0 0 0 0]
  | .vsqrt g d a => [packR 0 0x20 d a 0 g 11#4]
  | .vsqrtExtended g d a fa => packR 2 0x20 d a 0 g 11#4 :: [packExt1 0 0 0 fa 0 0, packExt2 0 0 0 0 0]
  | .vfma g d a b => [packR 0 0x21 d a b g 0#4]
  | .vfmaExtended g d a b fa => packR 2 0x21 d a b g 0#4 :: [packExt1 0 0 0 fa 0 0, packExt2 0 0 0 0 0]
  | .vfms g d a b => [packR 0 0x21 d a b g 1#4]
  | .vfmsExtended g d a b fa => packR 2 0x21 d a b g 1#4 :: [packExt1 0 0 0 fa 0 0, packExt2 0 0 0 0 0]
  | .vcvt g d a fa fb hs hd => packR 2 0x22 d a 0 g 0#4 :: [packExt1 (0#1 ++ hd ++ hs) 0 fb fa 0 0, packExt2 0 0 0 0 0]
  | .vcmpFeq g d a b => [packR 0 0x23 (d.setWidth 5) a b g 0#4]
  | .vcmpFeqExtended g d a b fa half => packR 2 0x23 (d.setWidth 5) a b g 0#4 :: [packExt1 (0#6 ++ bit half) 0 0 fa 0 0, packExt2 0 0 0 0 0]
  | .vcmpFne g d a b => [packR 0 0x23 (d.setWidth 5) a b g 1#4]
  | .vcmpFneExtended g d a b fa half => packR 2 0x23 (d.setWidth 5) a b g 1#4 :: [packExt1 (0#6 ++ bit half) 0 0 fa 0 0, packExt2 0 0 0 0 0]
  | .vcmpFlt g d a b => [packR 0 0x23 (d.setWidth 5) a b g 2#4]
  | .vcmpFltExtended g d a b fa half => packR 2 0x23 (d.setWidth 5) a b g 2#4 :: [packExt1 (0#6 ++ bit half) 0 0 fa 0 0, packExt2 0 0 0 0 0]
  | .vcmpFle g d a b => [packR 0 0x23 (d.setWidth 5) a b g 3#4]
  | .vcmpFleExtended g d a b fa half => packR 2 0x23 (d.setWidth 5) a b g 3#4 :: [packExt1 (0#6 ++ bit half) 0 0 fa 0 0, packExt2 0 0 0 0 0]
  | .vcmpFunord g d a b => [packR 0 0x23 (d.setWidth 5) a b g 4#4]
  | .vcmpFunordExtended g d a b fa half => packR 2 0x23 (d.setWidth 5) a b g 4#4 :: [packExt1 (0#6 ++ bit half) 0 0 fa 0 0, packExt2 0 0 0 0 0]
  | .vcmpIeq g d a b => [packR 0 0x23 (d.setWidth 5) a b g 8#4]
  | .vcmpIne g d a b => [packR 0 0x23 (d.setWidth 5) a b g 9#4]
  | .vcmpIlt g d a b => [packR 0 0x23 (d.setWidth 5) a b g 10#4]
  | .vcmpIle g d a b => [packR 0 0x23 (d.setWidth 5) a b g 11#4]
  | .vcmpIltu g d a b => [packR 0 0x23 (d.setWidth 5) a b g 12#4]
  | .vcmpIleu g d a b => [packR 0 0x23 (d.setWidth 5) a b g 13#4]
  | .vsel g inv sel d a b => [packR 0 0x24 d a b g (bit inv ++ sel)]
  | .vand g d a b => [packR 0 0x25 d a b g 0#4]
  | .vor g d a b => [packR 0 0x25 d a b g 1#4]
  | .vxor g d a b => [packR 0 0x25 d a b g 2#4]
  | .vshl g d a b => [packR 0 0x25 d a b g 3#4]
  | .vshr g d a b => [packR 0 0x25 d a b g 4#4]
  | .viadd g d a b => [packR 0 0x25 d a b g 5#4]
  | .vimul g d a b => [packR 0 0x25 d a b g 6#4]
  | .vperm g d a b => [packR 0 0x26 d a b g 0#4]
  | .vbcast g d a => [packR 0 0x26 d a 0 g 1#4]
  | .vextr g d a b => [packR 0 0x26 d a b g 2#4]
  | .vins g d a b => [packR 0 0x26 d a b g 3#4]
  | .vredFadd g d a => [packR 0 0x27 d a 0 g 0#4]
  | .vredFaddExtended g d a fa => packR 2 0x27 d a 0 g 0#4 :: [packExt1 0 0 0 fa 0 0, packExt2 0 0 0 0 0]
  | .vredFmin g d a => [packR 0 0x27 d a 0 g 1#4]
  | .vredFminExtended g d a fa => packR 2 0x27 d a 0 g 1#4 :: [packExt1 0 0 0 fa 0 0, packExt2 0 0 0 0 0]
  | .vredFmax g d a => [packR 0 0x27 d a 0 g 2#4]
  | .vredFmaxExtended g d a fa => packR 2 0x27 d a 0 g 2#4 :: [packExt1 0 0 0 fa 0 0, packExt2 0 0 0 0 0]
  | .vredIadd g d a => [packR 0 0x27 d a 0 g 3#4]
  | .vredImin g d a => [packR 0 0x27 d a 0 g 4#4]
  | .vredImax g d a => [packR 0 0x27 d a 0 g 5#4]
  | .vdotS8 g d a b => [packR 0 0x28 d a b g 0#4]
  | .vdotU8s8 g d a b => [packR 0 0x28 d a b g 1#4]
  | .vdotF16 g d a b => [packR 0 0x28 d a b g 2#4]
  | .vdotBf16 g d a b => [packR 0 0x28 d a b g 3#4]
  | .vld g d a b => [packR 0 0x29 d a b g 0#4]
  | .vldExtended g d a b sp q disp => packR (lenBits disp) 0x29 d a b g 0#4 :: ([packExt1 0 0 0 0 (0#2 ++ sp) 0, packExt2 q 0 0 0 0] ++ litWordsOpt disp)
  | .vst g d a b => [packR 0 0x29 d a b g 1#4]
  | .vstExtended g d a b sp q disp => packR (lenBits disp) 0x29 d a b g 1#4 :: ([packExt1 0 0 0 0 (0#2 ++ sp) 0, packExt2 q 0 0 0 0] ++ litWordsOpt disp)
  | .vgath g d a b => [packR 0 0x2A d a b g 0#4]
  | .vgathExtended g d a b sp q => packR 2 0x2A d a b g 0#4 :: [packExt1 0 0 0 0 (0#2 ++ sp) 0, packExt2 q 0 0 0 0]
  | .vscat g d a b => [packR 0 0x2A d a b g 1#4]
  | .vscatExtended g d a b sp q => packR 2 0x2A d a b g 1#4 :: [packExt1 0 0 0 0 (0#2 ++ sp) 0, packExt2 q 0 0 0 0]
  | .valloc g d a => [packR 0 0x2B d a 0 g 0#4]
  | .vfree g a => [packR 0 0x2B 0 a 0 g 1#4]
  | .tcfg g d a => [packR 0 0x30 (d.setWidth 5) a 0 g 0#4]
  | .tcfgr g d a => [packR 0 0x30 d (a.setWidth 5) 0 g 1#4]
  | .tzero g d => [packR 0 0x30 (d.setWidth 5) 0 0 g 2#4]
  | .tmov g d a => [packR 0 0x30 (d.setWidth 5) (a.setWidth 5) 0 g 3#4]
  | .tconj g d a => [packR 0 0x30 (d.setWidth 5) (a.setWidth 5) 0 g 4#4]
  | .txp g d a => [packR 0 0x30 (d.setWidth 5) (a.setWidth 5) 0 g 5#4]
  | .tnorm g d a => [packR 0 0x30 (d.setWidth 5) (a.setWidth 5) 0 g 6#4]
  | .tld g d a b => [packR 0 0x31 (d.setWidth 5) a b g 0#4]
  | .tldExtended g d a b sp planar disp => packR (lenBits disp) 0x31 (d.setWidth 5) a b g 0#4 :: ([packExt1 (0#6 ++ bit planar) 0 0 0 (0#2 ++ sp) 0, packExt2 0 0 0 0 0] ++ litWordsOpt disp)
  | .tst g d a b => [packR 0 0x31 (d.setWidth 5) a b g 1#4]
  | .tstExtended g d a b sp planar disp => packR (lenBits disp) 0x31 (d.setWidth 5) a b g 1#4 :: ([packExt1 (0#6 ++ bit planar) 0 0 0 (0#2 ++ sp) 0, packExt2 0 0 0 0 0] ++ litWordsOpt disp)
  | .mma g cb ca ba d a b => [packR 0 0x32 (d.setWidth 5) (a.setWidth 5) (b.setWidth 5) g (0#1 ++ bit cb ++ bit ca ++ bit ba)]
  | .mmaCbuf g cb ca ba d a b c => packR 2 0x32 (d.setWidth 5) (a.setWidth 5) (b.setWidth 5) g (0#1 ++ bit cb ++ bit ca ++ bit ba) :: [packExt1 0 0 0 0 4 c, packExt2 0 0 0 0 0]
  | .tsca g d a b => [packR 0 0x33 (d.setWidth 5) (a.setWidth 5) (b.setWidth 5) g 0#4]
  | .qnt g d a b => [packR 0 0x33 (d.setWidth 5) (a.setWidth 5) (b.setWidth 5) g 1#4]
  | .dqnt g d a b => [packR 0 0x33 (d.setWidth 5) (a.setWidth 5) (b.setWidth 5) g 2#4]
  | .talg g d a => [packR 0 0x34 (d.setWidth 5) a 0 g 0#4]
  | .boxv g d a b => [packR 0 0x38 d a b g 0#4]
  | .boxvExtended g d a b sp => packR 2 0x38 d a b g 0#4 :: [packExt1 0 0 0 0 (0#2 ++ sp) 0, packExt2 0 0 0 0 0]
  | .trix g d a b => [packR 0 0x38 d a b g 1#4]
  | .trixExtended g d a b sp => packR 2 0x38 d a b g 1#4 :: [packExt1 0 0 0 0 (0#2 ++ sp) 0, packExt2 0 0 0 0 0]
  | .splt g d a b => [packR 0 0x38 d a b g 2#4]
  | .spltExtended g d a b sp => packR 2 0x38 d a b g 2#4 :: [packExt1 0 0 0 0 (0#2 ++ sp) 0, packExt2 0 0 0 0 0]
  | .volseg g d a b => [packR 0 0x38 d a b g 3#4]
  | .volsegExtended g d a b sp => packR 2 0x38 d a b g 3#4 :: [packExt1 0 0 0 0 (0#2 ++ sp) 0, packExt2 0 0 0 0 0]
  | .ivmake g d a b => [packR 0 0x39 d a b g 0#4]
  | .ivins g a => [packR 0 0x39 0 a 0 g 1#4]
  | .ivget g d a => [packR 0 0x39 d a 0 g 2#4]
  | .ivqry g d b => [packR 0 0x39 d 0 (b.setWidth 5) g 3#4]
  | .ivcut g a => [packR 0 0x39 0 a 0 g 4#4]
  | .ivclr g => [packR 0 0x39 0 0 0 g 5#4]
  | .ivcomp g d => [packR 0 0x39 d 0 0 g 6#4]
  | .ivcfg g a => [packR 0 0x39 0 a 0 g 7#4]
  | .recvw g d => [packR 0 0x40 d 0 0 g 0#4]
  | .migr g a => [packR 0 0x40 0 a 0 g 1#4]
  | .spawn g d a b => [packR 0 0x40 (d.setWidth 5) a b g 2#4]
  | .cdec g a => [packR 0 0x40 0 a 0 g 3#4]
  | .hintsucc g => [packR 0 0x40 0 0 0 g 4#4]
  | .waitpred g => [packR 0 0x40 0 0 0 g 5#4]
  | .enq g a b => [packR 0 0x41 0 a b g 0#4]
  | .deq g d a => [packR 0 0x41 d a 0 g 1#4]
  | .taskget g d => [packR 0 0x42 d 0 0 g 0#4]
  | .bar g => [packR 0 0x43 0 0 0 g 0#4]
  | .semw g a b => [packR 0 0x44 0 a b g 0#4]
  | .sems g a b => [packR 0 0x44 0 a b g 1#4]
  | .copy g d a b e disp => packR (lenBits disp) 0x45 d a b g 0#4 :: ([packEng e, packExt2 e.q e.si e.ss e.wt e.ws] ++ litWordsOpt disp)
  | .getx g d a b e disp => packR (lenBits disp) 0x46 d a b g 0#4 :: ([packEng e, packExt2 e.q e.si e.ss e.wt e.ws] ++ litWordsOpt disp)
  | .putx g d a b e => packR 2 0x47 d a b g 0#4 :: [packEng e, packExt2 e.q e.si e.ss e.wt e.ws]
  | .coll g a e => packR 2 0x48 0 a 0 g 0#4 :: [packEng e, packExt2 e.q e.si e.ss e.wt e.ws]
  | .tagwAll g a => [packR 0 0x49 0 a 0 g 0#4]
  | .tagwAllLiteral g lit => packR 1 0x49 0 0 0 g 0#4 :: litWords lit
  | .tagwAny g a => [packR 0 0x49 0 a 0 g 1#4]
  | .tagwAnyLiteral g lit => packR 1 0x49 0 0 0 g 1#4 :: litWords lit
  | .tagf g d => [packR 0 0x49 d 0 0 g 2#4]
  | .xreqLayout g d a b => [packR 0 0x4A (d.setWidth 5) a b g 0#4]
  | .xreqQuant g d a b => [packR 0 0x4A (d.setWidth 5) a b g 1#4]
  | .xreqCksum g d a b => [packR 0 0x4A (d.setWidth 5) a b g 2#4]
  | .trap g code => [packR 0 0x50 0 0 code g 0#4]
  | .eret g => [packR 0 0x50 0 0 0 g 1#4]
  | .sysr d num => [packI 0 0x51 d 0 (0#5 ++ num)]
  | .sysw a num => [packI 0 0x52 0 a (0#5 ++ num)]
  | .stab g a b => [packR 0 0x53 0 a b g 0#4]
  | .tlbi g a => [packR 0 0x54 0 a 0 g 0#4]
  | .tlbiAll g => [packR 0 0x54 0 0 0 g 1#4]
  | .preempt g a => [packR 0 0x55 0 a 0 g 0#4]
  | .ctxsave g a => [packR 0 0x55 0 a 0 g 1#4]
  | .ctxload g a => [packR 0 0x55 0 a 0 g 2#4]
  | .portWordArrival .. => []
  | .portStall .. => []
  | .enqStall .. => []
  | .waitrsTimeout .. => []
  | .reservationInstructionLimit .. => []
  | .yieldExpiry .. => []
  | .loadPerformed .. => []
  | .storePerformed .. => []
  | .atomicPerformed .. => []
  | .stagedAccessAtHome .. => []
  | .parkReevaluation .. => []
  | .readMostlyFill .. => []
  | .readMostlyDrop .. => []
  | .writeCombiningDrain .. => []
  | .pageWalk .. => []
  | .faultRecordAppend .. => []
  | .errorRecordAppend .. => []
  | .trapDelivery .. => []
  | .strandEnd .. => []
  | .semaphoreWaitStep .. => []
  | .migrantArrival .. => []
  | .hingeFill .. => []
  | .arbiterDispatch .. => []
  | .crewPlacement .. => []
  | .bootForward .. => []
  | .launchEnd .. => []
  | .engineCommandStart .. => []
  | .compressedBlockRewrite .. => []
  | .logCollectorStep .. => []
  | .teTransition .. => []
  | .engineSignal .. => []
  | .mailboxWrite .. => []
  | .tagReady .. => []
  | .commandPause .. => []
  | .collStep .. => []
  | .xreqCompletion .. => []
  | .contextSave .. => []
  | .contextCacheSpill .. => []
  | .watchdogT1 .. => []
  | .watchdogT2 .. => []
  | .viewTake .. => []
  | .viewFrameEncode .. => []
  | .viewRecordWrite .. => []
  | .viewRelease .. => []
  | .haspFlitReceive .. => []
  | .haspLinkDown .. => []
  | .moduleReset .. => []
  | .doorbell .. => []
  | .commandFetch .. => []
  | .seqRefetch .. => []
  | .queueEnable .. => []
  | .completionConsumerWrite .. => []
  | .viewConsumerWrite .. => []
  | .viewFaultClear .. => []
  | .haspReplaysClear .. => []
  | .haspModuleWrite .. => []
  | .wbaseWrite .. => []
  | .errorCounterClear .. => []
  | .firmwareStageImage .. => []
  | .installImageKey => []
  | .removeImageKey => []
  | .firmwareBadCommand => []
  | .attestationRequest .. => []
  | .attestationReport => []
  | .registerWrite .. => []
  | .launch .. => []
  | .replay .. => []
  | .patch .. => []
  | .patchApply .. => []
  | .qcreate .. => []
  | .qdestroy .. => []
  | .fanswer .. => []
  | .sreset .. => []
  | .vbind .. => []
  | .group .. => []
  | .hwin .. => []
  | .logset .. => []
  | .ppreempt .. => []
  | .restart .. => []
  | .kload .. => []
  | .kunload .. => []
  | .pcreate .. => []
  | .presize .. => []
  | .pdestroy .. => []
  | .illegalInstrIssue .. => []
  | .instructionFetchFault .. => []
  | .mmaCompletion .. => []
  | .memoryError .. => []
  | .parityError .. => []
  | .queueConsumerIndexWrite .. => []
  | .bar4Access .. => []

/-- The bytes of an instruction, lowest address first (R5). -/
def encodeBytes (i : Instr) : List (BitVec 8) := (encode i).flatMap wordBytes

/-- The first `n` words of a bit string numbered as the opcode table numbers it: word 0 is its low 32 bits. -/
def tableWords (w : Nat) : Nat → List (BitVec 32)
  | 0 => []
  | n + 1 => BitVec.ofNat 32 w :: tableWords (w / 2 ^ 32) n

/-- The instruction the decoder reads from the bits `w` of a table row; bits above `nbits` are zero and so are the
words of an instruction longer than the row. Rows with no bits (nbits 0) have no instruction word. -/
noncomputable def decodeTableWord (nbits w : Nat) : Option Instr :=
  if nbits = 0 then none
  else match decodeList (tableWords (w % 2 ^ nbits) 5) with
    | .ok (i, _) => some i
    | .error _ => none

end Sys2Proof
end

