-- ==== Sys2Proof/Machine/Reals.lean ====
section
/-! DEFINITION. The correctly rounded functions of R97 and Table 4-4. A result that is not rational is enclosed far more
tightly than the spacing of any format, and the enclosure's inner point is what gets rounded. -/
namespace Sys2Proof.Machine

/-- The integer square root of n, deciding the bits `k-1` to 0 on top of the root so far. -/
def isqrtBits (n : Nat) : Nat → Nat → Nat
  | 0, r => r
  | k + 1, r => isqrtBits n k (if (r + 2 ^ k) ^ 2 ≤ n then r + 2 ^ k else r)

/-- ⌊√n⌋. -/
def isqrt (n : Nat) : Nat := isqrtBits n (Nat.log2 n / 2 + 1) 0

/-- √r for r > 0: exact when rational, else a point strictly inside the same 2^-200 (relative) interval as √r. DEDUCED: log 65. -/
def sqrtRat (r : Rat) : Rat :=
  let p := r.num.natAbs
  let q := r.den
  let sp := isqrt p
  let sq := isqrt q
  if sp * sp = p ∧ sq * sq = q then mkRat sp sq
  else
    let k := 200 + Nat.log2 q
    mkRat (2 * isqrt (p * q * 4 ^ k) + 1 : Nat) (q * 2 ^ (k + 1))

/-- Fixed-point fraction bits used for exp and log. -/
def fixBits : Nat := 400

/-- Σ t^(2i+1)/(2i+1) for i below n, in fixed point: half of ln((1+t)/(1−t)). -/
def atanhSum (t2 : Nat) : Nat → Nat → Nat → Nat
  | 0, _, _ => 0
  | n + 1, pow, d => pow / d + atanhSum t2 n (pow * t2 / 2 ^ fixBits) (d + 2)

/-- ln of a rational in [1, 2], in fixed point. -/
def lnFix (m : Rat) : Nat :=
  let z := (m - 1) / (m + 1)
  let t := (z * (2 ^ fixBits : Nat)).floor.toNat
  2 * atanhSum (t * t / 2 ^ fixBits) 140 t 1

/-- ln 2 in fixed point. -/
def ln2Fix : Nat := lnFix 2

/-- Σ t^i/i! for i below n, in fixed point, `term` being the next term. -/
def expSum (t : Nat) : Nat → Nat → Nat → Nat
  | 0, _, _ => 0
  | n + 1, term, i => term + expSum t n (term * t / 2 ^ fixBits / i) (i + 1)

/-- e^t for t in [0, 1) in fixed point. -/
def expFix (t : Nat) : Nat := expSum t 100 (2 ^ fixBits) 1

/-- 2^x: exact for an integer x, else closer to 2^x than any format's rounding boundary. The exponent is clamped where
every format has long overflowed or underflowed. DEDUCED: log 65. -/
def exp2Rat (x : Rat) : Rat :=
  let n := x.floor
  let f := x - (n : Rat)
  let n' : Int := max (-1200) (min 1200 n)
  if f = 0 then pow2 n'
  else
    let t := (f * ln2Fix).floor.toNat
    mkRat (expFix t) (2 ^ fixBits) * pow2 n'

/-- log2 r for r > 0: exact for a power of two, else closer to log2 r than any format's rounding boundary. -/
def log2Rat (r : Rat) : Rat :=
  let e := floorLog2 r
  let m := r / pow2 e
  if m = 1 then (e : Rat) else (e : Rat) + mkRat (lnFix m) ln2Fix

/-- e^x: 1 for 0, else closer to e^x than any format's rounding boundary. -/
def expRat (x : Rat) : Rat :=
  if x = 0 then 1 else exp2Rat (x * mkRat (2 ^ fixBits) ln2Fix)

/-- VRCP (Table 4-4). -/
def fvRcp : FV → FV × Flags
  | .nan s => (.nan false, flagIf s flagNV)
  | .inf n => (.num n 0, 0)
  | .num n m => if m = 0 then (.inf n, flagDZ) else (.num n (1 / m), 0)

/-- VRSQ (Table 4-4). -/
def fvRsq : FV → FV × Flags
  | .nan s => (.nan false, flagIf s flagNV)
  | .inf n => if n then (.nan false, flagNV) else (.num false 0, 0)
  | .num n m => if m = 0 then (.inf n, flagDZ) else if n then (.nan false, flagNV) else (.num false (sqrtRat (1 / m)), 0)

/-- VSQRT (Table 4-4). -/
def fvSqrt : FV → FV × Flags
  | .nan s => (.nan false, flagIf s flagNV)
  | .inf n => if n then (.nan false, flagNV) else (.inf false, 0)
  | .num n m => if m = 0 then (.num n 0, 0) else if n then (.nan false, flagNV) else (.num false (sqrtRat m), 0)

/-- VEX2 (Table 4-4, exp2_cr of R97). -/
def fvExp2 : FV → FV × Flags
  | .nan s => (.nan false, flagIf s flagNV)
  | .inf n => if n then (.num false 0, 0) else (.inf false, 0)
  | .num n m => if m = 0 then (.num false 1, 0) else (.num false (exp2Rat (FV.toRat (.num n m))), 0)

/-- VLG2 (Table 4-4). -/
def fvLog2 : FV → FV × Flags
  | .nan s => (.nan false, flagIf s flagNV)
  | .inf n => if n then (.nan false, flagNV) else (.inf false, 0)
  | .num n m =>
    if m = 0 then (.inf true, flagDZ) else if n then (.nan false, flagNV) else (FV.ofRat (log2Rat m), 0)

end Sys2Proof.Machine
end

