-- ==== Sys2Proof/Machine/Wide.lean ====
section
/-! DEFINITION. Reads that are wider than a datum and yet one access: the operands of BOXV, TRIX, SPLT and VOLSEG, the table
of STAB and the records of SPAWN and CTXLOAD (R125, R134, R184, R248). -/
namespace Sys2Proof.Machine

/-- The bytes of one page's part. -/
def State.pieceBytes (s : State) (buf : Option WcBuf) (p : Piece) : List (BitVec 8) :=
  s.loadBytes buf (clusterOf s.actor) p.spot.mt p.spot.flat p.len

/-- The first poisoned line that a wide load reads at its home (R285). -/
def State.widePoison (s : State) (buf : Option WcBuf) (ps : List Piece) : Option (BitVec 64) :=
  ps.findSome? fun pc => (pc.lines.find? fun l =>
    let lo := max (l.1 * 64) pc.spot.flat
    s.loadPoison buf (clusterOf s.actor) pc.spot.mt lo (min (l.1 * 64 + 64) (pc.spot.flat + pc.len) - lo)).map Prod.snd

/-- Strongly ordered if any page of an operand is (Table 6-2). -/
def pagesType (ps : List Piece) : Nat := if ps.any fun p => p.spot.mt == 4 then 4 else 0

/-- The pages of a wide operand: a local range is one piece (R269). -/
def State.wideSpots (s : State) (st : Strand) (sp : BitVec 3) (va : BitVec 64) (n : Nat) : List Piece × Res Unit :=
  if sp = 0 then s.pieces st .read (typeRule .plainMem) va n (n / 65536 + 2)
  else if spaceSize sp < va.toNat + n then ([], .trap (translation 1 va))
  else ([⟨va, Spot.local (localBase sp (cellOf s.actor) + va.toNat), n⟩], .ok ())

/-- The pages of a wide operand as its access meets them: the buffer's store comes first unless every page is write-combining (R133, R280). -/
def State.wideSpotsNow (s : State) (st : Strand) (sp : BitVec 3) (va : BitVec 64) (n : Nat) : List Piece × Res Unit :=
  match s.wideSpots st sp va n with
  | (ps, .ok _) =>
    if st.wcbuf.isNone || ps.all (fun p => p.spot.mt == 2) then (ps, .ok ()) else (s.drainWc s.actor).wideSpots st sp va n
  | x => if st.wcbuf.isNone then x else (s.drainWc s.actor).wideSpots st sp va n

/-- The flits of a wide load, line by line (R356). -/
def State.wideFlits (s : State) (buf : Option WcBuf) (ps : List Piece) : State :=
  ps.foldl (fun t pc => pc.lines.foldl (fun u l =>
    let lo := max (l.1 * 64) pc.spot.flat
    u.flitsRead buf (clusterOf s.actor) pc.spot.mt lo (min (l.1 * 64 + 64) (pc.spot.flat + pc.len) - lo)) t) s

/-- A plain read of `n` bytes, checked page by page and decided over all its staged lines in one step; a verdict is met before poison. `s`
holds the effects of reading the sources, `s0` does not; `go` gets the bytes and the state after the read. DESIGN CHOICE: log 35. -/
def wideRead (st : Strand) (s s0 : State) (sp : BitVec 3) (va : BitVec 64) (n align : Nat)
    (go : List (BitVec 8) → State → Out) : Out :=
  if va.toNat % align != 0 then .trap (alignTrap 0 va)
  else if !st.window.isEmpty then .wait .poll s0
  else
    let (ps, r) := s.wideSpotsNow st sp va n
    let bar := s.firstBar st.part 14 ps
    match r, bar with
    | _, some (.fault, _, _, a) => .trap (stagedFault 0 a)
    | .trap t, _ => .trap t
    | .wait k, _ => .wait k s0
    | .notPresent a k, _ => .notPresent a k
    | .ok _, some (_, line, cls, a) => strongly (pagesType ps) st s0 (s0.parkHere st a line cls 14)
    | .ok _, none =>
      if s.anyRelease st.part 14 ps && (s0.drainWc s.actor).owes st.origin then .wait .poll (s0.drainWc s.actor)
      else strongly (pagesType ps) st s0 <|
        st.reportAll.andThen s0 fun _ =>
          let s1 := if ps.all fun p => p.spot.mt == 2 then s else s.drainWc s.actor
          match s1.me? with
          | none => .ok s1
          | some st1 =>
            match s1.widePoison st1.wcbuf ps with
            | some a => .trap (translation 4 a)
            | none => go (ps.flatMap (s1.pieceBytes st1.wcbuf)) ((s1.wideFlits st1.wcbuf ps).takeAll st.part 14 ps)

end Sys2Proof.Machine
end

