-- ==== Sys2Proof/Machine/Ray.lean ====
section
/-! DEFINITION. The ray unit: BOXV, TRIX, SPLT and VOLSEG (R181 to R188). Every quantity is an exact function of the decoded
inputs and every written value is rounded once. -/
namespace Sys2Proof.Machine

/-! ### Rays and operands (R183) -/

/-- The value of an FP32 code. -/
def f32 (x : BitVec 32) : FV := fp32.decode x.toNat
/-- An exact value rounded to FP32. -/
def toF32 (mode : RM) (x : FV) : BitVec 32 := BitVec.ofNat 32 (fp32.encode (rnd fp32 mode x).1)
/-- A rational rounded to nearest FP32; 0, which has no sign, gives +0. DESIGN CHOICE: log 71. -/
def ratF32 (r : Rat) : BitVec 32 := toF32 .rne (FV.ofRat r)
/-- An exact value rounded to nearest FP16. -/
def toF16 (x : FV) : BitVec 16 := BitVec.ofNat 16 (fp16.encode (rnd fp16 .rne x).1)
/-- +inf in FP32. -/
def posInf32 : BitVec 32 := 0x7F800000
/-- −inf in FP32. -/
def negInf32 : BitVec 32 := 0xFF800000
/-- A finite value. -/
def FV.isFin : FV → Bool
  | .num .. => true
  | _ => false
/-- x ≤ y for values that are no NaN. -/
def FV.le (x y : FV) : Bool := let c := (fvCompare x y).1; c.lt || c.eq
/-- x < y. -/
def FV.lt (x y : FV) : Bool := (fvCompare x y).1.lt

/-- An FP32 of an operand. -/
def opF32 (bs : List (BitVec 8)) (o : Nat) : FV := fp32.decode (field bs o 4)
/-- A vector in space. -/
abbrev R3 := Rat × Rat × Rat
/-- Component-wise difference. -/
def R3.sub (a b : R3) : R3 := (a.1 - b.1, a.2.1 - b.2.1, a.2.2 - b.2.2)
/-- Scalar product. -/
def R3.dot (a b : R3) : Rat := a.1 * b.1 + a.2.1 * b.2.1 + a.2.2 * b.2.2
/-- Vector product. -/
def R3.cross (a b : R3) : R3 := (a.2.1 * b.2.2 - a.2.2 * b.2.1, a.2.2 * b.1 - a.1 * b.2.2, a.1 * b.2.1 - a.2.1 * b.1)
/-- A component. -/
def R3.at (a : R3) (k : Nat) : Rat := if k = 0 then a.1 else if k = 1 then a.2.1 else a.2.2
/-- Three values as a vector, if all are finite. -/
def r3? (x y z : FV) : Option R3 := if x.isFin && y.isFin && z.isFin then some (x.toRat, y.toRat, z.toRat) else none

/-- A ray with finite origin and direction, and its range. -/
structure Ray where
  o : R3
  dir : R3
  lo : FV
  hi : FV
  deriving DecidableEq, Repr

/-- The ray of a register, unless a lane it uses holds a NaN or a geometric lane is not finite: then every test misses. -/
def ray? (a : BitVec 512) : Option Ray :=
  let l (i : Nat) : FV := f32 (lane a i)
  match r3? (l 0) (l 1) (l 2), r3? (l 3) (l 4) (l 5) with
  | some o, some d => if (l 6).isNaN || (l 7).isNaN then none else some ⟨o, d, l 6, l 7⟩
  | _, _ => none

/-! ### Results (R181, R184) -/

/-- A hit: the eight lanes of the record, two values of the test, and the flag. -/
def hitLanes (record : List (BitVec 32)) (x y : BitVec 32) : BitVec 512 :=
  ofLaneList (record ++ [x, y, 1, 0, 0, 0, 0, 0])

/-- A miss: a null record. -/
def missLanes : BitVec 512 := ofLaneList ([posInf32, posInf32] ++ List.replicate 14 0)

/-- The lanes of a record (Table 9-1); the merge count of a fresh record is 0. -/
def recordLanes (tin tout : BitVec 32) (d : BitVec 16) (L : Nat) (conf form : Nat) (obj prim aux : Nat) : List (BitVec 32) :=
  [tin, tout, BitVec.ofNat 32 (d.toNat + L % 2 ^ 16 * 2 ^ 16), BitVec.ofNat 32 (L / 2 ^ 16), BitVec.ofNat 32 (conf + form * 256),
    BitVec.ofNat 32 obj, BitVec.ofNat 32 prim, BitVec.ofNat 32 aux]

/-! ### BOXV (R185) -/

/-- x − y in the extended reals, if it has a value. -/
def extSub (x y : FV) : Option FV :=
  match x, y with
  | .inf a, .inf b => if a = b then none else some (.inf a)
  | .inf a, .num .. => some (.inf a)
  | .num .., .inf b => some (.inf !b)
  | .num .., .num .. => some (FV.ofRat (x.toRat - y.toRat))
  | _, _ => none

/-- x × y in the extended reals, for a finite y, if it has a value. -/
def extMul (x y : FV) : Option FV :=
  match x with
  | .nan _ => none
  | .inf a => if y.toRat = 0 then none else some (.inf (xor a (decide (y.toRat < 0))))
  | .num .. => some (FV.ofRat (x.toRat * y.toRat))

/-- One axis of one box: the range it leaves, or no hit. -/
def boxAxis (o inv mn mx : FV) (r : BitVec 32 × BitVec 32) : Option (BitVec 32 × BitVec 32) :=
  if inv.isInf then if o.lt mn || mx.lt o then none else some r
  else
    match (extSub mn o).bind (extMul · inv), (extSub mx o).bind (extMul · inv) with
    | some q0, some q1 =>
      let lo := toF32 .rdn (if q1.lt q0 then q1 else q0)
      let hi := toF32 .rup (if q1.lt q0 then q0 else q1)
      some (if (f32 r.1).lt (f32 lo) then lo else r.1, if (f32 hi).lt (f32 r.2) then hi else r.2)
    | _, _ => none

/-- One box against a ray: the two lanes of its result. -/
def boxOne (a : BitVec 512) (bs : List (BitVec 8)) (i : Nat) : List (BitVec 32) :=
  let l (k : Nat) : FV := f32 (lane a k)
  let mn (c : Nat) : FV := opF32 bs (24 * i + 4 * c)
  let mx (c : Nat) : FV := opF32 bs (24 * i + 12 + 4 * c)
  let sound := [0, 1, 2].all fun c => (mn c).le (mx c)
  let axis (c : Nat) (r : BitVec 32 × BitVec 32) := boxAxis (l c) (l (8 + c)) (mn c) (mx c) r
  match if sound then ((axis 0 (lane a 6, lane a 7)).bind (axis 1)).bind (axis 2) else none with
  | some (near, far) => if (f32 near).le (f32 far) then [near, far] else [posInf32, negInf32]
  | none => [posInf32, negInf32]

/-- The sixteen lanes of BOXV; a NaN in a used lane makes every box miss. -/
def boxvLanes (a : BitVec 512) (bs : List (BitVec 8)) : BitVec 512 :=
  if [0, 1, 2, 6, 7, 8, 9, 10].any fun i => (f32 (lane a i)).isNaN then
    ofLanes fun i => if i % 2 = 0 then posInf32 else negInf32
  else ofLaneList ((List.range 8).flatMap (boxOne a bs))

/-! ### TRIX (R186) -/

/-- The edge functions pass: all of one sign, and not from behind when back faces are culled. -/
def edgesPass (cull : Bool) (e0 e1 e2 : Rat) : Bool :=
  (decide (0 ≤ e0) && decide (0 ≤ e1) && decide (0 ≤ e2))
    || (!cull && decide (e0 ≤ 0) && decide (e1 ≤ 0) && decide (e2 ≤ 0))

/-- The test of a triangle record against a ray. -/
def trixHit (r : Ray) (bs : List (BitVec 8)) : Option (BitVec 512) :=
  let vert (k : Nat) : Option R3 := r3? (opF32 bs (12 * k)) (opF32 bs (12 * k + 4)) (opF32 bs (12 * k + 8))
  match vert 0, vert 1, vert 2 with
  | some v0, some v1, some v2 =>
    let a := v0.sub r.o
    let b := v1.sub r.o
    let c := v2.sub r.o
    let n := (v1.sub v0).cross (v2.sub v0)
    let e0 := r.dir.dot (b.cross c)
    let e1 := r.dir.dot (c.cross a)
    let e2 := r.dir.dot (a.cross b)
    let s := e0 + e1 + e2
    let flags := field bs 47 1
    if s != 0 && edgesPass (decide (128 ≤ flags)) e0 e1 e2 then
      let t := a.dot n / r.dir.dot n
      if r.lo.le (FV.ofRat t) && (FV.ofRat t).le r.hi then
        some (hitLanes (recordLanes (ratF32 t) (ratF32 t) (BitVec.ofNat 16 (field bs 44 2)) (field bs 48 6) (field bs 46 1)
          (flags % 16 * 16) (field bs 36 4) (field bs 40 4) (field bs 56 4)) (ratF32 (e1 / s)) (ratF32 (e2 / s)))
      else none
    else none
  | _, _, _ => none

/-! ### SPLT (R187) -/

/-- The size of a rational in bits. -/
def ratBits (r : Rat) : Nat := Nat.log2 r.num.natAbs + Nat.log2 r.den + 2

/-- √r for r > 0, exact when rational, else nearer to √r than the `extra` further bits tell apart. -/
def sqrtFine (extra : Nat) (r : Rat) : Rat :=
  let p := r.num.natAbs
  let q := r.den
  let sp := isqrt p
  let sq := isqrt q
  if sp * sp = p ∧ sq * sq = q then mkRat sp sq
  else mkRat (2 * isqrt (p * q * 4 ^ extra) + 1 : Nat) (q * 2 ^ (extra + 1))

/-- The depth −log2(1 − p·e^(−x)) for p in [0, 1] and x ≥ 0. For p = 1 and a tiny x, where 1 − e^(−x) is x less a far smaller
part, it is −log2 x and a trace more. -/
def splatDepth (p x : Rat) : FV :=
  if x = 0 then
    if p = 1 then .inf false else FV.ofRat (-(log2Rat (1 - p)))
  else if p = 1 && decide (x < pow2 (-100)) then FV.ofRat (-(log2Rat x) + pow2 (-380))
  else FV.ofRat (-(log2Rat (1 - p * expRat (-x))))

/-- ts + 2·sg < b, with sg² = v, decided exactly. -/
def splatBefore (ts v : Rat) (b : FV) : Bool :=
  match b with
  | .inf n => !n
  | .num .. => decide (ts < b.toRat) && decide (4 * v < (b.toRat - ts) * (b.toRat - ts))
  | .nan _ => false

/-- ts − 2·sg > b, decided exactly. -/
def splatAfter (ts v : Rat) (b : FV) : Bool :=
  match b with
  | .inf n => n
  | .num .. => decide (b.toRat < ts) && decide (4 * v < (ts - b.toRat) * (ts - b.toRat))
  | .nan _ => false

/-- The peak opacity, clamped to [0, 1]; none for a NaN. -/
def clampUnit : FV → Option Rat
  | .nan _ => none
  | .inf n => some (if n then 0 else 1)
  | x => some (max 0 (min 1 x.toRat))

/-- The test of a splat record against a ray. -/
def spltHit (r : Ray) (bs : List (BitVec 8)) : Option (BitVec 512) :=
  match r3? (opF32 bs 0) (opF32 bs 4) (opF32 bs 8), r3? (opF32 bs 12) (opF32 bs 16) (opF32 bs 20),
      r3? (opF32 bs 24) (opF32 bs 28) (opF32 bs 32), clampUnit (fp16.decode (field bs 44 2)) with
  | some mu, some (xx, xy, xz), some (yy, yz, zz), some peak =>
    let w := r.o.sub mu
    let mulP (v : R3) : R3 :=
      (R3.dot (xx, xy, xz) v, R3.dot (xy, yy, yz) v, R3.dot (xz, yz, zz) v)
    let qa := r.dir.dot (mulP r.dir)
    let qb := r.dir.dot (mulP w)
    let qc := w.dot (mulP w)
    if qa ≤ 0 then none
    else
      let ts := -qb / qa
      let v := 1 / qa
      let x := max 0 (qc - qb * qb / qa) / 2
      let alpha := peak * expRat (-x)
      if alpha < mkRat 1 255 || splatBefore ts v r.lo || splatAfter ts v r.hi then none
      else
        let sg := sqrtFine (400 + 3 * (ratBits ts + ratBits qa)) v
        some (hitLanes (recordLanes (ratF32 (ts - 2 * sg)) (ratF32 (ts + 2 * sg)) (toF16 (splatDepth peak x)) (field bs 48 6)
          (field bs 46 1) (1 + field bs 47 1 % 16 * 16) (field bs 36 4) (field bs 40 4) (field bs 56 4)) (ratF32 ts) (ratF32 sg))
  | _, _, _, _ => none

/-! ### VOLSEG (R188) -/

/-- The range of t in which an axis stays in the brick; none when it never does. -/
def brickAxis (o d g e : Rat) (r : FV × FV) : Option (FV × FV) :=
  if d = 0 then if decide (g ≤ o) && decide (o ≤ g + e) then some r else none
  else
    let t0 := (g - o) / d
    let t1 := (g + e - o) / d
    let lo := FV.ofRat (min t0 t1)
    let hi := FV.ofRat (max t0 t1)
    some (if r.1.lt lo then lo else r.1, if hi.lt r.2 then hi else r.2)

/-- Put a rational into a rising list, once. -/
def insertCut (t : Rat) : List Rat → List Rat
  | [] => [t]
  | x :: r => if t = x then x :: r else if t < x then t :: x :: r else x :: insertCut t r

/-- The cell index on an axis. On the plane between two cells, and there alone, the choice `side` decides (R188 leaves the
density of a shared face open). DESIGN CHOICE: log 40. -/
def cellIndex (x : Rat) (side : Bool) : Nat :=
  let k := x.floor.toNat
  min 7 (if (k : Rat) = x && side then k - 1 else k)

/-- A density: negative and NaN count as 0. -/
def density (bs : List (BitVec 8)) (i : Nat) : FV :=
  let x := fp16.decode (field bs (64 + 2 * i) 2)
  if x.isNaN || x.neg then .num false 0 else x

/-- The exact integral over consecutive cuts, each between two cell planes of every axis. -/
def brickSum (dens : Rat → FV) : List Rat → FV
  | t :: u :: r =>
    let part := (fvMul (dens ((t + u) / 2)) (FV.ofRat (u - t))).1
    (fvAdd .rne part (brickSum dens (u :: r))).1
  | _ => .num false 0

/-- The test of a density brick against a ray. DESIGN CHOICE: log 40. -/
def volsegHit (r : Ray) (side : Nat → Bool) (bs : List (BitVec 8)) : Option (BitVec 512) :=
  match r3? (opF32 bs 0) (opF32 bs 4) (opF32 bs 8), opF32 bs 12 with
  | some g, .num hneg h =>
    if hneg || h == 0 then none
    else
      let axis (c : Nat) (x : FV × FV) := brickAxis (r.o.at c) (r.dir.at c) (g.at c) (8 * h) x
      match ((axis 0 (r.lo, r.hi)).bind (axis 1)).bind (axis 2) with
      | some (.num ln lm, .num hn hm) =>
        let lo := FV.toRat (.num ln lm)
        let hi := FV.toRat (.num hn hm)
        if hi ≤ lo then none
        else
          let planes := [0, 1, 2].flatMap fun c =>
            if r.dir.at c = 0 then []
            else ((List.range 9).map fun (k : Nat) => (g.at c + h * k - r.o.at c) / r.dir.at c).filter fun t =>
              decide (lo < t) && decide (t < hi)
          let cuts := insertCut lo (insertCut hi (planes.foldl (fun l t => insertCut t l) []))
          let idx (t : Rat) (c : Nat) : Nat := cellIndex ((r.o.at c + t * r.dir.at c - g.at c) / h) (side c)
          let total := brickSum (fun t => density bs (idx t 0 + 8 * idx t 1 + 64 * idx t 2)) cuts
          some (hitLanes (recordLanes (ratF32 lo) (ratF32 hi) (toF16 total) (field bs 24 6) (field bs 30 1)
            (2 + field bs 31 1 % 16 * 16) (field bs 16 4) (field bs 20 4) (field bs 32 4)) 0 0)
      | _ => none
  | _, _ => none

/-! ### The instructions (R184) -/

/-- A ray-unit instruction: the operand at gB in a space, the ray in vA, the result to vD. -/
def rayBody (size : Nat) (test : BitVec 512 → List (BitVec 8) → State → BitVec 512 × State) (g : Guard) (words : Nat)
    (d a b : Reg) (sp : BitVec 3) : Strand → State → Out :=
  guarded g words fun st s =>
    if outsideAllot st [d, a] then .trap regBound
    else
      (readSources st s [b] none [d, a]).andThen s fun r =>
        wideRead st r.2 s sp (src r.1 0) size 64 fun bs s1 =>
          let (v, s2) := test (st.v a) bs s1
          match s2.me? with
          | none => .ok s2
          | some st2 => .ok (s2.setMe ((st2.setV d v).advance words))

/-- BOXV's test. -/
def boxvTest (a : BitVec 512) (bs : List (BitVec 8)) (s : State) : BitVec 512 × State := (boxvLanes a bs, s)
/-- TRIX's test. -/
def trixTest (a : BitVec 512) (bs : List (BitVec 8)) (s : State) : BitVec 512 × State :=
  (((ray? a).bind fun r => trixHit r bs).getD missLanes, s)
/-- SPLT's test. -/
def spltTest (a : BitVec 512) (bs : List (BitVec 8)) (s : State) : BitVec 512 × State :=
  (((ray? a).bind fun r => spltHit r bs).getD missLanes, s)
/-- VOLSEG's test; a draw decides the cell of a ray that runs in the plane between cells. -/
def volsegTest (a : BitVec 512) (bs : List (BitVec 8)) (s : State) : BitVec 512 × State :=
  let (k, s1) := s.choose 8
  (((ray? a).bind fun r => volsegHit r (fun c => k / 2 ^ c % 2 == 1) bs).getD missLanes, s1)

/-- BOXV vD, vA, cmem:[gB] (R185). -/
def execBoxv (g : Guard) (d a b : Reg) (s : State) : Host.Outcome State Fault Refusal := runBody (rayBody 192 boxvTest g 1 d a b 5) s

/-- BOXV with a space (R185). -/
def execBoxvExtended (g : Guard) (d a b : Reg) (sp : BitVec 3) (s : State) : Host.Outcome State Fault Refusal :=
  runBody (rayBody 192 boxvTest g 3 d a b sp) s

/-- TRIX vD, vA, cmem:[gB] (R186). -/
def execTrix (g : Guard) (d a b : Reg) (s : State) : Host.Outcome State Fault Refusal := runBody (rayBody 64 trixTest g 1 d a b 5) s

/-- TRIX with a space (R186). -/
def execTrixExtended (g : Guard) (d a b : Reg) (sp : BitVec 3) (s : State) : Host.Outcome State Fault Refusal :=
  runBody (rayBody 64 trixTest g 3 d a b sp) s

/-- SPLT vD, vA, cmem:[gB] (R187). -/
def execSplt (g : Guard) (d a b : Reg) (s : State) : Host.Outcome State Fault Refusal := runBody (rayBody 64 spltTest g 1 d a b 5) s

/-- SPLT with a space (R187). -/
def execSpltExtended (g : Guard) (d a b : Reg) (sp : BitVec 3) (s : State) : Host.Outcome State Fault Refusal :=
  runBody (rayBody 64 spltTest g 3 d a b sp) s

/-- VOLSEG vD, vA, cmem:[gB] (R188). -/
def execVolseg (g : Guard) (d a b : Reg) (s : State) : Host.Outcome State Fault Refusal :=
  runBody (rayBody 1088 volsegTest g 1 d a b 5) s

/-- VOLSEG with a space (R188). -/
def execVolsegExtended (g : Guard) (d a b : Reg) (sp : BitVec 3) (s : State) : Host.Outcome State Fault Refusal :=
  runBody (rayBody 1088 volsegTest g 3 d a b sp) s

end Sys2Proof.Machine
end

