-- ==== Sys2Proof/Machine/Intervals.lean ====
section
/-! DEFINITION. The clip unit: IVMAKE and the ordered interval list (R189 to R202). -/
namespace Sys2Proof.Machine

/-! ### FP32 arithmetic, to nearest even, setting no flag (R182) -/

/-- Round to FP32. -/
def r32 (x : FV) : FV := (rnd fp32 .rne x).1
/-- rne_fp32(x + y). -/
def add32 (x y : FV) : FV := r32 (fvAdd .rne x y).1
/-- rne_fp32(x − y). -/
def sub32 (x y : FV) : FV := r32 (fvAdd .rne x y.negate).1
/-- rne_fp32(x · y). -/
def mul32 (x y : FV) : FV := r32 (fvMul x y).1
/-- rne_fp32(x / y). -/
def div32 (x y : FV) : FV :=
  match x, y with
  | .nan _, _ => .nan false
  | _, .nan _ => .nan false
  | .inf _, .inf _ => .nan false
  | .inf a, .num b _ => .inf (xor a b)
  | .num a _, .inf b => .num (xor a b) 0
  | .num a m, .num b n =>
    if n = 0 then (if m = 0 then .nan false else .inf (xor a b)) else r32 (.num (xor a b) (m / n))

/-! ### Working copies (R181, R193) -/

/-- A record as the clip unit works on it: FP32 values, with the stored bits as long as nothing has replaced it. -/
structure Iv where
  tin : FV
  tout : FV
  d : FV
  r : FV
  g : FV
  b : FV
  conf : Nat
  form : Nat
  flags : Nat
  count : Nat
  ids : BitVec 96
  raw : Option (BitVec 256)
  deriving DecidableEq, Repr

/-- d as the clip unit reads it: a negative d and a NaN are +0 (R182). -/
def readDepth (x : FV) : FV :=
  match x with
  | .nan _ => .num false 0
  | .inf n => if n then .num false 0 else x
  | .num n m => if n && m != 0 then .num false 0 else x

/-- The working copy of a record (Table 9-1). -/
def Iv.load (x : BitVec 256) : Iv :=
  let f (o n : Nat) : Nat := (x.extractLsb' o n).toNat
  { tin := fp32.decode (f 0 32), tout := fp32.decode (f 32 32), d := readDepth (fp16.decode (f 64 16)),
    r := fp16.decode (f 80 16), g := fp16.decode (f 96 16), b := fp16.decode (f 112 16), conf := f 128 8, form := f 136 4,
    flags := f 140 4, count := f 144 8, ids := x.extractLsb' 160 96, raw := some x }

/-- The stored form of a working copy: d and L rounded to FP16, the reserved byte 0 (R195). -/
def Iv.store (v : Iv) : BitVec 256 :=
  let h (x : FV) : Nat := fp16.encode (rnd fp16 .rne x).1
  let low : Nat := fp32.encode v.tin + fp32.encode v.tout * 2 ^ 32 + h v.d * 2 ^ 64 + h v.r * 2 ^ 80 + h v.g * 2 ^ 96
    + h v.b * 2 ^ 112 + v.conf * 2 ^ 128 + (v.form + 16 * v.flags) * 2 ^ 136 + v.count * 2 ^ 144
  BitVec.ofNat 256 low ||| (v.ids.setWidth 256 <<< 160)

/-- The bits to keep for a record: those it had if nothing has replaced it. -/
def Iv.keep (v : Iv) : BitVec 256 := v.raw.getD v.store

/-- A point (R182). -/
def Iv.isPoint (v : Iv) : Bool := (fvCompare v.tin v.tout).1.eq
/-- A null record (R182). -/
def Iv.isNull (v : Iv) : Bool := !v.tin.isFin || !v.tout.isFin || v.tout.lt v.tin
/-- d = +inf. -/
def Iv.isOpaque (v : Iv) : Bool := v.d == .inf false

/-! ### The helpers of R191 -/

/-- Capacity in records, by code (R25). -/
def capacity (c : BitVec 2) : Nat :=
  match c.toNat with
  | 0 => 0
  | 1 => 2
  | 2 => 4
  | _ => 8

/-- TMIN as the clip unit reads it. -/
def Strand.tminV (st : Strand) : FV := let x := f32 st.tmin; if x.isNaN then .num false 0 else x
/-- TMAX as the clip unit reads it. -/
def Strand.tmaxV (st : Strand) : FV := let x := f32 st.tmax; if x.isNaN then .inf false else x
/-- TMIN is above TMAX: the list's range is empty. -/
def Strand.emptyRange (st : Strand) : Bool := st.tmaxV.lt st.tminV

/-- deps(). -/
def deps (eps : BitVec 16) : FV :=
  match fp16.decode eps.toNat with
  | .nan _ => .inf false
  | .inf n => if n then .inf false else .num false 0
  | .num n m =>
    if n || m = 0 then .inf false
    else if 1 ≤ m then .num false 0
    else r32 (FV.ofRat (-(log2Rat m)))

/-- Where the record that ends the list's depth cuts it (the inner step of tcut). -/
def cutIn (de acc : FV) (v : Iv) : FV :=
  if v.isPoint || v.isOpaque then v.tin
  else
    let f := div32 (sub32 de acc) v.d
    (fvMinMax false v.tout (add32 v.tin (mul32 f (sub32 v.tout v.tin)))).1

/-- The walk of tcut over the records. -/
def cutWalk (de tmax : FV) : FV → List Iv → FV × Bool
  | _, [] => (tmax, false)
  | acc, v :: r =>
    if v.isOpaque || de.le (add32 acc v.d) then
      let t := cutIn de acc v
      if t.le tmax then (t, true) else (tmax, false)
    else cutWalk de tmax (add32 acc v.d) r

/-- tcut(). -/
def tcut (st : Strand) (l : List Iv) : FV × Bool :=
  if st.emptyRange then (st.tmaxV, false)
  else if (deps st.eps).isZero then (st.tminV, true)
  else cutWalk (deps st.eps) st.tmaxV (.num false 0) l

/-- x and y are the same real or infinity. -/
def FV.same (x y : FV) : Bool := (fvCompare x y).1.eq

/-- part(r, x, y); a depth that its arithmetic makes a NaN (an infinity times 0, or an infinity over an infinity) is stored at once as the
clip unit would read it, +0. DESIGN CHOICE: log 71. -/
def cutPiece (v : Iv) (x y : FV) : Iv :=
  if v.tin.same x && v.tout.same y then v
  else { v with tin := x, tout := y, raw := none,
                d := readDepth (mul32 v.d (div32 (sub32 y x) (sub32 v.tout v.tin))) }

/-! ### Trimming (R192) -/

/-- What a trim leaves of a record. -/
def trimOne (t : FV) (v : Iv) : Option Iv :=
  if v.isPoint then if t.lt v.tin then none else some v
  else if v.isOpaque && v.tin.same t then some { v with tout := v.tin, raw := none }
  else if t.le v.tin then none
  else if t.lt v.tout then some (cutPiece v v.tin t)
  else some v

/-- Trim a list: the records that stay, and OPAQ. -/
def trim (st : Strand) (l : List Iv) : List Iv × Bool :=
  let (t, opq) := tcut st l
  (if st.emptyRange then [] else l.filterMap (trimOne t), opq)

/-! ### Splitting and merging (R194) -/

/-- The record overlaps the new one. -/
def Iv.overlaps (n e : Iv) : Bool :=
  if n.isPoint then !e.isPoint && e.tin.lt n.tin && n.tin.lt e.tout
  else if e.isPoint then n.tin.lt e.tin && e.tin.lt n.tout
  else n.tin.lt e.tout && e.tin.lt n.tout

/-- Put a bound into a rising list, once. -/
def insertBound (t : FV) : List FV → List FV
  | [] => [t]
  | x :: r => if t.same x then x :: r else if t.lt x then t :: x :: r else x :: insertBound t r

/-- The pieces of a record between the bounds strictly inside it, from a left end on. -/
def piecesFrom (v : Iv) (lo : FV) : List FV → List Iv
  | [] => [cutPiece v lo v.tout]
  | t :: r => cutPiece v lo t :: piecesFrom v t r

/-- The pieces of a record between consecutive bounds; a point is one piece. -/
def splitAtBounds (bounds : List FV) (v : Iv) : List Iv :=
  if v.isPoint then [v] else piecesFrom v v.tin (bounds.filter fun t => v.tin.lt t && t.lt v.tout)

/-- One channel of L in a merge. -/
def mergeChannel (de dn le ln : FV) : FV :=
  if de == .inf false then le
  else if dn == .inf false then ln
  else
    let sum := add32 de dn
    if sum.isZero then le
    else div32 (add32 (mul32 de le) (mul32 dn ln)) sum

/-- The fields of a merge of an earlier record e with n (Table of R194), without its range and count. -/
def mergeFields (e n : Iv) : Iv :=
  { e with
    d := add32 e.d n.d, r := mergeChannel e.d n.d e.r n.r, g := mergeChannel e.d n.d e.g n.g, b := mergeChannel e.d n.d e.b n.b,
    conf := min e.conf n.conf, form := if e.form = n.form then e.form else 15, flags := e.flags ||| n.flags,
    ids := if e.d.lt n.d then n.ids else e.ids, raw := none }

/-- Two pieces of one range. -/
def Iv.sameRange (a b : Iv) : Bool := a.tin.same b.tin && a.tout.same b.tout

/-- Merge a piece of the new record into the list, or add it. -/
def mergePiece (l : List Iv) (n : Iv) : List Iv :=
  if l.any (Iv.sameRange n) then
    replaceFirst (Iv.sameRange n) (fun e => { mergeFields e n with count := max e.count n.count }) l
  else l ++ [n]

/-- Ascending (t_in, t_out), earlier list places first among equals. -/
def insertSorted (v : Iv) : List Iv → List Iv
  | [] => [v]
  | x :: r => if v.tin.lt x.tin || (v.tin.same x.tin && v.tout.lt x.tout) then v :: x :: r else x :: insertSorted v r

/-- Sort a list of records. -/
def sortIvs (l : List Iv) : List Iv := l.foldl (fun acc v => insertSorted v acc) []

/-- Steps 3 to 5 of IVINS. -/
def splitMergeSort (l : List Iv) (n : Iv) : List Iv :=
  let bounds := (n :: l.filter n.overlaps).foldl (fun b v => insertBound v.tin (insertBound v.tout b)) []
  let old := l.flatMap fun e => if n.overlaps e then splitAtBounds bounds e else [e]
  sortIvs ((splitAtBounds bounds n).foldl mergePiece old)

/-! ### Overflow (R195) -/

/-- The place of the least element under a strict order, the first among equals. -/
def bestIndex {α : Type} (better : α → α → Bool) : List α → Nat → Option (Nat × α)
  | [], _ => none
  | x :: r, i =>
    match bestIndex better r (i + 1) with
    | some (j, y) => if better y x then some (j, y) else some (i, x)
    | none => some (i, x)

/-- The record to drop comes before another: a lower conf, then a greater t_in, then the later place. -/
def dropsBefore (x y : Nat × Iv) : Bool :=
  decide (x.2.conf < y.2.conf) || (x.2.conf == y.2.conf && (y.2.tin.lt x.2.tin || (x.2.tin.same y.2.tin && decide (y.1 < x.1))))

/-- The gap and the depth of each adjacent pair. -/
def pairKeys : List Iv → List (FV × FV)
  | a :: b :: r => (sub32 b.tin a.tout, add32 a.d b.d) :: pairKeys (b :: r)
  | _ => []

/-- A pair merges before another: a smaller gap, then a smaller depth. -/
def pairBefore (x y : FV × FV) : Bool := x.1.lt y.1 || (x.1.same y.1 && x.2.lt y.2)

/-- Merge the pair at a place. -/
def mergePairAt : Nat → List Iv → List Iv
  | 0, a :: b :: r => { mergeFields a b with tin := a.tin, tout := b.tout, count := min 255 (a.count + b.count + 1) } :: r
  | k + 1, a :: r => a :: mergePairAt k r
  | _, l => l

/-- Add one to a 16-bit counter that stops at its top (R25). -/
def satInc (x : BitVec 16) : BitVec 16 := if x = BitVec.allOnes 16 then x else x + 1

/-- The overflow rule until at most n records are left: list, records dropped and pairs merged so far. With n = 0 a last record that is not
below CDROP has no neighbour to merge with, and goes uncounted. DESIGN CHOICE: log 71. -/
def overflow (cdrop n : Nat) : Nat → List Iv → BitVec 16 → BitVec 16 → List Iv × BitVec 16 × BitVec 16
  | 0, l, dr, mg => (l, dr, mg)
  | fuel + 1, l, dr, mg =>
    if l.length ≤ n then (l, dr, mg)
    else
      match bestIndex dropsBefore ((List.range l.length).zip l) 0, bestIndex pairBefore (pairKeys l) 0 with
      | some (i, (_, v)), pair =>
        if v.conf < cdrop then overflow cdrop n fuel (l.eraseIdx i) (satInc dr) mg
        else match pair with
          | some (j, _) => overflow cdrop n fuel (mergePairAt j l) dr (satInc mg)
          | none => (l.take n, dr, mg)
      | none, _ => (l, dr, mg)

/-! ### The effects on a strand's list -/

/-- The working list. -/
def Strand.ivs (st : Strand) : List Iv := st.recs.map Iv.load

/-- Steps 3 to 7 of IVINS for a clipped record (R194, R195). -/
def Strand.insertRecord (st : Strand) (n : Iv) : Strand :=
  let l := splitMergeSort st.ivs n
  let (l1, dr, mg) := overflow st.cdrop.toNat (capacity st.ncap) l.length l st.ivdrop st.ivmerge
  let (l2, opq) := trim st l1
  { st with recs := l2.map Iv.store, ivdrop := dr, ivmerge := mg, opaq := opq }

/-- IVINS (R193); where a bound of the range and one of the record are zeros of either sign, the record's own bound stays. DEDUCED: log 41.
DESIGN CHOICE: log 71. -/
def Strand.ivins (st : Strand) (x : BitVec 256) : Strand :=
  let v := Iv.load x
  if st.emptyRange || v.isNull || v.tout.lt st.tminV then st
  else
    let (t, _) := tcut st st.ivs
    if t.le v.tin then { st with ivlate := satInc st.ivlate }
    else
      let lo := if v.tin.lt st.tminV then st.tminV else v.tin
      let hi := if t.lt v.tout then t else v.tout
      if !v.isPoint && hi.le lo then st else st.insertRecord (cutPiece v lo hi)

/-- Trim the list in place: a record that nothing replaces keeps its bits (R192). -/
def Strand.trimmed (st : Strand) (l : List Iv) : Strand :=
  let (l1, opq) := trim st l
  { st with recs := l1.map Iv.keep, opaq := opq }

/-- IVCUT (R198); of a TMAX and a cut that are zeros of either sign, TMAX stays. DEDUCED: log 41. DESIGN CHOICE: log 71. -/
def Strand.ivcut (st : Strand) (c : BitVec 32) : Strand :=
  if (f32 c).isNaN then st
  else
    let old : BitVec 32 := if (f32 st.tmax).isNaN then posInf32 else st.tmax
    let st1 := { st with tmax := if (f32 c).lt (f32 old) then c else old }
    st1.trimmed st1.ivs

/-- IVCFG (R200). -/
def Strand.ivcfg (st : Strand) (a : BitVec 64) : Strand :=
  let code : BitVec 2 := a.extractLsb' 32 2
  let ncap : BitVec 2 := if code = 0 then st.ncap else if st.nmax.ult code then st.nmax else code
  let st1 := { st with eps := a.extractLsb' 48 16, cdrop := a.extractLsb' 40 8, ncap := ncap }
  let l := st1.ivs
  let (l1, dr, mg) := overflow st1.cdrop.toNat (capacity ncap) l.length l st1.ivdrop st1.ivmerge
  Strand.trimmed { st1 with ivdrop := dr, ivmerge := mg } l1

/-- exp2_cr(−x, FP32, RNE), 0 for +inf (R97). -/
def exp2Neg (x : FV) : FV := r32 (fvExp2 x.negate).1

/-- IVQRY's register (Table 9-8). -/
def Strand.ivqry (st : Strand) : BitVec 512 × Bool :=
  let l := st.ivs
  let (t, opq) := tcut st l
  let sum := l.foldl (fun a v => add32 a v.d) (.num false 0)
  (ofLaneList ([toF32 .rne t, toF32 .rne (exp2Neg sum), toF32 .rne sum, BitVec.ofNat 32 l.length, st.ivlate.setWidth 32,
    st.ivdrop.setWidth 32, st.ivmerge.setWidth 32, BitVec.ofNat 32 (capacity st.ncap), st.tmin, st.tmax] ++ List.replicate 6 0), opq)

/-- One record of IVCOMP: transmittance and the three channels so far (R201). -/
def compStep (x : FV × FV × FV × FV) (v : Iv) : FV × FV × FV × FV :=
  let (t, r, g, b) := x
  let a := exp2Neg v.d
  let w := mul32 t (sub32 (.num false 1) a)
  (mul32 t a, add32 r (mul32 w v.r), add32 g (mul32 w v.g), add32 b (mul32 w v.b))

/-- IVCOMP's register (R201). -/
def Strand.ivcomp (st : Strand) : BitVec 512 :=
  let z := FV.num false 0
  let (t, r, g, b) := st.ivs.foldl compStep (.num false 1, z, z, z)
  ofLaneList ([toF32 .rne r, toF32 .rne g, toF32 .rne b, toF32 .rne t, BitVec.ofNat 32 st.recs.length] ++ List.replicate 11 0)

/-- A record in lanes 0 to 7 (R181). -/
def ofRecord (x : BitVec 256) : BitVec 512 := x.setWidth 512
/-- Lanes 0 to 7 as a record. -/
def toRecord (v : BitVec 512) : BitVec 256 := v.extractLsb' 0 256

/-- IVMAKE's record (R190). -/
def ivmakeLanes (a b : BitVec 512) : BitVec 512 :=
  let d0 := f32 (lane a 2)
  let d := if d0.isNaN || d0.lt (.num false 0) then FV.num false 0 else d0
  let L := (toF16 (f32 (lane a 3))).toNat + (toF16 (f32 (lane a 4))).toNat * 2 ^ 16 + (toF16 (f32 (lane a 5))).toNat * 2 ^ 32
  let conf := (toCode 22 .rne (f32 (lane a 6))).1
  ofLaneList (recordLanes (lane a 0) (lane a 1) (toF16 d) L conf ((lane a 7).extractLsb' 0 8).toNat (lane b 0).toNat
    (lane b 1).toNat (lane b 2).toNat ++ List.replicate 8 0)

/-! ### The instructions -/

/-- A list instruction: a strand without a list has none (R189), then the allotment, then the sources. One whose guard is false does nothing,
without a list too. DESIGN CHOICE: log 71. -/
def listBody (g : Guard) (vs srcs : List Reg) (f : Strand → List (BitVec 64) → Strand) : Strand → State → Out :=
  guarded g 1 fun st s =>
    if st.nmax = 0 then .trap (illegal)
    else if outsideAllot st vs then .trap regBound
    else (readSources st s srcs none vs).andThen s fun r => .ok (r.2.setMe ((f st r.1).advance 1))

/-- IVMAKE vD, vA, vB (R190): it works without a list. -/
def execIvmake (g : Guard) (d a b : Reg) (s : State) : Host.Outcome State Fault Refusal :=
  runBody (guarded g 1 fun st s =>
    if outsideAllot st [d, a, b] then .trap regBound
    else (readSources st s [] none [d, a, b]).andThen s fun r =>
      .ok (r.2.setMe ((st.setV d (ivmakeLanes (st.v a) (st.v b))).advance 1))) s

/-- IVINS vA (R193 to R195). -/
def execIvins (g : Guard) (a : Reg) (s : State) : Host.Outcome State Fault Refusal :=
  runBody (listBody g [a] [] fun st _ => st.ivins (toRecord (st.v a))) s

/-- IVGET vD, gA (R196). -/
def execIvget (g : Guard) (d a : Reg) (s : State) : Host.Outcome State Fault Refusal :=
  runBody (listBody g [d] [a] fun st vs =>
    st.setV d (match st.recs[(src vs 0).toNat]? with
      | some x => ofRecord x
      | none => missLanes)) s

/-- IVQRY vD, pB (R197). -/
def execIvqry (g : Guard) (d : Reg) (b : BitVec 3) (s : State) : Host.Outcome State Fault Refusal :=
  runBody (listBody g [d] [] fun st _ => let (v, opq) := st.ivqry; (st.setV d v).setP b (if opq then BitVec.allOnes 16 else 0)) s

/-- IVCUT gA (R198). -/
def execIvcut (g : Guard) (a : Reg) (s : State) : Host.Outcome State Fault Refusal :=
  runBody (listBody g [] [a] fun st vs => st.ivcut ((src vs 0).setWidth 32)) s

/-- IVCLR (R199). -/
def execIvclr (g : Guard) (s : State) : Host.Outcome State Fault Refusal :=
  runBody (listBody g [] [] fun st _ => { st with recs := [], opaq := false }) s

/-- IVCOMP vD (R201). -/
def execIvcomp (g : Guard) (d : Reg) (s : State) : Host.Outcome State Fault Refusal :=
  runBody (listBody g [d] [] fun st _ => st.setV d st.ivcomp) s

/-- IVCFG gA (R200). -/
def execIvcfg (g : Guard) (a : Reg) (s : State) : Host.Outcome State Fault Refusal :=
  runBody (listBody g [] [a] fun st vs => st.ivcfg (src vs 0)) s

end Sys2Proof.Machine
end

