-- ==== Sys2Proof/Machine/Records.lean ====
section
/-! DEFINITION. Strands from bytes: what a continuation record with its list block starts (R28 to R32), the MIGR packet (R31), and the full
context read back from its image (R314, R315). -/
namespace Sys2Proof.Machine

/-! ### The continuation record (Table 1-10, R29) -/

/-- NMAX of a record's list header. -/
def recNmax (bs : List (BitVec 8)) : Nat := field bs 120 8 / 2 ^ 34 % 4
/-- COUNT of a record's list header. -/
def recCount (bs : List (BitVec 8)) : Nat := field bs 120 8 % 16
/-- The launch a record names. -/
def recLaunch (bs : List (BitVec 8)) : Nat := field bs 118 2
/-- The crew a record names. -/
def recCrew (bs : List (BitVec 8)) : Nat := field bs 117 1

/-- The length of a record with what follows it (R29). -/
def recLength (bs : List (BitVec 8)) : Nat := if recNmax bs = 0 then 128 else 160 + 32 * recCount bs

/-- A record that software built breaks a rule of R32. -/
def recordBad (codelet : Bool) (bs : List (BitVec 8)) : Bool :=
  let pc := wordAt bs 0
  let status := wordAt bs 104
  let ids := wordAt bs 112
  let ctl := wordAt bs 120
  let ncap : BitVec 2 := ctl.extractLsb' 32 2
  let nmax : BitVec 2 := ctl.extractLsb' 34 2
  pc.extractLsb' 0 2 != 0 || pc.extractLsb' 56 8 != 0
    || status &&& 0xFFFFFFC0FFFFCCF0 != 0
    || ids &&& 0x00000000FCFFFFFF != 0
    || ctl &&& 0x000000F0FFFFFFF0 != 0
    || nmax.ult ncap || decide (capacity ncap < recCount bs)
    || (codelet && nmax != 0)
    || (nmax != 0 && (!zeroRange bs 144 16 || wordAt bs 136 &&& 0xFFFE != 0))

/-- The list a record and its block hold. -/
def Strand.withList (st : Strand) (ctl range stat : BitVec 64) (recs : List (BitVec 256)) : Strand :=
  { st with eps := ctl.extractLsb' 48 16, cdrop := ctl.extractLsb' 40 8, nmax := ctl.extractLsb' 34 2, ncap := ctl.extractLsb' 32 2,
            tmax := range.extractLsb' 32 32, tmin := range.extractLsb' 0 32, ivlate := stat.extractLsb' 48 16,
            ivdrop := stat.extractLsb' 32 16, ivmerge := stat.extractLsb' 16 16, opaq := stat.getLsbD 0, recs := recs }

/-- g1 to g10 and the predicates of a record, in a window at base 0 (R30). -/
def Strand.withRecordRegs (st : Strand) (bs : List (BitVec 8)) : Strand :=
  { st with
    fixed := (List.range 7).foldl (fun m i => NMap.set m (i + 1) (wordAt bs (8 + 8 * i))) []
    stk := (List.range 3).foldl (fun m i => NMap.set m (st.winbase + i) (wordAt bs (64 + 8 * i))) st.stk
    preds := (List.range 7).foldl (fun m i => NMap.set m (i + 1) (BitVec.ofNat 16 (field bs (90 + 2 * i) 2))) [] }

/-- A strand that starts from a continuation record (R30), before its slot gives it the rest; its PC has bits [1:0] zero (R75). -/
def Strand.ofRecord (codelet : Bool) (bs : List (BitVec 8)) : Strand :=
  let status := wordAt bs 104
  let bad := recordBad codelet bs
  let st : Strand := { Strand.zero with
    pc := alignPc (wordAt bs 0), rm := status.extractLsb' 8 2, ftz := status.getLsbD 2, fpflags := status.extractLsb' 32 6,
    launch := recLaunch bs, crew := recCrew bs, index := field bs 116 1, stage := field bs 115 1 % 4, cdl := codelet,
    badRecord := bad }
  let ctl := wordAt bs 120
  let listed := st.withRecordRegs bs
  if recNmax bs = 0 || bad then
    listed.withList (if bad then ctl &&& 0xFFFFFFFFFFFFFFF0 else ctl) 0x7F80000000000000 0 []
  else
    listed.withList ctl (wordAt bs 128) (wordAt bs 136)
      ((List.range (recCount bs)).map fun i => BitVec.ofNat 256 (field bs (160 + 32 * i) 32))

/-- What a MIGR packet carries of a strand (R30, R31): ivrange and ivstat travel also with NMAX = 00. DESIGN CHOICE: log 69. -/
def Strand.packet (st : Strand) : Strand :=
  { Strand.zero with
    pc := st.pc, fixed := st.fixed
    stk := (List.range 3).foldl (fun m i => NMap.set m i (st.g (BitVec.ofNat 5 (8 + i)))) []
    preds := st.preds, rm := st.rm, ftz := st.ftz, fpflags := st.fpflags, part := st.part, launch := st.launch, crew := st.crew,
    index := st.index, stage := st.stage, ovfptr := st.ovfptr, epc := st.epc, cause := st.cause, faddr := st.faddr,
    hm := st.hm, priv := st.priv, cdl := st.cdl, eps := st.eps, cdrop := st.cdrop, nmax := st.nmax, ncap := st.ncap,
    ivlate := st.ivlate, ivdrop := st.ivdrop, ivmerge := st.ivmerge, opaq := st.opaq, tmax := st.tmax, tmin := st.tmin,
    recs := st.recs, hinted := st.hinted, uid := st.uid }

/-! ### The full context (Tables 16-4, 16-5) -/

/-- A paused command read back from its record, for tag t of a slot. -/
def Command.ofPaused (bs : List (BitVec 8)) (part launch cell slot : Nat) (coll : Bool) : Command :=
  let ws := (List.range 5).map fun i => (BitVec.ofNat 32 (field bs (4 * i) 4) : BitVec 32)
  let w : Words := ⟨ws.getD 0 0, ws.getD 1 0, ws.getD 2 0, ws.getD 3 0, ws.getD 4 0⟩
  { id := 0, part := part, launch := launch, cell := cell, slot := slot, words := ws, coll := coll,
    kind := (w.w0.extractLsb' 2 7).toNat - 0x45, dst := wordAt bs 32, src := wordAt bs 40, third := wordAt bs 48,
    eng := w.engine, replica := w.litOpt, desc := (bs.drop 64).take 128, started := false, waited := field bs 56 8 != 0,
    startAt := field bs 56 8, indexed := [], loaded := [], stored := [], blocks := [], refetched := [], replicas := [], job := none, rewritten := [], teDone := 0, status := 0, stopped := false,
    hold := .poll, holdAt := 0, holdLine := 0, phase := 0, progress := field bs 56 8, entry := 0, table := none, run := 0 }

/-- A context image breaks a rule of Table 16-5, or a region that must be zero is not; a winbase with a bit above its 25 is refused too.
DESIGN CHOICE: log 49. -/
def contextBad (bs : List (BitVec 8)) : Bool :=
  let f (o n : Nat) : Nat := field bs o n
  let wait := f 0x202 1
  let allot := f 0x203 1
  let tfirst := f 0x204 1
  let tcount := f 0x205 1
  let nstk := f 0x206 1
  let slot := f 0x207 1
  let out := f 0x208 8
  let count := if recNmax bs = 0 then 0 else min 8 (recCount bs)
  f 0x200 1 != 1 || decide (3 < f 0x201 1) || decide (5 < wait) || decide (32 < allot) || decide (15 < tfirst)
    || decide (16 < tfirst + tcount) || decide (15 < slot) || nstk != residentCount (f 0x2C8 8)
    || out / 2 ^ (4 * slot) % 16 * 2 ^ (4 * slot) != out || (wait != 2 && f 0x210 8 != 0) || f 0x210 8 % 64 != 0
    || (wait != 1 && f 0x218 8 != 0) || f 0x220 2 != recLaunch bs || !zeroRange bs 0x224 28
    || decide (2 ^ 25 ≤ f 0x2C8 8)
    || (recNmax bs == 0 && !zeroRange bs 0x80 32) || !zeroRange bs (0xA0 + 32 * count) (256 - 32 * count)
    || !zeroRange bs 0x1A0 96 || !zeroRange bs 0x2F0 272 || !zeroRange bs (0x400 + 8 * nstk) (384 - 8 * nstk)
    || !zeroRange bs 0x580 640
    || ((List.range 64).any fun t => out / 2 ^ t % 2 == 0 && !zeroRange bs (0x800 + 256 * t) 256)
    || ((List.range 64).any fun t => !zeroRange bs (0x814 + 256 * t) 12 || !zeroRange bs (0x8C0 + 256 * t) 64)
    || !zeroRange bs (0x4800 + 64 * allot) (2048 - 64 * allot) || !zeroRange bs (0x5000 + 8 * tcount) (128 - 8 * tcount)
    || !zeroRange bs 0x5080 12160 || !zeroRange bs (0x8000 + 4096 * tcount) (65536 - 4096 * tcount) || !zeroRange bs 0x18000 32768

/-- What a write of ovfptr stores (Table 1-9): reserved bits are zero, and so is LOG2SZ for a size that is none. -/
def ovfptrWrite (v : BitVec 64) : BitVec 64 :=
  let n := (v.extractLsb' 58 6).toNat
  let size : BitVec 64 := if n = 0 || (12 ≤ n && n ≤ 27) then BitVec.ofNat 64 n else 0
  (size <<< 58) ||| (v &&& 0x00FFFFFFFFFFFFF8)

/-- The context an image holds (R314, R315); its registers keep to their own rules whatever the image holds in their reserved bits (R27,
R75). DEDUCED: log 49. -/
def Ctx.ofImage (bs : List (BitVec 8)) (part cell uid : Nat) : Ctx :=
  let f (o n : Nat) : Nat := field bs o n
  let winbase := f 0x2C8 8
  let nstk := f 0x206 1
  let lo := winbase + 20 - nstk
  let slot := f 0x207 1
  let status := wordAt bs 104
  let count := if recNmax bs = 0 then 0 else min 8 (recCount bs)
  let ovf := wordAt bs 0x2D0
  let st0 : Strand := { Strand.zero with
    pc := alignPc (wordAt bs 0)
    stk := (List.range nstk).foldl (fun m i => NMap.set m (lo + i) (wordAt bs (0x400 + 8 * i))) []
    winbase := winbase, depth := f 110 2, rm := status.extractLsb' 8 2, ftz := status.getLsbD 2, priv := status.getLsbD 1,
    hm := status.getLsbD 0, cdl := status.getLsbD 13, msgb := status.getLsbD 12, fpflags := status.extractLsb' 32 6,
    launch := recLaunch bs, crew := recCrew bs, index := f 116 1, stage := f 115 1 % 4, part := part,
    ovfptr := ovfptrWrite ovf, epc := wordAt bs 0x2D8 &&& 0x00FFFFFFFFFFFFFC, cause := BitVec.ofNat 16 (f 0x2E0 2), faddr := wordAt bs 0x2E8,
    allot := f 0x203 1, tfirst := f 0x204 1, tcount := f 0x205 1,
    vregs := (List.range (f 0x203 1)).foldl (fun m i => NMap.set m i (BitVec.ofNat 512 (f (0x4800 + 64 * i) 64))) []
    notice := f 0x202 1 == 5, arrived := if f 0x202 1 = 1 then some (f 0x218 8) else none
    badRecord := recordBad false ((bs.take 160).set 110 0 |>.set 111 0)
    paused := ((List.range 64).filter fun t => f 0x208 8 / 2 ^ t % 2 == 1).map fun t =>
      (t, Command.ofPaused ((bs.drop (0x800 + 256 * t)).take 256) part (recLaunch bs) cell slot false)
    uid := uid }
  let st1 := (st0.withRecordRegs bs).withList (wordAt bs 120) (if recNmax bs = 0 then 0x7F80000000000000 else wordAt bs 128)
    (if recNmax bs = 0 then 0 else wordAt bs 136) ((List.range count).map fun i => BitVec.ofNat 256 (f (0xA0 + 32 * i) 32))
  { strand := st1, reason := f 0x201 1, waitCode := f 0x202 1, slot := slot, pcn := f 0x222 2, wline := f 0x210 8 / 64,
    phase := f 0x218 8,
    tileCfg := (List.range (f 0x205 1)).map fun i => BitVec.ofNat 32 (f (0x5000 + 8 * i) 4)
    tiles := (List.range (f 0x205 1)).map fun i => (bs.drop (0x8000 + 4096 * i)).take 4096
    source := 6, order := uid, arrival := none }

end Sys2Proof.Machine
end

