-- ==== Sys2Proof/Machine/Launches.lean ====
section
/-! DEFINITION. What launches, crews and message classes ask of the state: whether a launch still runs (R293), whether a
predecessor does (R301), the arrival of something a bound slot waits for (R51, R295), the pushing of codelets (R211) and the
steps by which values leave stage queues (R303). -/
namespace Sys2Proof.Machine

/-! ### Is a launch still running (R293) -/

/-- Every saved context of the machine. -/
def State.contexts (s : State) : List Ctx :=
  s.clusters.flatMap (fun k => k.2.ctxs.map Prod.snd) ++ s.parts.flatMap fun p => p.2.area.map Prod.snd

/-- A cell belongs to a partition. -/
def State.cellIn (s : State) (p cell : Nat) : Bool := (s.cluster (cell / 8)).owner.map Prod.fst == some p

/-- Some record or codelet of a launch waits on a cell. -/
def Cell.holdsRecord (c : Cell) (l : Nat) : Bool :=
  c.ring.any (fun r => r.launch == l) || c.runq.any fun r => recLaunch r.2 == l

/-- Strands of a launch, wherever they are: in slots, saved, in transit, or as records (R213, R293). -/
def State.anyStrand (s : State) (p l : Nat) : Bool :=
  s.slots.any (fun x => x.2.part == p && x.2.launch == l)
    || s.contexts.any (fun x => x.strand.part == p && x.strand.launch == l)
    || s.clusters.any (fun k => k.2.migrants.any fun m => m.2.part == p && m.2.launch == l)
    || s.cells.any (fun c => s.cellIn p c.1 && c.2.holdsRecord l)

/-- A crew has been placed, and its images are written. -/
def Crew.started (c : Crew) : Bool := c.cluster.isSome && c.boot.isEmpty

/-- A launch has strands, records, run-queue entries, or crews that have yet to start. -/
def State.launchBusy (s : State) (p : Nat) (l : Nat × Launch) : Bool :=
  l.2.crews.any (fun c => !c.2.started || c.2.m != 0 || !c.2.runq.isEmpty || !c.2.chain.isEmpty) || s.anyStrand p l.1

/-- A queue. -/
def State.hq (s : State) (q : Nat) : HostQueue := NMap.getD s.hqs q HostQueue.fresh

/-- A command that a predecessor entry names has yet to be fetched or dispatched (R301). -/
def HostQueue.awaits (x : HostQueue) (seq : Nat) : Bool :=
  x.cmds.any (fun c => !c.dispatched && c.n % 2 ^ 31 == seq && field c.bytes 4 1 == 1)
    || decide ((seq + 2 ^ 31 - x.cons.toNat % 2 ^ 31) % 2 ^ 31 < (x.prod - x.cons).toNat)

/-- A launch is the one a predecessor entry names: the command of a queue by its sequence number, or, for a task graph, the node
of the REPLAY that is command `cmd` of queue `q`, written as queue `(cmd + 1) · 2¹⁴ + q`. -/
def Launch.isPred (l : Launch) (e : Nat × Nat) : Bool :=
  match l.node with
  | none => l.queue == e.1 && l.cmd % 2 ^ 31 == e.2
  | some (_, i, _) => (l.cmd + 1) * 2 ^ 14 + l.queue == e.1 && i == e.2

/-- The live launch that a predecessor entry names. -/
def State.pred? (s : State) (p : Nat) (e : Nat × Nat) : Option (Nat × Launch) :=
  (s.part? p).bind fun x => x.launches.find? fun l => l.2.isPred e

/-- A predecessor's strands have not all halted (R214). -/
def State.predRuns (s : State) (p : Nat) (e : Nat × Nat) : Bool :=
  match s.pred? p e with
  | some l => s.launchBusy p l
  | none => decide (e.1 < 2 ^ 14) && (s.hq e.1).awaits e.2

/-- A predecessor launch has not ended (R301). -/
def State.predLive (s : State) (p : Nat) (e : Nat × Nat) : Bool :=
  (s.pred? p e).isSome || (decide (e.1 < 2 ^ 14) && (s.hq e.1).awaits e.2)

/-! ### Message-class arrivals (R205, R294, R295) -/

/-- What has arrived: a value on a crew's stage queue, on a device queue, or a word in a receive queue. -/
inductive Arrival where
  | stage (launch crew src : Nat)
  | device (qnum : Nat)
  | port (cell q : Nat)
  deriving DecidableEq, Repr

/-- The number of the slot a context was saved from. -/
def State.ctxSlot (s : State) (x : Ctx) : Option Nat := (s.cellAt x.strand.part x.pcn).map fun c => c * 16 + x.slot

/-- A context waits for an arrival (Table 15-2, source 1). -/
def State.waitsFor (s : State) (part : Nat) (a : Arrival) (x : Ctx) : Bool :=
  x.source == 1 && x.arrival.isNone && x.strand.part == part &&
    match s.ctxSlot x with
    | none => false
    | some n =>
      match a with
      | .stage l k src =>
        x.strand.launch == l &&
          (match s.slotBind n x.strand with
            | 1 => x.strand.crew == k && x.strand.stage == src + 1
            | 3 =>
              s.hostCrew (cellOf n) x.strand == k &&
                (match s.crew? part l k with
                  | some c => c.bound.extractLsb' 46 2 == 1 && (c.bound.extractLsb' 0 16).toNat == src
                  | none => false)
            | _ => false)
      | .device q =>
        s.slotBind n x.strand == 3 &&
          (match s.crew? part x.strand.launch (s.hostCrew (cellOf n) x.strand) with
            | some c => c.bound.extractLsb' 46 2 == 0 && (c.bound.extractLsb' 0 16).toNat == q
            | none => false)
      | .port cell q =>
        cell == cellOf n && s.slotBind n x.strand == 2
          && ((s.cell cell).port q).owner == some (part, x.strand.launch, slotOf n)

/-- Note an arrival in every saved context that waits for it (R295), those in memory too: the first one since its saving orders it. -/
def State.arrive (s : State) (part : Nat) (a : Arrival) : State :=
  let mark (x : Ctx) : Ctx := if s.waitsFor part a x then { x with arrival := some s.serial } else x
  { s with
    clusters := s.clusters.map fun k => (k.1, { k.2 with ctxs := k.2.ctxs.map fun x => (x.1, mark x.2) })
    parts := s.parts.map fun p => (p.1, { p.2 with
      area := p.2.area.map fun x => (x.1, mark x.2)
      launches := p.2.launches.map fun l => (l.1, { l.2 with away := l.2.away.map fun a => { a with ctx := mark a.ctx } }) })
    serial := s.serial + 1 }

/-! ### Stage queues (R303) -/

/-- The values of a crew's stage queue from a source stage. -/
def Crew.stageValues (c : Crew) (src : Nat) : List (BitVec 64) := NMap.getD c.stageq src []

/-- DEPTH of the stage queue from a stage: 0 when it does not exist (R206). -/
def Launch.depth (l : Launch) (src : Nat) : Nat := if src < 3 then l.stageFld src 3 else 0

/-- The first of the strands that wait on a stage queue. -/
def Crew.firstTaker (c : Crew) (src : Nat) : Option Nat := (c.takers.find? fun t => t.2 == src).map Prod.fst

/-- Take the oldest value for the strand in slot n, which joins the takers when it cannot: the value, if there is one, and
the crew. -/
def Crew.take (c : Crew) (n src : Nat) : Option (BitVec 64) × Crew :=
  let queued := if c.takers.contains (n, src) then c else { c with takers := c.takers ++ [(n, src)] }
  match c.stageValues src with
  | v :: rest =>
    if queued.firstTaker src = some n then
      (some v, { queued with stageq := NMap.set c.stageq src rest, takers := queued.takers.filter fun t => t != (n, src) })
    else (none, queued)
  | [] => (none, queued)

/-! ### Codelets (R211) -/

/-- The codelet record at an LMEM offset of a cell. -/
def State.codeletRecord (s : State) (cell off : Nat) : List (BitVec 8) := s.bytes (lmemBase cell + off) 128

/-- The launch and crew that a pushed codelet counts in: the crew of the record's launch on that cell. -/
def State.codeletOwner (s : State) (p cell off : Nat) : Nat × Nat :=
  let r := s.codeletRecord cell off
  let l := recLaunch r
  (l, (((s.launch? p l).bind fun x => x.windowOn cell).map Prod.fst).getD (recCrew r))

/-- Push a codelet: onto the cell's ready ring, else onto the crew's memory run queue, else it is lost with a crew error
record (R211, R297). -/
def State.pushCodelet (s : State) (p cell off : Nat) : State :=
  let (l, k) := s.codeletOwner p cell off
  let r : CodeletRef := ⟨s.serial, cell, off, l, k⟩
  let s1 := { s with serial := s.serial + 1 }
  let c := s1.cell cell
  if c.ring.length < 64 then (s1.setCell cell { c with ring := c.ring ++ [r] }).crewGrow p l k
  else
    match s1.crew? p l k with
    | some x =>
      if x.runq.length < 4096 then
        (s1.modCrew p l k fun y => { y with runq := y.runq ++ [⟨none, some r, none, true⟩] }).crewGrow p l k
      else s1.postError p (lost s r)
    | none => s1.postError p (lost s r)
where
  /-- The record of a lost push. -/
  lost (s : State) (r : CodeletRef) : ErrRec :=
    let b := s.codeletRecord r.cell r.off
    errRecord 0 r.launch r.crew (field b 116 1) (field b 115 1 % 4) 0x0E07 0 2 (s.pcn r.cell)

/-- The decrement of a codelet counter and the push that may follow (R211). -/
def State.decrement (s : State) (p cell off : Nat) : State :=
  let a := lmemBase cell + off
  let old := leNat (s.bytes a 8)
  let s1 := s.storeHome a (leBytes ((old + (2 ^ 64 - 1)) % 2 ^ 64) 8)
  if old = 1 then s1.pushCodelet p cell (off + 128) else s1

/-- The cell and offset of a codelet block's address: the whole block of 256 bytes lies in one window (R210, R211). -/
def State.codeletAt (s : State) (p : Nat) (a : BitVec 64) : Option (Nat × Nat) :=
  if a.extractLsb' 48 16 != 0xFF then none
  else
    let o := a.toNat % 2 ^ 17
    if 98304 < o + 256 then none else (s.cellAt p (a.toNat % 2 ^ 48 / 2 ^ 17)).map fun cell => (cell, o)

end Sys2Proof.Machine
end

