-- ==== Sys2Proof/Machine/Tasks.lean ====
section
/-! DEFINITION. Messages, tasks and synchronisation (R203 to R215, R224, R225): RECVW, MIGR, SPAWN, CDEC, HINTSUCC, WAITPRED,
ENQ, DEQ, TASKGET, BAR, SEMW, SEMS, TAGW and TAGF. -/
namespace Sys2Proof.Machine

/-- A codelet never waits (R211): the instruction raises PERMISSION with the codelet subcode, behind that of its ports (R74). -/
def waiting (srcs : List Reg) (dst : Option Reg) (body : Strand → State → Out) (st : Strand) (s : State) : Out :=
  if st.cdl then .trap ((s.portTrap st srcs dst).getD (permission 18)) else body st s

/-- Write a scalar register of the acting strand and retire. -/
def answer (s : State) (words : Nat) (d : Reg) (v : BitVec 64) : Out :=
  match s.me? with
  | none => .ok s
  | some st => .ok (s.setMe ((st.setG d v).advance words))

/-- Write a predicate of the acting strand and retire. -/
def answerP (s : State) (words : Nat) (d : BitVec 3) (v : BitVec 16) : Out :=
  match s.me? with
  | none => .ok s
  | some st => .ok (s.setMe ((st.setP d v).advance words))

/-! ### Queue handles (Table 10-2, R207) -/

/-- KIND of a handle. -/
def handleKind (h : BitVec 64) : Nat := (h.extractLsb' 46 2).toNat
/-- QNUM of a handle. -/
def handleNum (h : BitVec 64) : Nat := (h.extractLsb' 0 16).toNat

/-- A device queue. -/
def State.devq (s : State) (p q : Nat) : DevQueue :=
  ((s.part? p).bind fun x => NMap.get? x.queues q).getD ⟨0, false, 0, 0, 0, []⟩

/-- Change a device queue. -/
def State.setDevq (s : State) (p q : Nat) (x : DevQueue) : State := s.modPart p fun y => { y with queues := NMap.set y.queues q x }

/-- DEPTH of the stage queue from a stage in a strand's launch. -/
def State.stageDepth (s : State) (st : Strand) (src : Nat) : Nat := ((s.launch? st.part st.launch).map fun l => l.depth src).getD 0

/-- validate of R207. -/
def State.validate (s : State) (st : Strand) (h : BitVec 64) : Res Unit :=
  let k := handleKind h
  let q := handleNum h
  if h.extractLsb' 16 30 != 0 || decide (2 ≤ k) || (k == 0 && decide (4095 < q))
      || (k == 1 && (decide (4 ≤ q) || h.extractLsb' 48 16 != 0 || s.stageDepth st q == 0)) then .trap (permission 4)
  else if k = 0 && (!(s.devq st.part q).live || (s.devq st.part q).gen != h.extractLsb' 48 16) then .trap (permission 5)
  else .ok ()

/-- Take the oldest value of a crew's stage queue for the acting strand, in the order in which strands began to wait
(R303). -/
def takeStage (st : Strand) (s : State) (crew src : Nat) (d : Reg) (k : WaitKind) : Out :=
  match s.crew? st.part st.launch crew with
  | none => .wait k s
  | some c =>
    let r := c.take s.actor src
    let s1 := s.modCrew st.part st.launch crew fun _ => r.2
    match r.1 with
    | some v => answer s1 1 d v
    | none => .wait k s1

/-- Take the oldest value of a device queue for the acting strand. -/
def takeDevice (st : Strand) (s : State) (q : Nat) (d : Reg) (k : WaitKind) : Out :=
  let x := s.devq st.part q
  match x.values with
  | v :: rest => if x.live then answer (s.setDevq st.part q { x with values := rest }) 1 d v else .wait k s
  | [] => .wait k s

/-- The handle that an enq-bound slot receives from (R205): that of the crew whose window it lies in. -/
def State.boundHandle (s : State) (n : Nat) (st : Strand) : BitVec 64 :=
  ((s.crew? st.part st.launch (s.hostCrew (cellOf n) st)).map Crew.bound).getD 0

/-- The receive queues that the acting slot owns and that hold a word, as a mask (R205). -/
def State.portMask (s : State) (st : Strand) : Nat :=
  ((List.range 4).filter fun q =>
    let p := (s.cell (cellOf s.actor)).port q
    p.owner == some (st.part, st.launch, slotOf s.actor) && !p.words.isEmpty).foldl (fun m q => m + 2 ^ q) 0

/-- RECVW (R205); where the bound handle is one that R207's validate refuses, it goes by KIND and QNUM alone, and waits where KIND names no
queue. DEDUCED: log 42. DESIGN CHOICE: log 42. -/
def recvwBody (g : Guard) (d : Reg) : Strand → State → Out :=
  guarded g 1 (waiting [] (some d) fun st s =>
    if !st.msgb then .trap (permission 3)
    else
      (readSources st s [] (some d)).andThen s fun _ =>
        match s.slotBind s.actor st with
        | 1 => if st.stage = 0 then .trap (permission 3) else takeStage st s st.crew (st.stage - 1) d .recv
        | 2 =>
          let m := s.portMask st
          if m = 0 then .wait .recv s else answer s 1 d (BitVec.ofNat 64 m)
        | 3 =>
          let h := s.boundHandle s.actor st
          match handleKind h with
          | 0 => takeDevice st s (handleNum h) d .recv
          | 1 => takeStage st s (s.hostCrew (cellOf s.actor) st) (handleNum h) d .recv
          | _ => .wait .recv s
        | _ => .trap (permission 3))

/-- ENQ (R207). DEDUCED: log 42. -/
def enqBody (g : Guard) (a b : Reg) : Strand → State → Out :=
  guarded g 1 fun st s =>
    (readSources st s [a, b] none).andThen s fun r =>
      let h := src r.1 0
      let v := src r.1 1
      let q := handleNum h
      (s.validate st h).andThen s fun _ =>
        if handleKind h = 1 then
          if st.stage != q then .trap (permission 4)
          else
            let held := ((s.crew? st.part st.launch st.crew).map fun c => (c.stageValues q).length).getD 0
            if s.stageDepth st q ≤ held then .wait .enqFull s
            else settled false st s fun st1 s1 =>
              .ok (retire ((s1.modCrew st1.part st1.launch st1.crew fun c =>
                { c with stageq := NMap.set c.stageq q (c.stageValues q ++ [v]) }).arrive st1.part (.stage st1.launch st1.crew q)) 1)
        else
          let x := s.devq st.part q
          if x.cap ≤ x.values.length then .wait .enqFull s
          else settled false st s fun st1 s1 =>
            .ok (retire ((s1.setDevq st1.part q { x with values := x.values ++ [v] }).arrive st1.part (.device q)) 1)

/-- The wait of a DEQ: on the slot's bound queue it is the wait for a class arrival (Table 15-2). -/
def State.deqWait (s : State) (st : Strand) (h : BitVec 64) : WaitKind :=
  match s.slotBind s.actor st with
  | 1 => if st.msgb && handleKind h == 1 then .recv else .poll
  | 3 =>
    if st.msgb && s.boundHandle s.actor st == h && (handleKind h != 1 || s.hostCrew (cellOf s.actor) st == st.crew) then .recv else .poll
  | _ => .poll

/-- DEQ (R207). -/
def deqBody (g : Guard) (d a : Reg) : Strand → State → Out :=
  guarded g 1 (waiting [a] (some d) fun st s =>
    (readSources st s [a] (some d)).andThen s fun r =>
      let h := src r.1 0
      let q := handleNum h
      (s.validate st h).andThen s fun _ =>
        if handleKind h = 1 then
          if st.stage != q + 1 then .trap (permission 4) else takeStage st s st.crew q d (s.deqWait st h)
        else takeDevice st s q d (s.deqWait st h))

/-! ### MIGR and SPAWN -/

/-- The cluster ordinal MIGR goes to (R208): that of the window's cell, or the HOME of the leaf. DEDUCED: log 43. -/
def State.migrTarget (s : State) (st : Strand) (a : BitVec 64) : Res Nat :=
  (s.reach st .read a).bind fun spot => .ok (if a.extractLsb' 48 16 == 0xFF then a.toNat % 2 ^ 48 / 2 ^ 17 / 8 else spot.home)

/-- The strand leaves its slot as a packet for a cluster (R31, R208). -/
def sendPacket (st : Strand) (s : State) (k : Nat) : State :=
  let c := s.cluster k
  let s1 := { s.leaveStack s.actor st with slots := NMap.erase s.slots s.actor }
  s1.setCluster k { c with migrants := c.migrants ++ [(false, { st with pc := st.pc + 4 }.packet)] }

/-- MIGR (R208). DEDUCED: log 43. -/
def migrBody (g : Guard) (a : Reg) : Strand → State → Out :=
  guarded g 1 fun st s =>
    (readSources st s [a] none).andThen s fun r =>
      let va := src r.1 0
      (s.migrTarget st va).andThen s fun ord =>
        match s.clusterAt st.part ord with
        | none => .trap (permission 16 va)
        | some k =>
          if !(((s.launch? st.part st.launch).map fun l => l.crews.any fun c => c.2.cluster == some k).getD false) then
            .trap (permission 16 va)
          else if st.depth != 0 then .trap (mkTrap 0x0B 0 va)
          else if !((s.cell (cellOf s.actor)).outstanding (slotOf s.actor)).isEmpty then .trap (mkTrap 0x0B 1 va)
          else if k = clusterOf s.actor then .ok (retire s 1)
          else settled false st s fun st1 s1 => .ok (sendPacket st1 s1 k)

/-- The list capacity code of a launch (Table 15-1, LIST). -/
def Launch.listCode (l : Launch) : Nat := l.fld 5 1 % 4

/-- The copy of a record that SPAWN sends (R209): the crew index is the target crew's. -/
def spawnCopy (bs : List (BitVec 8)) (crew : Nat) : List (BitVec 8) := bs.set 117 (BitVec.ofNat 8 crew)

/-- Append a record to a cell's local run queue, or bounce it (R209). DEDUCED: log 44. -/
def spawnTo (st : Strand) (s : State) (cell : Nat) (bs : List (BitVec 8)) (d : BitVec 3) : Out :=
  let c := s.cell cell
  match (s.launch? st.part st.launch).bind fun l => l.windowOn cell with
  | some (crew, _, _) =>
    if c.runq.length < 32 then
      let s1 := { s with serial := s.serial + 1 }
      answerP ((s1.setCell cell { c with runq := c.runq ++ [(s.serial, spawnCopy bs crew)] }).crewGrow st.part st.launch crew) 1 d
        (BitVec.allOnes 16)
    else answerP s 1 d 0
  | none => answerP s 1 d 0

/-- SPAWN (R209). DEDUCED: log 44. -/
def spawnBody (g : Guard) (d : BitVec 3) (a b : Reg) : Strand → State → Out :=
  guarded g 1 fun st s =>
    (readSources st s [a, b] none).andThen s fun r =>
      let va := src r.1 0
      let t := src r.1 1
      if va.toNat % 128 != 0 then .trap (alignTrap 2 va)
      else
        match if t.extractLsb' 16 48 != 0 then none else s.cellAt st.part t.toNat with
        | none => .trap (permission 16)
        | some cell =>
          wideRead st s s 0 va 128 128 fun bs s1 =>
            let code := ((s.launch? st.part st.launch).map Launch.listCode).getD 0
            if recLaunch bs != st.launch || decide (code < recNmax bs) then .trap (permission 15 va)
            else
              let send (all : List (BitVec 8)) (s2 : State) : Out :=
                match (s2.drainWc s.actor).me? with
                | none => .ok s2
                | some st2 => spawnTo st2 (s2.drainWc s.actor) cell all d
              if recNmax bs = 0 then send bs s1
              else
                match s1.me? with
                | none => .ok s1
                | some st1 => wideRead st1 s1 s 0 (va + 128) (recLength bs - 128) 1 fun more s2 => send (bs ++ more) s2

/-- CDEC (R211). -/
def cdecBody (g : Guard) (a : Reg) : Strand → State → Out :=
  guarded g 1 fun st s =>
    (readSources st s [a] none).andThen s fun r =>
      let va := src r.1 0
      match s.codeletAt st.part va with
      | none => .trap (permission 16 va)
      | some (cell, off) =>
        if va.toNat % 128 != 0 then .trap (alignTrap 2 va)
        else settled false st s fun st1 s1 =>
          if s1.isPoisoned (lineOf (lmemBase cell + off)) then .trap (translation 4 va)
          else .ok (retire (s1.decrement st1.part cell off) 1)

/-! ### TASKGET, BAR and dependent launches -/

/-- The answer of the dispenser and the launch after it (R299). -/
def Launch.dispense (l : Launch) : BitVec 64 × Launch :=
  let strands := l.nCrews * l.nCells * l.nSlots
  if l.remaining = 0 then (0, l)
  else
    let c := min l.remaining (max (l.fld 136 4) ((l.remaining + 2 * strands - 1) / (2 * strands)))
    (BitVec.ofNat 64 (l.next % 2 ^ 32 + c * 2 ^ 32), { l with next := l.next + c, remaining := l.remaining - c })

/-- TASKGET (R212). -/
def taskgetBody (g : Guard) (d : Reg) : Strand → State → Out :=
  guarded g 1 fun st s =>
    (readSources st s [] (some d)).andThen s fun _ =>
      match s.launch? st.part st.launch with
      | none => answer s 1 d 0
      | some l => answer (s.modLaunch st.part st.launch fun _ => l.dispense.2) 1 d l.dispense.1

/-- BAR (R213): a strand that has arrived in a phase, before or since it was saved, waits for that phase to open and does not arrive
again. DEDUCED: log 45. -/
def barBody (g : Guard) : Strand → State → Out :=
  guarded g 1 (waiting [] none fun st s =>
    let now (t : State) : Nat := ((t.crew? st.part st.launch st.crew).map Crew.phase).getD 0
    let arrive : Out := settled false st s fun _ s1 =>
      let s2 := s1.modCrew st.part st.launch st.crew fun c => Crew.checkBar { c with a := c.a + 1 }
      if now s2 = now s1 then .wait (.bar (now s1)) s2 else .ok (retire s2 1)
    let arrived (ph : Nat) : Out := if now s = ph then .wait (.bar ph) s else .ok (s.setMe ({ st with arrived := none }.advance 1))
    match st.wait, st.arrived with
    | some ⟨.bar ph, _⟩, _ => arrived ph
    | _, some ph => arrived ph
    | _, none => arrive)

/-- HINTSUCC (R214). -/
def hintsuccBody (g : Guard) : Strand → State → Out := guarded g 1 fun st s => .ok (s.setMe ({ st with hinted := true }.advance 1))

/-- The predecessors a launch waits for. -/
def State.predsOf (s : State) (st : Strand) : List (Nat × Nat) := ((s.launch? st.part st.launch).map Launch.preds).getD []

/-- WAITPRED (R214): a halted strand's writes are performed (R123). -/
def waitpredBody (g : Guard) : Strand → State → Out :=
  guarded g 1 (waiting [] none fun st s =>
    if (s.predsOf st).any fun e => s.predRuns st.part e then .wait .poll s else .ok (retire s 1))

/-! ### Semaphores (R215, R251) -/

/-- The value of a semaphore of a cluster. -/
def Cluster.sem (k : Cluster) (i : Nat) : Nat := NMap.getD k.sems i 0
/-- Set a semaphore. -/
def Cluster.setSem (k : Cluster) (i v : Nat) : Cluster := { k with sems := NMap.set k.sems i v }

/-- The first waiter of a semaphore whose threshold is met. -/
def Cluster.ripe (k : Cluster) (i : Nat) : Option SemWaiter := k.semWaiters.find? fun w => w.sem == i && decide (w.need ≤ k.sem i)

/-- Add to a semaphore with saturation. -/
def Cluster.signal (k : Cluster) (i n : Nat) : Cluster := k.setSem i (min (k.sem i + n) (2 ^ 32 - 1))

/-- A waiter is a given agent, or a given command of it. -/
def SemWaiter.is (who : Agent) (cmd : Nat) (w : SemWaiter) : Bool := w.who == who && w.cmd == cmd

/-- Take from a semaphore for a waiter, an agent with the number of its command (0 for a strand), which joins the waiters when it cannot:
whether it took, and the cluster. -/
def Cluster.takeSem (k : Cluster) (who : Agent) (cmd i n : Nat) : Bool × Cluster :=
  let queued := if k.semWaiters.any (SemWaiter.is who cmd) then k else { k with semWaiters := k.semWaiters ++ [⟨i, who, cmd, n⟩] }
  match queued.ripe i with
  | some w =>
    if w.is who cmd then (true, { queued.setSem i (k.sem i - n) with semWaiters := dropFirst (SemWaiter.is who cmd) queued.semWaiters })
    else (false, queued)
  | none => (false, queued)

/-- SEMW (R215). -/
def semwBody (g : Guard) (a b : Reg) : Strand → State → Out :=
  guarded g 1 (waiting [a, b] none fun st s =>
    (readSources st s [a, b] none).andThen s fun r =>
      let i := (src r.1 0).toNat % 256
      let n := (src r.1 1).toNat % 2 ^ 32
      if n = 0 then .ok (retire s 1)
      else
        let k := clusterOf s.actor
        let x := (s.cluster k).takeSem (.slot s.actor) 0 i n
        let s1 := s.setCluster k x.2
        if x.1 then .ok (retire s1 1) else .wait .sem s1)

/-- SEMS (R215). -/
def semsBody (g : Guard) (a b : Reg) : Strand → State → Out :=
  guarded g 1 fun st s =>
    (readSources st s [a, b] none).andThen s fun r =>
      settled false st s fun _ s1 =>
        let k := clusterOf s.actor
        .ok (retire (s1.setCluster k ((s1.cluster k).signal ((src r.1 0).toNat % 256) ((src r.1 1).toNat % 2 ^ 32))) 1)

/-! ### Tags (R224, R225) -/

/-- The tags of a mask. -/
def maskTags (m : BitVec 64) : List Nat := (List.range 64).filter fun t => m.getLsbD t

/-- TAGW of a mask (R224): the ownership of its tags comes before the rule for codelets (R74). -/
def tagwait (all : Bool) (words : Nat) (m : BitVec 64) (st : Strand) (s : State) : Out :=
  let c := s.cell (cellOf s.actor)
  let ts := maskTags m
  if ts.any fun t => !c.ownsTag (slotOf s.actor) t then .trap (permission 1)
  else if st.cdl then .trap (permission 18)
  else if ts.isEmpty || (if all then ts.all fun t => c.tagReady.getLsbD t else ts.any fun t => c.tagReady.getLsbD t) then
    .ok (retire s words)
  else .wait .poll s

/-- TAGW with the mask in a register. -/
def tagwBody (all : Bool) (g : Guard) (a : Reg) : Strand → State → Out :=
  guarded g 1 fun st s => (readSources st s [a] none).andThen s fun r => tagwait all 1 (src r.1 0) st s

/-- TAGF (R225). -/
def tagfBody (g : Guard) (d : Reg) : Strand → State → Out :=
  guarded g 1 (waiting [] (some d) fun st s =>
    (readSources st s [] (some d)).andThen s fun _ =>
      let n := slotOf s.actor
      let c := s.cell (cellOf s.actor)
      match (List.range 64).find? fun t => c.ownsTag n t && c.tagReady.getLsbD t && NMap.get? c.tagSlot t == some n with
      | some i => answer (s.setCell (cellOf s.actor) { c with tagSlot := NMap.erase c.tagSlot i }) 1 d (BitVec.ofNat 64 i)
      | none => if (c.outstanding n).isEmpty then answer s 1 d (BitVec.allOnes 64) else .wait .poll s)

/-! ### The instructions -/

/-- RECVW gD. -/
def execRecvw (g : Guard) (d : Reg) (s : State) : Host.Outcome State Fault Refusal := runBody (recvwBody g d) s
/-- MIGR gA. -/
def execMigr (g : Guard) (a : Reg) (s : State) : Host.Outcome State Fault Refusal := runBody (migrBody g a) s
/-- SPAWN pD, gA, gB. -/
def execSpawn (g : Guard) (d : BitVec 3) (a b : Reg) (s : State) : Host.Outcome State Fault Refusal := runBody (spawnBody g d a b) s
/-- CDEC gA. -/
def execCdec (g : Guard) (a : Reg) (s : State) : Host.Outcome State Fault Refusal := runBody (cdecBody g a) s
/-- HINTSUCC. -/
def execHintsucc (g : Guard) (s : State) : Host.Outcome State Fault Refusal := runBody (hintsuccBody g) s
/-- WAITPRED. -/
def execWaitpred (g : Guard) (s : State) : Host.Outcome State Fault Refusal := runBody (waitpredBody g) s
/-- ENQ gA, gB. -/
def execEnq (g : Guard) (a b : Reg) (s : State) : Host.Outcome State Fault Refusal := runBody (enqBody g a b) s
/-- DEQ gD, gA. -/
def execDeq (g : Guard) (d a : Reg) (s : State) : Host.Outcome State Fault Refusal := runBody (deqBody g d a) s
/-- TASKGET gD. -/
def execTaskget (g : Guard) (d : Reg) (s : State) : Host.Outcome State Fault Refusal := runBody (taskgetBody g d) s
/-- BAR. -/
def execBar (g : Guard) (s : State) : Host.Outcome State Fault Refusal := runBody (barBody g) s
/-- SEMW gA, gB. -/
def execSemw (g : Guard) (a b : Reg) (s : State) : Host.Outcome State Fault Refusal := runBody (semwBody g a b) s
/-- SEMS gA, gB. -/
def execSems (g : Guard) (a b : Reg) (s : State) : Host.Outcome State Fault Refusal := runBody (semsBody g a b) s
/-- TAGW.all gA. -/
def execTagwAll (g : Guard) (a : Reg) (s : State) : Host.Outcome State Fault Refusal := runBody (tagwBody true g a) s
/-- TAGW.all mask. -/
def execTagwAllLiteral (g : Guard) (lit : BitVec 64) (s : State) : Host.Outcome State Fault Refusal :=
  runBody (guarded g 3 (tagwait true 3 lit)) s
/-- TAGW.any gA. -/
def execTagwAny (g : Guard) (a : Reg) (s : State) : Host.Outcome State Fault Refusal := runBody (tagwBody false g a) s
/-- TAGW.any mask. -/
def execTagwAnyLiteral (g : Guard) (lit : BitVec 64) (s : State) : Host.Outcome State Fault Refusal :=
  runBody (guarded g 3 (tagwait false 3 lit)) s
/-- TAGF gD. -/
def execTagf (g : Guard) (d : Reg) (s : State) : Host.Outcome State Fault Refusal := runBody (tagfBody g d) s

end Sys2Proof.Machine
end

