-- ==== Sys2Proof/Machine/Engines.lean ====
section
/-! DEFINITION. Engine commands (R216 to R223, R250, R320, R321): the checks and the kick of COPY, GETX, PUTX and COLL, and the
steps by which a hart reads, converts, writes and completes. -/
namespace Sys2Proof.Machine

/-! ### Descriptors (Table 10-4, R222) -/

/-- A signed 64-bit field. -/
def signedField (bs : List (BitVec 8)) (o : Nat) : Int := (BitVec.ofNat 64 (field bs o 8)).toInt

/-- The width in bits of an element on one side of a command. -/
def elemBits (e : EngineWords) (esz : Nat) (dst : Bool) : Nat := if e.conv then convWidth (if dst then e.fb else e.fa) else 8 * 2 ^ esz

/-- The width in bytes that alignment asks for: 1 for a component narrower than a byte (R219). -/
def elemBytes (bits : Nat) : Nat := max 1 (bits / 8)

/-- NDIM of a copy descriptor. -/
def copyDims (d : List (BitVec 8)) : Nat := field d 0 1
/-- COUNT of a dimension; 1 beyond NDIM. -/
def copyCount (d : List (BitVec 8)) (i : Nat) : Nat := if i < copyDims d then field d (8 + 4 * i) 4 else 1
/-- SSTRIDE or DSTRIDE of a dimension. -/
def copyStride (dst : Bool) (d : List (BitVec 8)) (i : Nat) : Int := signedField d ((if dst then 80 else 32) + 8 * i)

/-- A copy descriptor breaks a rule of Table 10-4. -/
def copyDescBad (e : EngineWords) (d : List (BitVec 8)) : Bool :=
  let n := copyDims d
  n == 0 || decide (6 < n) || (!e.conv && decide (3 < field d 1 1)) || !zeroRange d 2 6
    || (List.range n).any fun i => copyCount d i == 0

/-- An index-list header breaks a rule of R222. -/
def listDescBad (e : EngineWords) (d : List (BitVec 8)) : Bool :=
  field d 0 4 == 0 || decide (2 ^ 24 < field d 0 4) || (!e.conv && decide (3 < field d 4 1)) || decide (1 < field d 5 1)
    || !zeroRange d 6 10

/-- The byte range of one side of a copy, relative to its base (R220): least offset and end. -/
def copyRange (e : EngineWords) (d : List (BitVec 8)) (dst : Bool) : Int × Int :=
  let bits := elemBits e (field d 1 1) dst
  let ext (i : Nat) : Int := ((copyCount d i : Int) - 1) * copyStride dst d i
  let dims := (List.range (copyDims d)).filter fun i => !(e.conv && i == 0)
  let lo := dims.foldl (fun a i => a + min 0 (ext i)) (0 : Int)
  let hi := dims.foldl (fun a i => a + max 0 (ext i)) (0 : Int)
  let last : Nat := if e.conv then (copyCount d 0 * bits + 7) / 8 else bits / 8
  (lo, hi + last)

/-- plain of R220. -/
def copyPlain (e : EngineWords) (d : List (BitVec 8)) : Bool :=
  copyDims d == 1 && !e.conv && !e.z && !e.te && e.ssp == e.dsp
    && decide (copyStride false d 0 = 2 ^ field d 1 1) && decide (copyStride true d 0 = 2 ^ field d 1 1)

/-- The ranges of a copy intersect. -/
def copyMeets (e : EngineWords) (d : List (BitVec 8)) (dst src : BitVec 64) : Bool :=
  let (sl, sh) := copyRange e d false
  let (dl, dh) := copyRange e d true
  e.ssp == e.dsp && decide ((src.toNat : Int) + sl < dst.toNat + dh) && decide ((dst.toNat : Int) + dl < src.toNat + sh)

/-- A range of a local space lies inside it, and outside the mailboxes when it is written (R220, R271). -/
def sideCheck (sp : BitVec 3) (dst : Bool) (base : BitVec 64) (lo hi : Int) : Res Unit :=
  if sp = 0 then .ok ()
  else if (base.toNat : Int) + lo < 0 || (spaceSize sp : Int) < base.toNat + hi then .trap (translation 1 base)
  else if dst && sp == 5 && decide ((0xFF000 : Int) < base.toNat + hi) then .trap (permission 12 base)
  else .ok ()

/-- The checks of COPY (R220), in order: ranges, alignment, overlap. -/
def copyChecks (e : EngineWords) (d : List (BitVec 8)) (dst src : BitVec 64) : Res Unit :=
  let side (isDst : Bool) (sp : BitVec 3) (base : BitVec 64) : Res Unit :=
    let r := copyRange e d isDst
    sideCheck sp isDst base r.1 r.2
  let aligned (isDst : Bool) (base : BitVec 64) : Bool :=
    let w := elemBytes (elemBits e (field d 1 1) isDst)
    base.toNat % w == 0 && (List.range (copyDims d)).all fun i => (e.conv && i == 0) || decide (copyStride isDst d i % (w : Int) = 0)
  (side false e.ssp src).bind fun _ => (side true e.dsp dst).bind fun _ =>
    (Res.need (aligned false src) (alignTrap 0 src)).bind fun _ => (Res.need (aligned true dst) (alignTrap 0 dst)).bind fun _ =>
      Res.need (!(copyMeets e d dst src && !copyPlain e d)) (mkTrap 0x0A 0 dst)

/-- The checks of GETX and PUTX (R222): the contiguous side lies in its space, no base lies in the mailboxes that are written (R271), and
the bases are aligned. -/
def indexChecks (put : Bool) (e : EngineWords) (d : List (BitVec 8)) (dst src : BitVec 64) : Res Unit :=
  let n (isDst : Bool) : Nat := field d 0 4 * elemBytes (elemBits e (field d 4 1) isDst)
  let flat := if put then
      (sideCheck e.ssp false src 0 (n false : Int)).bind fun _ => if e.dsp = 5 && decide (0xFF000 ≤ dst.toNat) then .trap (permission 12 dst) else .ok ()
    else sideCheck e.dsp true dst 0 (n true : Int)
  flat.bind fun _ =>
    (Res.need (src.toNat % elemBytes (elemBits e (field d 4 1) false) == 0) (alignTrap 0 src)).bind fun _ =>
      Res.need (dst.toNat % elemBytes (elemBits e (field d 4 1) true) == 0) (alignTrap 0 dst)

/-! ### The kick (R216, R320) -/

/-- The commands a hart's command queue holds: those kicked and not complete (R216, and the timeline of chapter 10's example, in
which H0 runs a command while the next goes to H1). DEDUCED: log 51. -/
def Hart.held (x : Hart) : Nat := x.queue.length + x.running.length

/-- The hart a copy command goes to: fewer commands held, ties to H0. -/
def State.pickHart (s : State) (k : Nat) : Nat :=
  if (s.hart (2 * k + 1)).held < (s.hart (2 * k)).held then 2 * k + 1 else 2 * k

/-- The collective engine of a cluster's die. -/
def collHart (k : Nat) : Nat := 384 + k / 96

/-- A command as it is kicked. -/
def newCommand (st : Strand) (s : State) (words : List (BitVec 32)) (kind : Nat) (e : EngineWords) (d a b : BitVec 64)
    (replica : Option (BitVec 64)) (desc : List (BitVec 8)) : Command :=
  { id := s.serial, part := st.part, launch := st.launch, cell := cellOf s.actor, slot := slotOf s.actor, words := words,
    coll := kind == 3, kind := kind, dst := d, src := a, third := b, eng := e, replica := replica, desc := desc, started := false,
    waited := false, startAt := 0, indexed := [], loaded := [], stored := [], blocks := [], refetched := [], replicas := [], job := none, rewritten := [], teDone := 0, status := 0, stopped := false,
    hold := .poll, holdAt := 0, holdLine := 0, phase := 0, progress := 0, entry := 0, table := none, run := 0 }

/-- Wait for the tag and for room, then kick and retire (R216 steps 4 to 6): the kick is a release. -/
def kick (words : Nat) (hart : State → Nat) (cap : Nat) (mk : State → Command) (tag : BitVec 6) (s s0 : State) : Out :=
  let cell := cellOf s.actor
  let c := s.cell cell
  let h := hart s
  let x := s.hart h
  if !c.tagReady.getLsbD tag.toNat || cap ≤ x.held then .wait .poll s0
  else
    let s1 := s.setCell cell { c.setReady tag.toNat false with tagSlot := NMap.set c.tagSlot tag.toNat (slotOf s.actor) }
    let s2 := s1.setHart h { x with queue := x.queue ++ [mk s] }
    .ok (retire { s2 with serial := s.serial + 1 } words)

/-- The common issue of the copy-engine commands (R216): the tag's owner, the descriptor at lmem offset b, the entry's checks,
then the kick. DEDUCED: log 51. -/
def copyIssue (g : Guard) (words kind : Nat) (ws : List (BitVec 32)) (d a b : Reg) (e : EngineWords) (replica : Option (BitVec 64)) :
    Strand → State → Out :=
  guarded g words fun st s =>
    (readSources st s [d, a, b] none).andThen s fun r =>
      if !(s.cell (cellOf s.actor)).ownsTag (slotOf s.actor) e.tag.toNat then .trap (permission 1)
      else settled false st s fun st1 s1 =>
        let dst := src r.1 0
        let base := src r.1 1
        let off := src r.1 2
        let (align, size) := if kind = 0 then (128, 128) else (16, 16)
        if off.toNat % align != 0 then .trap (alignTrap 2 off)
        else if 98304 < off.toNat + size then .trap (translation 1 off)
        else
          let flat := lmemBase (cellOf s.actor) + off.toNat
          if s1.poisonedRange flat size then .trap (translation 4 off)
          else
            let desc := s1.bytes flat size
            let bad := if kind = 0 then copyDescBad e desc else listDescBad e desc
            let tooLong := kind != 0 && decide (98304 < off.toNat + 16 + field desc 0 4 * (4 + 4 * field desc 5 1))
            if bad then .trap (permission 6 off)
            else if tooLong then .trap (translation 1 off)
            else
              (if kind = 0 then copyChecks e desc dst base else indexChecks (kind == 2) e desc dst base).andThen s fun _ =>
                kick words (fun t => t.pickHart (clusterOf s.actor)) 64
                  (fun t => newCommand st1 t ws kind e dst base off replica desc) e.tag s1 s

/-- The words of an engine instruction (Tables 3-6 and 3-15). -/
def engineInstrWords (op : BitVec 7) (g : Guard) (d a b : Reg) (e : EngineWords) (disp : Option (BitVec 64)) : List (BitVec 32) :=
  packR (lenBits disp) op d a b g 0#4 :: ([packEng e, packExt2 e.q e.si e.ss e.wt e.ws] ++ litWordsOpt disp)

/-! ### COLL (R223, R357 to R359) -/

/-- The width in bytes of a collective format; 0 for one that is not listed. -/
def collWidth (f : Nat) : Nat := if f = 19 || f = 9 then 4 else if f = 18 || f = 17 then 2 else 0

/-- A member's entry in a group block: module, partition, die. -/
def memberOf (group : List (BitVec 8)) (i : Nat) : Nat × Nat × Nat :=
  (field group (16 + 32 * i) 2, field group (18 + 32 * i) 1, field group (19 + 32 * i) 1)

/-- A collective descriptor breaks a rule of Table 10-5. -/
def collDescBad (d : List (BitVec 8)) (nmem : Nat) : Bool :=
  let op := field d 0 1
  decide (4 < op) || decide (2 < field d 1 1) || (decide (2 ≤ op) && field d 1 1 != 0) || collWidth (field d 2 1) == 0
    || !zeroRange d 3 5 || !zeroRange d 48 16 || decide (nmem ≤ field d 12 4)

/-- A step-table header disagrees with the group (R359). -/
def stepHeaderBad (h group : List (BitVec 8)) (moduleNo part die : Nat) : Bool :=
  field h 4 4 != field group 0 4 || decide (field group 0 4 ≤ field h 0 4) || memberOf group (field h 0 4) != (moduleNo, part, die)
    || field h 8 4 == 0 || decide (65536 < field h 8 4) || !zeroRange h 12 52

/-- Where a partition counts the COLLs that a member of a group has issued. -/
def collKey (group member : Nat) : Nat := group * 16384 + member

/-- The COLLs that a member of a group has issued. -/
def State.collRun (s : State) (p group member : Nat) : Nat := ((s.part? p).map fun x => NMap.getD x.collRuns (collKey group member) 0).getD 0

/-- A COLL of a member of a group has been issued. -/
def Out.countRun (p group member : Nat) : Out → Out
  | .ok s => .ok (s.modPart p fun x => { x with collRuns := NMap.modify x.collRuns (collKey group member) 0 (· + 1) })
  | o => o

/-- COLL's issue (R216, R223); the COLLs of a member on a group are numbered, so that one's messages meet the same COLL of the peer (R358).
DEDUCED: log 51. DEDUCED: log 55. -/
def collIssue (g : Guard) (ws : List (BitVec 32)) (a : Reg) (e : EngineWords) : Strand → State → Out :=
  guarded g 3 fun st s =>
    (readSources st s [a] none).andThen s fun r =>
      if !(s.cell (cellOf s.actor)).ownsTag (slotOf s.actor) e.tag.toNat then .trap (permission 1)
      else settled false st s fun st1 s1 =>
        let off := src r.1 0
        if off.toNat % 64 != 0 then .trap (alignTrap 2 off)
        else if 98304 < off.toNat + 64 then .trap (translation 1 off)
        else
          let flat := lmemBase (cellOf s.actor) + off.toNat
          if s1.isPoisoned (lineOf flat) then .trap (translation 4 off)
          else
            let desc := s1.bytes flat 64
            let w := collWidth (field desc 2 1)
            match (s1.part? st.part).bind fun p => NMap.get? p.groups (field desc 8 4) with
            | none => .trap (permission 6 off)
            | some group =>
              if collDescBad desc (field group 0 4) then .trap (permission 6 off)
              else if field desc 24 8 % w != 0 then .trap (alignTrap 0 (wordAt desc 24))
              else if field desc 32 8 % w != 0 then .trap (alignTrap 0 (wordAt desc 32))
              else
                wideRead st1 s1 s 0 (wordAt desc 40) 64 64 fun h s2 =>
                  if stepHeaderBad h group s.moduleNo.toNat st.part (clusterOf s.actor / 96) then .trap (permission 6 off)
                  else
                    (kick 3 (fun _ => collHart (clusterOf s.actor)) 16
                      (fun t => { newCommand st1 t ws 3 e (wordAt desc 32) (wordAt desc 24) (wordAt desc 40) none (desc ++ h) with
                        run := t.collRun st.part (field desc 8 4) (field h 0 4) }) e.tag s2 s).countRun
                      st.part (field desc 8 4) (field h 0 4)

/-! ### A command's elements (R220, R222, R321) -/

/-- Elements of a copy command. -/
def Command.count (c : Command) : Nat :=
  if c.kind = 0 then (List.range 6).foldl (fun n i => n * copyCount c.desc i) 1 else field c.desc 0 4

/-- ESZ of a copy command. -/
def Command.esz (c : Command) : Nat := field c.desc (if c.kind = 0 then 1 else 4) 1
/-- The width in bits of an element on one side. -/
def Command.bits (c : Command) (dst : Bool) : Nat := elemBits c.eng c.esz dst
/-- The bytes an element touches on one side. -/
def Command.bytesOf (c : Command) (dst : Bool) : Nat := elemBytes (c.bits dst)

/-- The index in dimension i of element j. -/
def copyIndex (d : List (BitVec 8)) (j i : Nat) : Nat :=
  j / (List.range i).foldl (fun n k => n * copyCount d k) 1 % copyCount d i

/-- Where a copied element lies on one side: address and first bit. -/
def Command.copyPlace (c : Command) (dst : Bool) (j : Nat) : BitVec 64 × Nat :=
  let outer := (List.range (copyDims c.desc)).foldl (fun a i =>
    if c.eng.conv && i == 0 then a else a + (copyIndex c.desc j i : Int) * copyStride dst c.desc i) (0 : Int)
  let bit := if c.eng.conv then copyIndex c.desc j 0 * c.bits dst else 0
  ((if dst then c.dst else c.src) + BitVec.ofInt 64 outer + BitVec.ofNat 64 (bit / 8), bit % 8)

/-- The offset in lmem of index j of a GETX or PUTX, and its width. -/
def Command.indexPlace (c : Command) (j : Nat) : Nat × Nat :=
  let w := if field c.desc 5 1 = 1 then 8 else 4
  (c.third.toNat + 16 + w * j, w)

/-- Where an element lies on one side, given its index for a GETX or PUTX. -/
def Command.place (c : Command) (dst : Bool) (j idx : Nat) : BitVec 64 × Nat :=
  if c.kind = 0 then c.copyPlace dst j
  else
    let k := if (c.kind == 2) == dst then idx else j
    ((if dst then c.dst else c.src) + BitVec.ofNat 64 (k * c.bytesOf dst), 0)

/-- Every element of the command is done. -/
def Command.allDone (c : Command) : Bool :=
  if c.eng.z then (List.range (c.count - c.startAt)).all fun i => c.rewritten.contains ((c.copyPlace true (c.startAt + i)).1.toNat / 4096)
  else c.startAt + c.stored.length == c.count

/-- An element is done. -/
def Command.elemDone (c : Command) (j : Nat) : Bool :=
  decide (j < c.startAt) || (if c.eng.z then c.rewritten.contains ((c.copyPlace true j).1.toNat / 4096) else c.stored.contains j)

/-- The elements of a list done from the first on. -/
def prefixOf (stored : List Nat) : Nat := ((List.range stored.length).find? fun i => !stored.contains i).getD stored.length

/-- The elements done from the first on (R218): the count that precedes the first element not done. -/
def Command.prefixDone (c : Command) : Nat := ((List.range c.count).find? fun j => !c.elemDone j).getD c.count

/-- The count done that a stopped command reports (R218, R321): for a COLL the elements of its completed entries and those done of the
entry in hand. -/
def Command.doneCount (c : Command) : Nat := if c.coll then c.progress + prefixOf c.stored else c.prefixDone

/-! ### What bars an access of an engine -/

/-- Why an engine's access is not performed: it is not present, it parks, the command stops with a status, the logical block is to be
fetched again, or then taken from the replica, or that read too stops the command (R328), or an earlier access of the hart comes first
(R243). -/
inductive Bar where
  | notPresent (va : BitVec 64) (kind : Nat)
  | park (line cls t : Nat)
  | stop (status : Nat)
  | refetch (block : Nat)
  | replica (block : Nat)
  | failed (status : Nat)
  | later
  deriving DecidableEq, Repr

/-- The spot of an engine's access: a bad address stops with XLATE_FAIL, a missing permission with PERM_FAIL (R218). -/
def State.engineSpot (s : State) (part cell : Nat) (k : AccKind) (afresh : Bool) (sp : BitVec 3) (va : BitVec 64) (n : Nat) : Except Bar Spot :=
  if sp != 0 then
    if spaceSize sp < va.toNat + n then .error (.stop 3)
    else if k = .write && sp == 5 && decide (0xFF000 < va.toNat + n) then .error (.stop 4)
    else .ok (Spot.local (localBase sp cell + va.toNat))
  else
    match s.translate part (cell / 8) afresh k va with
    | .ok spot => if overWindow va n then .error (.stop 3) else .ok spot
    | .trap t => .error (.stop (if t.cause = 0x07 then 4 else 3))
    | .wait _ => .error (.stop 3)
    | .notPresent a c => .error (.notPresent a c)

/-- Consult a staged line for an engine's access (R259): the state after it, or what bars it. An entry marked RL makes the access a
release, which waits until every earlier access of the hart is performed at every scope (R249): `clear` says that they are. -/
def State.engineGate (s : State) (part : Nat) (spot : Spot) (t : Nat) (clear : Bool) : Except Bar State :=
  if spot.cls = 0 then .ok s
  else
    let line := lineOf spot.flat
    let e := s.entryAt part spot.cls line t
    match verdictOf e with
    | .allow => if rlOf e && !clear then .error .later else .ok (s.moveLine line (nextOf e))
    | .park => .error (.park line spot.cls t)
    | .fault => .error (.stop 5)

/-! ### Steps of a hart's commands -/

/-- A running command of a hart, by its position. -/
def State.cmd? (s : State) (h pos : Nat) : Option Command := (s.hart h).running[pos]?
/-- Replace a running command. -/
def State.setCmd (s : State) (h pos : Nat) (c : Command) : State :=
  let x := s.hart h
  s.setHart h { x with running := x.running.set pos c }

/-- Count soft errors of a cluster (R328, R368). -/
def State.countRefetch (s : State) (k n : Nat) : State :=
  let c := s.cluster k
  s.setCluster k { c with refetch := min (c.refetch + n) 0xFFFF }

/-- The fault record of an engine's access (Table 14-5). -/
def State.engineFault (s : State) (part cell : Nat) (who : Agent) (hartNo agent : Nat) (va : BitVec 64) (kind : Nat) : Nat × State :=
  s.openFault part va who fun seq =>
    faultRecord va.toNat seq (s.ordinal (cell / 8)) kind 0 0 0 (cell % 8) hartNo agent

/-- A command is held, or stops (R218, R259, R282). `at_` numbers the access. A hart has one park entry (R262): while another of
its commands holds it, the access waits to be tried again. -/
def State.barCommand (s : State) (h pos : Nat) (c : Command) (at_ : Nat) (b : Bar) : State :=
  match b with
  | .stop status => s.setCmd h pos { c with status := status, stopped := true, hold := .poll, progress := c.doneCount }
  | .refetch key => s.setCmd h pos { c with refetched := key :: c.refetched }
  | .replica key => (s.countRefetch (c.cell / 8) 1).setCmd h pos { c with replicas := key :: c.replicas }
  | .failed status =>
    (s.countRefetch (c.cell / 8) 1).setCmd h pos { c with status := status, stopped := true, hold := .poll, progress := c.doneCount }
  | .later => s
  | .park line cls t =>
    if s.parked.any fun p => p.who == .hart h then s
    else
      State.setCmd { s with parked := s.parked ++ [(⟨line, t, .hart h, c.part, cls⟩ : Parked)] } h pos
        { c with hold := .parked, holdAt := at_, holdLine := line }
  | .notPresent va kind =>
    let (seq, s1) := s.engineFault c.part c.cell (.hart h) (if c.coll then 0 else h % 2) (if c.coll then 2 else 1) va kind
    s1.setCmd h pos { c with hold := .faultPending seq va, holdAt := at_ }

/-- The number of an access of a command: 0 reads, 1 writes, 2 transitions, 3 block rewrites and collective steps, 4 reads of an index, 5
reads of a step-table entry. -/
def accessNo (what j : Nat) : Nat := 8 * j + what

/-- A command may take a step: it runs, has not stopped, and is not held, or is held at just this access and its page has been
answered with replay. -/
def Command.free (c : Command) (at_ : Nat) : Bool :=
  !c.stopped && c.phase == 0 && (c.hold == .poll || (c.hold == .replay && c.holdAt == at_))

/-- The access walks afresh (R282). -/
def Command.afresh (c : Command) : Bool := c.hold == .replay

/-- A plain copy between ranges that overlap reads everything first (R220). -/
def Command.readsFirst (c : Command) : Bool := c.kind == 0 && copyPlain c.eng c.desc && copyMeets c.eng c.desc c.dst c.src

/-- The chunk of an element of a GETX or PUTX (R222). -/
def chunkOf (j : Nat) : List Nat := (List.range 64).map (64 * (j / 64) + ·)

/-- Every element of earlier chunks is stored. -/
def Command.chunksBefore (c : Command) (j : Nat) : Bool := decide (64 * (j / 64) ≤ c.startAt + c.stored.length)

/-- An element may be read now. -/
def Command.mayLoad (c : Command) (j : Nat) : Bool :=
  decide (c.startAt ≤ j) && decide (j < c.count) && (NMap.get? c.loaded j).isNone && (c.kind == 0 || c.chunksBefore j)

/-- An element may be written now. -/
def Command.mayStore (c : Command) (j : Nat) : Bool :=
  !c.eng.z && (NMap.get? c.loaded j).isSome && !c.stored.contains j
    && (!c.readsFirst || c.startAt + c.loaded.length == c.count)
    && (c.kind == 0 || (chunkOf j).all fun i => decide (c.count ≤ i) || decide (i < c.startAt)
        || ((NMap.get? c.loaded i).isSome && (decide (j ≤ i) || c.stored.contains i)))

/-! ### The order of a hart's accesses (R243, R249, R250) -/

/-- The place of an access in its command's order: `what` is 0 for a read, 1 for a write, 2 for a transition, 4 for the read of an index,
5 for that of a step-table entry (R220 to R222, R358). -/
def Command.rank (c : Command) (what j : Nat) : Nat :=
  if what = 2 then 256 * (c.count + 64) + j
  else if what = 5 then 0
  else if c.readsFirst then what * c.count + j
  else if c.coll || c.kind == 0 then 2 * j + what + 1
  else if what = 1 then 256 * (j / 64) + 128 + j % 64
  else 256 * (j / 64) + 2 * (j % 64) + (if what = 0 then 1 else 0)

/-- The index of an element of a GETX or PUTX: as it was read, or as the list holds it now. -/
def State.indexNow (s : State) (c : Command) (j : Nat) : Nat :=
  if c.kind = 0 then 0
  else (NMap.get? c.indexed j).getD (leNat (s.bytes (lmemBase c.cell + (c.indexPlace j).1) (c.indexPlace j).2))

/-- The destination lines of a command, by address in its space, ascending. -/
def Command.destLines (c : Command) (s : State) : List Nat :=
  (((List.range c.count).flatMap fun j =>
    let a := (c.place true j (s.indexNow c j)).1.toNat
    [a / 64, (a + c.bytesOf true - 1) / 64]).eraseDups).mergeSort (· ≤ ·)

/-- Where the step-table entry that a COLL is at lies (Table 18-9). -/
def Command.tableVa (c : Command) : BitVec 64 := c.third + BitVec.ofNat 64 (64 * (c.entry + 1))

/-- The element width of a COLL. -/
def Command.collBytes (c : Command) : Nat := collWidth (field c.desc 2 1)
/-- Where element i of an entry's local operand or destination lies. -/
def Command.collPlace (c : Command) (dst : Bool) (e : List (BitVec 8)) (i : Nat) : BitVec 64 :=
  (if dst then c.dst else c.src) + BitVec.ofNat 64 ((field e 8 8 + i) * c.collBytes)

/-- The accesses of a running command that have entered its hart's window and are not performed: for a COLL, those of the entry in hand
(R239, R250). DEDUCED: log 52. -/
def State.unperformed (s : State) (c : Command) : List (Nat × Nat) :=
  if c.stopped then []
  else if c.coll then
    match c.table with
    | none => if c.entry = field c.desc 72 4 then [] else [(5, c.entry)]
    | some e =>
      let is := List.range (field e 16 8)
      (if field e 0 1 ≤ 1 then (is.filter fun i => (NMap.get? c.loaded i).isNone).map (0, ·) else [])
        ++ (if (field e 0 1 == 1 || field e 0 1 == 2) && (NMap.get? c.blocks c.entry).isSome then
              (is.filter fun i => !c.stored.contains i).map (1, ·) else [])
  else
    let js := ((List.range (c.count - c.startAt)).map (c.startAt + ·)).filter fun j => !c.elemDone j
    (if c.kind = 0 then [] else (js.filter fun j => (NMap.get? c.indexed j).isNone).map (4, ·))
      ++ (js.filter fun j => (NMap.get? c.loaded j).isNone).map (0, ·) ++ js.map (1, ·)
      ++ (if c.eng.te then ((List.range (c.destLines s).length).filter fun i => decide (c.teDone ≤ i)).map (2, ·) else [])

/-- Where an access of a command lies, and its bytes. -/
def State.accessSpot (s : State) (c : Command) (what j : Nat) : Except Bar (Spot × Nat) := do
  if what = 2 then
    match (c.destLines s)[j]? with
    | some line => .ok (← s.engineSpot c.part c.cell .rmw false 0 (BitVec.ofNat 64 (line * 64)) 1, 0)
    | none => .error .later
  else if what = 4 then .ok (Spot.local (lmemBase c.cell + (c.indexPlace j).1), (c.indexPlace j).2)
  else if what = 5 then .ok (← s.engineSpot c.part c.cell .read false 0 c.tableVa 64, 64)
  else if c.coll then
    let e := c.table.getD []
    let dst := what == 1 || field e 5 1 % 2 == 1
    .ok (← s.engineSpot c.part c.cell (if what = 1 then .write else .read) false 0 (c.collPlace dst e j) c.collBytes, c.collBytes)
  else
    let n := c.bytesOf (what == 1)
    .ok (← s.engineSpot c.part c.cell (if what = 1 then .write else .read) false (if what = 1 then c.eng.dsp else c.eng.ssp)
      (c.place (what == 1) j (s.indexNow c j)).1 n, n)

/-- The accesses of a hart's earlier commands that are not performed. -/
def State.beforeCmd (s : State) (h pos : Nat) : List (Command × Nat × Nat) :=
  ((s.hart h).running.take pos).flatMap fun x => (s.unperformed x).map fun y => (x, y.1, y.2)

/-- The accesses of a hart that come before one and are not performed. -/
def State.beforeAccessOf (s : State) (h pos : Nat) (c : Command) (what j : Nat) : List (Command × Nat × Nat) :=
  s.beforeCmd h pos ++ ((s.unperformed c).filter fun y => decide (c.rank y.1 y.2 < c.rank what j)).map fun y => (c, y.1, y.2)

/-- Some entry of a class for a transition allows it as an acquire; AQ of any other entry is not used (R258). -/
def State.mayAcquire (s : State) (p cls t : Nat) : Bool :=
  cls != 0 && (List.range 16).any fun st => verdictOf (s.tumbler p cls st t) == .allow && aqOf (s.tumbler p cls st t)

/-- The hart's earlier accesses, of which these are left, are performed at every scope (R241, R249). -/
def State.clearOf (s : State) (h : Nat) (before : List (Command × Nat × Nat)) : Bool := before.isEmpty && !s.hartOwes h

/-- An earlier access keeps a later one of its hart back: they overlap, or it may be an acquire (Table 12-2). DEDUCED: log 52. -/
def State.keptBack (s : State) (before : List (Command × Nat × Nat)) (spot : Spot) (n : Nat) : Bool :=
  before.any fun x => match s.accessSpot x.1 x.2.1 x.2.2 with
    | .ok (sp, m) =>
      overlaps sp.flat m spot.flat n
        || s.mayAcquire x.1.part sp.cls (match x.2.1 with
          | 1 => 15
          | 2 => x.1.eng.q.toNat
          | _ => 14)
    | .error _ => false

/-- Consult transition t for lines of a page, in order (R259). -/
def State.gateLines (s : State) (c : Command) (spot : Spot) (t : Nat) (clear : Bool) : List Nat → Except Bar State
  | [] => .ok s
  | l :: rest => do
    let s1 ← s.engineGate c.part { spot with flat := l * 64 } t clear
    State.gateLines s1 c spot t clear rest

/-- The page of the replica of the logical block at an address, its spot at the replica's first byte, if it is compressed in the same way
(R328). -/
def State.replicaSpot (s : State) (c : Command) (zfmt : Bool) (va : BitVec 64) : Except Bar (Option Spot) :=
  match c.replica with
  | none => .ok none
  | some x => do
    let r ← s.engineSpot c.part c.cell .read c.afresh 0 (((va &&& ~~~0xFFF) - c.src) + x) 1
    .ok (if r.mt == 5 && r.zfmt == zfmt then some { r with flat := r.flat / 4096 * 4096 } else none)

/-- Consult transition 14 for the lines of a block's replica that hold bytes from some offsets of the block on (R259). -/
def State.replicaGate (s : State) (c : Command) (zfmt : Bool) (va : BitVec 64) (clear : Bool) (offs : List Nat) : Except Bar State := do
  match ← s.replicaSpot c zfmt va with
  | none => .ok s
  | some r => s.gateLines c r 14 clear (offs.map fun o => (r.flat + o) / 64)

/-- A logical block of a compressed page for a command (R321, R328): a malformed one is read again in a later step, and then taken in
another from the replica, each of which counts as a soft error; an empty list stands for a block that no copy decodes. DEDUCED: log 53. -/
def State.commandBlock (s : State) (c : Command) (spot : Spot) (va : BitVec 64) : Except Bar (List (BitVec 8) × State) :=
  let k := c.cell / 8
  let key := va.toNat / 4096
  let counted (again : Bool) (b : List (BitVec 8)) : List (BitVec 8) × State := (b, if again then s.countRefetch k 1 else s)
  if c.replicas.contains key then do
    match ← s.replicaSpot c spot.zfmt va with
    | none => .ok (counted true [])
    | some r =>
      match s.readBlock r.zfmt r.frame (r.flat - r.frame) with
      | .ok b => .ok (counted true b)
      | .stop => .error (.failed 3)
      | .malformed => .ok (counted true [])
  else
    let again := c.refetched.contains key
    match s.readBlock spot.zfmt spot.frame (spot.flat - spot.frame) with
    | .ok b => .ok (counted again b)
    | .stop => .error (if again then .failed 3 else .stop 3)
    | .malformed =>
      if !again then .error (.refetch key)
      else if c.replica.isSome then .error (.replica key)
      else .ok (counted true [])

/-- Read the bytes of element j through an engine: from memory, or from a block of a compressed page. -/
def State.engineRead (s : State) (h pos : Nat) (c : Command) (j : Nat) (va : BitVec 64) (n : Nat) :
    Except Bar (List (BitVec 8) × Command × State) := do
  let spot ← s.engineSpot c.part c.cell .read c.afresh c.eng.ssp va n
  let before := s.beforeAccessOf h pos c 0 j
  if s.keptBack before spot n then .error .later
  let s1 ← s.engineGate c.part spot 14 (s.clearOf h before)
  if spot.mt = 5 then
    if c.kind = 2 then .error (.stop 4)
    else
      let key := va.toNat / 4096
      let s2 ← if c.replicas.contains key && NMap.get? c.blocks key != some [] then
          s1.replicaGate c spot.zfmt va (s.clearOf h before) [va.toNat % 4096]
        else .ok s1
      let (b, s2) ← match NMap.get? c.blocks key with
        | some b => .ok (b, s2)
        | none => s2.commandBlock c spot va
      let c1 := { c with blocks := NMap.set c.blocks key b, refetched := c.refetched.filter (· != key)
                         status := if b.isEmpty then 1 else c.status }
      .ok (if b.isEmpty then [] else (b.drop (va.toNat % 4096)).take n, c1, s2)
  else if s1.loadPoison none (c.cell / 8) spot.mt spot.flat n then .error (.stop 3)
  else .ok (s1.loadBytes none (c.cell / 8) spot.mt spot.flat n, c, s1.flitsRead none (c.cell / 8) spot.mt spot.flat n)

/-! ### When a command is to pause (R311) -/

/-- The tag deadline of a pre-emption has passed for the owner of a command. -/
def State.pauseDue (s : State) (c : Command) : Bool :=
  !c.coll && match (s.strand? (c.cell * 16 + c.slot)).bind Strand.preReq, s.part? c.part with
    | some r, some p => decide (r.since + p.deadline * 1900 ≤ s.clock)
    | _, _ => false

/-- What a pause leaves whole: an element, a chunk, a block, or all of a copy that reads first. -/
def Command.unitOf (c : Command) (j : Nat) : Nat :=
  if c.eng.z then (c.copyPlace true j).1.toNat / 4096 else if c.readsFirst then 0 else if c.kind = 0 then j else j / 64

/-- A command that is to pause still reads this element, to reach its next boundary. -/
def Command.towardsBoundary (c : Command) (j : Nat) : Bool :=
  c.loaded.any fun x => decide (j < x.1) || (c.unitOf x.1 == c.unitOf j && !c.elemDone x.1)

/-- A command is held by a line or by a page. -/
def Command.isHeld (c : Command) : Bool :=
  match c.hold with
  | .parked => true
  | .faultPending _ _ => true
  | _ => false

/-- A command may pause here: at an element, chunk or block boundary with the elements done forming a prefix and none half done, before its
first transition; or where a line or a page holds it (R265). -/
def Command.atBoundary (c : Command) : Bool :=
  let p := c.prefixDone
  c.isHeld || (c.job.isNone && c.teDone == 0 && c.loaded.all (fun x => c.elemDone x.1)
    && (c.eng.z || (p == c.startAt + c.stored.length && (c.kind == 0 || p % 64 == 0 || p == c.count))))

/-- The index of element j of a GETX or PUTX is read (R222). -/
def State.indexLoad (s : State) (h pos j : Nat) (c : Command) : State :=
  let (o, n) := c.indexPlace j
  let a := lmemBase c.cell + o
  if s.keptBack (s.beforeAccessOf h pos c 4 j) (Spot.local a) n then s
  else if s.poisonedRange a n then s.barCommand h pos c (accessNo 4 j) (.stop 3)
  else s.setCmd h pos { c with indexed := NMap.set c.indexed j (leNat (s.bytes a n)), hold := .poll }

/-- LOAD_PERFORMED of a copy command: element j is read, or its index, which comes first (R220, R222). DEDUCED: log 52. -/
def State.copyLoad (s : State) (h pos j : Nat) : State :=
  match s.cmd? h pos with
  | none => s
  | some c =>
    if c.coll || !c.free (accessNo 0 j) || !c.mayLoad j || (s.pauseDue c && !c.towardsBoundary j) then s
    else if c.kind != 0 && (NMap.get? c.indexed j).isNone then s.indexLoad h pos j c
    else
      match s.engineRead h pos c j (c.place false j (s.indexNow c j)).1 (c.bytesOf false) with
      | .error b => s.barCommand h pos c (accessNo 0 j) b
      | .ok (bs, c1, s1) => s1.setCmd h pos { c1 with loaded := NMap.set c1.loaded j bs, hold := .poll }

/-- The code an element is written as: the bits read, or their conversion (R92, R220); a block that did not decode gives 0. -/
def Command.output (c : Command) (j : Nat) (bs : List (BitVec 8)) : Nat :=
  if bs.isEmpty then 0
  else if !c.eng.conv then leNat bs
  else
    let bit := if c.kind = 0 then (c.copyPlace false j).2 else 0
    let code := leNat bs / 2 ^ bit % 2 ^ c.bits false
    (toCode c.eng.fb .rne (decodeFmt c.eng.fa code).1).1

/-- A byte of memory with an element's bits merged in (R219). -/
def mergeBits (old : BitVec 8) (bit width code : Nat) : BitVec 8 :=
  let m : BitVec 8 := BitVec.ofNat 8 ((2 ^ width - 1) * 2 ^ bit)
  (old &&& ~~~m) ||| (BitVec.ofNat 8 (code * 2 ^ bit) &&& m)

/-- The window address of a flat address in an lmem of a partition. -/
def State.windowVa (s : State) (part flat : Nat) : Option Nat :=
  if flat < lmemBase 0 || wbufBase 0 ≤ flat then none
  else
    let cell := (flat - lmemBase 0) / 2 ^ 17
    if s.cellIn part cell then some (0xFF * 2 ^ 48 + s.pcn cell * 2 ^ 17 + flat % 2 ^ 17) else none

/-- A byte of a copy's destination that its source names through a cell window, or the other way round (R220). -/
def State.aliased (s : State) (c : Command) (flat : Nat) : Bool :=
  let (lo, hi) := copyRange c.eng c.desc false
  let a : Int := c.src.toNat
  c.kind == 0 && c.eng.ssp != c.eng.dsp &&
    (if c.eng.dsp == 1 && c.eng.ssp == 0 then
      (match s.windowVa c.part flat with
        | some va => decide (a + lo ≤ va) && decide ((va : Int) < a + hi)
        | none => false)
    else if c.eng.dsp == 0 && c.eng.ssp == 1 then
      decide ((lmemBase c.cell : Int) + a + lo ≤ flat) && decide ((flat : Int) < lmemBase c.cell + a + hi)
    else false)

/-- Whose the stores of a hart's command are. -/
def Command.origin (c : Command) (h : Nat) : Origin := .hart c.part c.launch h

/-- Write bytes of a copy, unpredictable where source and destination are one memory under two names (R220). -/
def State.copyStoreAt (s : State) (h : Nat) (c : Command) (mt flat : Nat) (bs : List (BitVec 8)) : State :=
  let s1 := s.storeFrom (c.origin h) (c.cell / 8) mt flat bs
  if s.aliased c flat then s1.blurBytes flat bs.length else s1

/-- STORE_PERFORMED of a copy command: element j is written. DEDUCED: log 52. -/
def State.copyStore (s : State) (h pos j : Nat) : State :=
  match s.cmd? h pos with
  | none => s
  | some c =>
    if c.coll || !c.free (accessNo 1 j) || !c.mayStore j then s
    else
      let code := c.output j (NMap.getD c.loaded j [])
      let (va, bit) := c.place true j (s.indexNow c j)
      let n := c.bytesOf true
      match (do
          let spot ← s.engineSpot c.part c.cell .write c.afresh c.eng.dsp va n
          if spot.mt = 5 then .error (.stop 4)
          let before := s.beforeAccessOf h pos c 1 j
          if s.keptBack before spot n then .error .later
          let s1 ← s.engineGate c.part spot 15 (s.clearOf h before)
          if s1.noStore spot.flat then .error (.stop 3)
          let out := if c.bits true < 8 then [mergeBits (s1.byte spot.flat) bit (c.bits true) code] else leBytes code n
          .ok (s1.copyStoreAt h c spot.mt spot.flat out) : Except Bar State) with
      | .error b => s.barCommand h pos c (accessNo 1 j) b
      | .ok s1 => s1.setCmd h pos { c with stored := c.stored ++ [j], hold := .poll }

/-! ### .z writes (R329, R330) -/

/-- The next logical block a .z command rewrites, in the order its elements first touch them, and the elements in it. -/
def Command.nextBlock (c : Command) : Option (Nat × List Nat) :=
  let js := (List.range (c.count - c.startAt)).map (c.startAt + ·)
  let blk (j : Nat) : Nat := (c.copyPlace true j).1.toNat / 4096
  (js.find? fun j => !c.rewritten.contains (blk j)).map fun j => (blk j, js.filter fun i => blk i == blk j)

/-- Bytes of a list replaced at an offset. -/
def overlay (base : List (BitVec 8)) (o : Nat) (bs : List (BitVec 8)) : List (BitVec 8) := base.take o ++ bs ++ base.drop (o + bs.length)

/-- The block with the command's elements merged in, in element order. -/
def Command.mergeBlock (c : Command) (js : List Nat) (base : List (BitVec 8)) : List (BitVec 8) :=
  js.foldl (fun b j => overlay b ((c.copyPlace true j).1.toNat % 4096) (leBytes (c.output j (NMap.getD c.loaded j [])) (c.bytesOf true))) base

/-- The elements of a block write all of it. -/
def Command.coversBlock (c : Command) (js : List Nat) : Bool :=
  (List.range 4096).all fun o => js.any fun j =>
    let a := (c.copyPlace true j).1.toNat % 4096
    decide (a ≤ o) && decide (o < a + c.bytesOf true)

/-- Encode a block as its page's map header asks. -/
def State.encodeBlock (s : State) (zr : Bool) (frame owner : Nat) (tokens new : List (BitVec 8)) : List (BitVec 8) :=
  let h := s.bytes frame 64
  if zr then zrEncode (field h 9 1) (field h 10 2) (field h 12 2) owner new
  else kzEncode tokens (s.bytes (field h 0 8) (64 * field h 8 1)) (field h 8 1) owner new

/-- The first bytes of the lines of a block that the command's elements do not write whole: what the old block supplies. -/
def Command.keptLines (c : Command) (js : List Nat) : List Nat :=
  ((List.range 64).map (64 * ·)).filter fun o => !(List.range 64).all fun i => js.any fun j =>
    let a := (c.copyPlace true j).1.toNat % 4096
    decide (a ≤ o + i) && decide (o + i < a + c.bytesOf true)

/-- One step of the rewriting of a logical block (R330): its old bytes are read, or all of it is given by the command; the new bytes are
encoded and enter the log, or wait for room; and the map entry is stored as a release. Another command's rewriting of the block may come
between. -/
def State.rewriteStep (s : State) (h pos : Nat) (c : Command) (blk : Nat) (js : List Nat) (tokens : List (BitVec 8)) : Except Bar State := do
  let va : BitVec 64 := BitVec.ofNat 64 (blk * 4096)
  let spot ← s.engineSpot c.part c.cell .write c.afresh 0 va 1
  if spot.mt != 5 then .error (.stop 4)
  let owner := entryPlaceOf spot.frame (spot.flat - spot.frame)
  let before := s.beforeCmd h pos
  match c.job with
  | none =>
    if c.coversBlock js then
      .ok (s.setCmd h pos { c with job := some ⟨blk, List.replicate 4096 0, false, none⟩, hold := .poll })
    else
      if s.keptBack before spot 4096 then .error .later
      let clear := s.clearOf h before
      let s1 ← s.gateLines c spot 14 clear ((c.keptLines js).map fun o => (spot.flat + o) / 64)
      let s2 ← if c.replicas.contains blk then s1.replicaGate c spot.zfmt va clear (c.keptLines js) else .ok s1
      let (base, s3) ← s2.commandBlock c spot va
      .ok (s3.setCmd h pos { c with
        job := some ⟨blk, if base.isEmpty then List.replicate 4096 0 else base, base.isEmpty, none⟩
        refetched := c.refetched.filter (· != blk), replicas := c.replicas.filter (· != blk), hold := .poll })
  | some jb =>
    if s.poisonedRange spot.frame 64 || s.poisonedRange owner 8 || !mapHeaderOk spot.zfmt (s.bytes spot.frame 64) then .error (.stop 3)
    match jb.placed with
    | none =>
      let stored := s.encodeBlock spot.zfmt spot.frame owner tokens (c.mergeBlock js jb.base)
      let log := field (s.bytes spot.frame 64) 16 4
      match s.appendLog c.part log stored with
      | none => .ok (s.logFull c.part log)
      | some (a, s1) => .ok (s1.setCmd h pos { c with job := some { jb with placed := some (stored.length / 64, a) }, hold := .poll })
    | some (n, a) =>
      if !s.clearOf h before then .error .later
      let s1 ← s.gateLines c spot 15 true ((js.map fun j => (spot.flat + (c.copyPlace true j).1.toNat % 4096) / 64).eraseDups)
      .ok ((s1.storeHome owner (leBytes (mapEntry n a) 8)).setCmd h pos { c with
        rewritten := c.rewritten ++ [blk], job := none, hold := .poll, status := if jb.failed then 1 else c.status })

/-- COMPRESSED_BLOCK_REWRITE (R330): nothing happens while an element of the block is not read yet. -/
def State.blockRewrite (s : State) (h pos : Nat) (tokens : List (BitVec 8)) : State :=
  match s.cmd? h pos with
  | none => s
  | some c =>
    match c.nextBlock with
    | none => s
    | some (blk, js) =>
      if !c.eng.z || c.coll || !c.free (accessNo 3 blk) || !js.all fun j => (NMap.get? c.loaded j).isSome then s
      else
        match s.rewriteStep h pos c blk js tokens with
        | .error b => s.barCommand h pos c (accessNo 3 blk) b
        | .ok s1 => s1

/-! ### TE transitions and completion (R217, R218, R221) -/

/-- Every data write of a command is performed and every transition applied, or it has stopped. -/
def State.dataDone (s : State) (c : Command) : Bool :=
  c.stopped || (if c.coll then c.entry == field c.desc 72 4
    else c.allDone && (!c.eng.te || c.teDone == (c.destLines s).length))

/-- TE_TRANSITION (R221). -/
def State.teStep (s : State) (h pos : Nat) : State :=
  match s.cmd? h pos with
  | none => s
  | some c =>
    let at_ := accessNo 2 c.teDone
    if c.coll || !c.eng.te || !c.allDone || !c.free at_ then s
    else
      match (c.destLines s)[c.teDone]? with
      | none => s
      | some line =>
        match (do
            if c.eng.dsp != 0 then .error (.stop 5)
            let spot ← s.engineSpot c.part c.cell .rmw c.afresh 0 (BitVec.ofNat 64 (line * 64)) 1
            if spot.cls = 0 then .error (.stop 5)
            if s.isPoisoned (lineOf spot.flat) then .error (.stop 3)
            let before := s.beforeCmd h pos
            if s.keptBack before spot 0 then .error .later
            s.engineGate c.part spot c.eng.q.toNat (s.clearOf h before) : Except Bar State) with
        | .error b => s.barCommand h pos c at_ b
        | .ok s1 => s1.setCmd h pos { c with teDone := c.teDone + 1, hold := .poll }

/-- The elements a completed command counts. -/
def State.finalProgress (_s : State) (c : Command) : Nat := if c.stopped || c.coll then c.progress else c.count

/-- A signal, a mailbox write or a released codelet of a hart waits for every earlier access of the hart (R249): those of the commands
before it, for a copy-engine hart with their mailbox writes. DEDUCED: log 52. -/
def State.hartClear (s : State) (h pos : Nat) : Bool :=
  ((s.hart h).running.take pos).all fun x => if x.coll then (s.unperformed x).isEmpty else x.phase == 2

/-- ENGINE_SIGNAL (R215, R218). -/
def State.engineSignal (s : State) (h pos : Nat) : State :=
  match s.cmd? h pos with
  | none => s
  | some c =>
    if c.phase != 0 || !s.dataDone c || !s.hartClear h pos then s
    else
      let k := c.cell / 8
      let s1 := if c.eng.si = 0 then s else s.setCluster k ((s.cluster k).signal c.eng.ss.toNat c.eng.si.toNat)
      s1.setCmd h pos { c with phase := 1, progress := s.finalProgress c }

/-- The mailbox of a tag (R217). -/
def mailboxOf (cell tag : Nat) : Nat := cmemBase (cell / 8) + 0xFF000 + 512 * (cell % 8) + 8 * tag

/-- Write a mailbox word (Table 10-3). -/
def State.writeMailbox (s : State) (c : Command) (status progress : Nat) : State :=
  s.storeHome (mailboxOf c.cell c.eng.tag.toNat) (leBytes (status * 2 ^ 56 + progress % 2 ^ 48) 8)

/-- MAILBOX_WRITE (R217, R218). -/
def State.mailboxWrite (s : State) (h pos : Nat) : State :=
  match s.cmd? h pos with
  | none => s
  | some c =>
    if s.hartClear h pos && (c.phase == 1 || (c.phase == 0 && c.eng.si == 0 && s.dataDone c)) then
      (s.writeMailbox c c.status (s.finalProgress c)).setCmd h pos { c with phase := 2 }
    else s

/-- The watchdog's progress counter of the queue of a launch advances (R317). -/
def State.progressed (s : State) (part launch : Nat) : State :=
  match s.launch? part launch with
  | none => s
  | some l => { s with hqs := NMap.set s.hqs l.queue { NMap.getD s.hqs l.queue HostQueue.fresh with progressAt := s.clock, t1Done := false } }

/-- TAG_READY (R218): the command is complete. -/
def State.tagDone (s : State) (h pos : Nat) : State :=
  match s.cmd? h pos with
  | none => s
  | some c =>
    if c.phase != 2 then s
    else
      let x := s.hart h
      let s1 := s.setHart h { x with running := x.running.eraseIdx pos }
      (s1.setCell c.cell ((s1.cell c.cell).setReady c.eng.tag.toNat true)).progressed c.part c.launch

/-- ENGINE_COMMAND_START (R216, R250): the command at the head of the queue starts once its wait is satisfied. -/
def State.engineStart (s : State) (h : Nat) : State :=
  let x := s.hart h
  match x.queue with
  | [] => s
  | c :: rest =>
    let begin_ (t : State) : State := t.setHart h { queue := rest, running := x.running ++ [{ c with started := true, waited := true }] }
    if c.waited || c.eng.wt = 0 then begin_ s
    else
      let k := c.cell / 8
      let r := (s.cluster k).takeSem (.hart h) c.id c.eng.ws.toNat c.eng.wt.toNat
      let s1 := s.setCluster k r.2
      if r.1 then begin_ s1 else s1

/-! ### Pausing (R311) -/

/-- The command as the context keeps it (R311, R312): a wait that was not satisfied is applied again, what has been read, written and
published is not done again, an index without its element is read again, and a block inside which a page or a line held it is rewritten
afresh. -/
def Command.pausedAt (c : Command) : Command :=
  { c with started := false, hold := .poll, job := none, progress := c.prefixDone,
           indexed := c.indexed.filter fun x => (NMap.get? c.loaded x.1).isSome }

/-- Withdraw what a hart's command waits on: its park entry and its place at a semaphore. -/
def State.withdrawCmd (s : State) (h : Nat) (c : Command) : State :=
  let s1 := if c.hold = .parked then
      { s with parked := dropFirst (fun p => p.who == .hart h && p.line == c.holdLine) s.parked,
               passes := s.passes.map fun (w : WakePass) => if w.line = c.holdLine then { w with rest := dropFirst (· == .hart h) w.rest } else w }
    else s
  let k := c.cell / 8
  s1.setCluster k { s1.cluster k with semWaiters := (s1.cluster k).semWaiters.filter fun w => !w.is (.hart h) c.id }

/-- Move a command into the context of the strand that issued it. -/
def State.pauseInto (s : State) (c : Command) : State :=
  let n := c.cell * 16 + c.slot
  match s.strand? n with
  | none => s
  | some st => (s.writeMailbox c 2 c.prefixDone).setStrand n { st with paused := st.paused ++ [(c.eng.tag.toNat, c.pausedAt)] }

/-- COMMAND_PAUSE (R311): D after the request, a copy command of the strand pauses; positions past the running commands name
the queued ones. Its mailbox write is a release, which waits for every earlier access of the hart (R249). -/
def State.commandPause (s : State) (h pos : Nat) : State :=
  let x := s.hart h
  match x.running[pos]? with
  | some c =>
    if s.pauseDue c && c.phase == 0 && !c.stopped && !s.dataDone c && c.atBoundary && s.hartClear h pos then
      let s1 := (s.withdrawCmd h c).setHart h { x with running := x.running.eraseIdx pos }
      s1.pauseInto c
    else s
  | none =>
    let q := pos - x.running.length
    match x.queue[q]? with
    | some c =>
      if s.pauseDue c && s.hartClear h x.running.length then
        let s1 := (s.withdrawCmd h c).setHart h { x with queue := x.queue.eraseIdx q }
        s1.pauseInto c
      else s
    | none => s

/-! ### Collective steps (R357, R358) -/

/-- This member's index. -/
def Command.member (c : Command) : Nat := field c.desc 64 4

/-- red(x, y) of R223 in the command's format. -/
def Command.combine (c : Command) (x y : List (BitVec 8)) : List (BitVec 8) :=
  let f : BitVec 5 := BitVec.ofNat 5 (field c.desc 2 1)
  let w := c.collBytes
  let red := field c.desc 1 1
  match floatFmt f with
  | some F =>
    let a := F.decode (leNat x)
    let b := F.decode (leNat y)
    let r := if red = 0 then (rnd F .rne (fvAdd .rne a b).1).1 else (fvMinMax (red == 2) a b).1
    leBytes (F.encode r) w
  | none =>
    let a := signedOf 32 (leNat x)
    let b := signedOf 32 (leNat y)
    leBytes (codeOf 32 (if red = 0 then a + b else if red = 1 then min a b else max a b)) w

/-- An engine's read of local element i of a collective (R246, R259, R285). -/
def State.collRead (s : State) (h pos : Nat) (c : Command) (i : Nat) (va : BitVec 64) : Except Bar (List (BitVec 8) × State) := do
  let spot ← s.engineSpot c.part c.cell .read c.afresh 0 va c.collBytes
  if spot.mt = 5 then .error (.stop 4)
  let before := s.beforeAccessOf h pos c 0 i
  if s.keptBack before spot c.collBytes then .error .later
  let s1 ← s.engineGate c.part spot 14 (s.clearOf h before)
  if s1.loadPoison none (c.cell / 8) spot.mt spot.flat c.collBytes then .error (.stop 3)
  .ok (s1.loadBytes none (c.cell / 8) spot.mt spot.flat c.collBytes, s1.flitsRead none (c.cell / 8) spot.mt spot.flat c.collBytes)

/-- LOAD_PERFORMED of a COLL: the local element i of the entry in hand is read. DEDUCED: log 55. -/
def State.collLoad (s : State) (h pos i : Nat) : State :=
  match s.cmd? h pos with
  | none => s
  | some c =>
    let at_ := accessNo 0 i
    match c.table with
    | none => s
    | some e =>
      if !c.coll || !c.free at_ || (NMap.get? c.loaded i).isSome || !(decide (field e 0 1 ≤ 1) && decide (i < field e 16 8)) then s
      else
        match s.collRead h pos c i (c.collPlace (field e 5 1 % 2 == 1) e i) with
        | .error b => s.barCommand h pos c at_ b
        | .ok (bs, s1) => s1.setCmd h pos { c with loaded := NMap.set c.loaded i bs, hold := .poll }

/-- STORE_PERFORMED of a COLL: element i of the entry in hand is written, once its received value and its local one are there. DEDUCED: log 55. -/
def State.collStore (s : State) (h pos i : Nat) : State :=
  match s.cmd? h pos with
  | none => s
  | some c =>
    let at_ := accessNo 1 i
    match c.table, NMap.get? c.blocks c.entry with
    | some e, some data =>
      let kind := field e 0 1
      let x := NMap.get? c.loaded i
      if !c.coll || !c.free at_ || c.stored.contains i || !((kind == 2 || (kind == 1 && x.isSome)) && decide (i < field e 16 8)) then s
      else
        let y := (data.drop (i * c.collBytes)).take c.collBytes
        match (do
            let spot ← s.engineSpot c.part c.cell .write c.afresh 0 (c.collPlace true e i) c.collBytes
            if spot.mt = 5 then .error (.stop 4)
            let before := s.beforeAccessOf h pos c 1 i
            if s.keptBack before spot c.collBytes then .error .later
            let s1 ← s.engineGate c.part spot 15 (s.clearOf h before)
            if s1.noStore spot.flat then .error (.stop 3)
            .ok (s1.storeFrom (c.origin h) (c.cell / 8) spot.mt spot.flat (if kind = 1 then c.combine (x.getD []) y else y))
            : Except Bar State) with
        | .error b => s.barCommand h pos c at_ b
        | .ok s1 => s1.setCmd h pos { c with stored := c.stored ++ [i], hold := .poll }
    | _, _ => s

/-- The elements a SEND transmits, once all are read. -/
def Command.sendBytes (c : Command) (n : Nat) : List (BitVec 8) := (List.range n).flatMap fun i => NMap.getD c.loaded i []

/-- Release the codelets of a completed entry (R211, R358), up to one that names no codelet block or whose counter is poisoned (R285): whether
all were, and the state. -/
def State.releaseAll (s : State) (part : Nat) : List Nat → Bool × State
  | [] => (true, s)
  | a :: rest =>
    match s.codeletAt part (BitVec.ofNat 64 a) with
    | some (cell, off) =>
      if s.isPoisoned (lineOf (lmemBase cell + off)) then (false, s) else State.releaseAll (s.decrement part cell off) part rest
    | none => (false, s)

/-- The codelets that an entry releases. -/
def entryReleases (e : List (BitVec 8)) : List Nat := (List.range (min 4 (field e 4 1))).map fun i => field e (24 + 8 * i) 8

/-- The command as it stands behind the entry in hand. -/
def Command.pastEntry (c : Command) (e : List (BitVec 8)) : Command :=
  { c with entry := if field e 0 1 = 0xFF then field c.desc 72 4 else c.entry + 1, table := none, loaded := [], stored := [], blocks := [],
           hold := .poll, progress := c.progress + (if field e 0 1 = 0xFF then 0 else field e 16 8) }

/-- The entry in hand completes: its codelets are released and the next entry comes; a REL that names no codelet block or a poisoned counter
stops the command, as an address that does not translate (R218, R285). DEDUCED: log 55. -/
def State.entryDone (s : State) (h pos : Nat) (c : Command) (e : List (BitVec 8)) : State :=
  let r := s.releaseAll c.part (entryReleases e)
  if r.1 then r.2.setCmd h pos (c.pastEntry e) else r.2.barCommand h pos (c.pastEntry e) 0 (.stop 3)

/-- An entry breaks a rule of Table 18-9. -/
def stepEntryBad (nmem : Nat) (e : List (BitVec 8)) : Bool :=
  let kind := field e 0 1
  (decide (2 < kind) && kind != 0xFF) || decide (4 < field e 4 1) || !zeroRange e 6 2 || !zeroRange e 56 8
    || (kind != 0xFF && (decide (nmem ≤ field e 2 2) || (decide (11 < field e 1 1) && field e 1 1 != 0xF) || decide (1 < field e 5 1)))

/-- The step-table entry in hand is read (Table 18-9), as any access of the engine (R259, R285). -/
def State.tableLoad (s : State) (h pos : Nat) (c : Command) : Except Bar State := do
  let spot ← s.engineSpot c.part c.cell .read c.afresh 0 c.tableVa 64
  if spot.mt = 5 then .error (.stop 4)
  let before := s.beforeAccessOf h pos c 5 c.entry
  if s.keptBack before spot 64 then .error .later
  let s1 ← s.engineGate c.part spot 14 (s.clearOf h before)
  if s1.loadPoison none (c.cell / 8) spot.mt spot.flat 64 then .error (.stop 3)
  .ok ((s1.flitsRead none (c.cell / 8) spot.mt spot.flat 64).setCmd h pos
    { c with table := some (s1.loadBytes none (c.cell / 8) spot.mt spot.flat 64), hold := .poll })

/-- Every earlier access of a collective engine is performed at system scope: what a step's completion waits for (R249, R358). -/
def State.stepClear (s : State) (h pos : Nat) : Bool := s.hartClear h pos && !s.hartOwes h

/-- A message is the one that a RECV of a command takes from a member: that of the same COLL of their group (R358). DEDUCED: log 55. -/
def Command.takes (c : Command) (peer : Nat) (m : CollMsg) : Bool :=
  m.part == c.part && m.group == field c.desc 8 4 && m.run == c.run && m.src == peer && m.dst == c.member

/-- The message that a SEND of a command to a member of this module makes. -/
def Command.message (c : Command) (peer n : Nat) : CollMsg := ⟨c.id, c.part, field c.desc 8 4, c.run, c.member, peer, c.sendBytes n⟩

/-- A SEND to another module goes out on a link and is acknowledged as a store to a peer is (R241, R356). DEDUCED: log 55. -/
def State.sendOut (s : State) (h : Nat) (c : Command) (link n : Nat) : State :=
  let k := NMap.getD s.links link Link.fresh
  { s with links := NMap.set s.links link { k with flits := k.flits + BitVec.ofNat 64 ((n * c.collBytes + 63) / 64) },
           outbound := s.outbound ++ [⟨[], c.origin h⟩] }

/-- COLL_STEP (R358): the entry in hand is read or takes its next step. A SEND transmits what has been read; a RECV takes the elements a
peer has sent (`data` when the peer is another module's) and completes once they are written; the end waits until everything that the
COLL has sent is taken, so that one whose pairs do not match waits. DEDUCED: log 55. -/
def State.collStepAt (s : State) (h : Nat) (data : List (BitVec 8)) (pos : Nat) : Option State :=
  match s.cmd? h pos with
  | none => none
  | some c =>
    if !c.coll || !c.free (accessNo (if c.table.isNone then 5 else 3) c.entry) || c.entry == field c.desc 72 4 then none
    else
      match c.table, (s.part? c.part).bind fun p => NMap.get? p.groups (field c.desc 8 4) with
      | none, _ =>
        match s.tableLoad h pos c with
        | .ok t => some t
        | .error .later => none
        | .error (.park line cls t) =>
          if s.parked.any fun p => p.who == .hart h then none else some (s.barCommand h pos c (accessNo 5 c.entry) (.park line cls t))
        | .error b => some (s.barCommand h pos c (accessNo 5 c.entry) b)
      | some _, none => some (s.barCommand h pos c (accessNo 3 c.entry) (.stop 3))
      | some e, some group =>
        let n := field e 16 8
        let peer := field e 2 2
        let here := (memberOf group peer).1 == s.moduleNo.toNat
        if stepEntryBad (field group 0 4) e then some (s.barCommand h pos c (accessNo 3 c.entry) (.stop 3))
        else if field e 0 1 = 0xFF then
          if !s.stepClear h pos || s.sent.any (fun m => m.cmd == c.id) then none else some (s.entryDone h pos c e)
        else if field e 0 1 = 0 then
          if c.loaded.length < n || !s.stepClear h pos then none
          else if here then some (State.entryDone { s with sent := s.sent ++ [c.message peer n] } h pos c e)
          else
            match s.linkTo (memberOf group peer).1 (field e 1 1) with
            | none => some (s.barCommand h pos c (accessNo 3 c.entry) (.stop 3))
            | some l => some ((s.sendOut h c l n).entryDone h pos c e)
        else
          match NMap.get? c.blocks c.entry with
          | some _ => if c.stored.length < n || !s.stepClear h pos then none else some (s.entryDone h pos c e)
          | none =>
            if here then
              match s.sent.find? (c.takes peer) with
              | none => none
              | some m =>
                if m.bytes.length != n * c.collBytes then none
                else
                  some (State.setCmd { s with sent := dropFirst (c.takes peer) s.sent } h pos
                    { c with blocks := NMap.set c.blocks c.entry m.bytes, hold := .poll })
            else if data.length != n * c.collBytes then none
            else some (s.setCmd h pos { c with blocks := NMap.set c.blocks c.entry data, hold := .poll })

/-- The first step that some running COLL of an engine can take. -/
def State.collFirst (s : State) (h : Nat) (data : List (BitVec 8)) : List Nat → State
  | [] => s
  | pos :: rest =>
    match s.collStepAt h data pos with
    | some t => t
    | none => State.collFirst s h data rest

/-- COLL_STEP on a collective engine. -/
def State.collStep (s : State) (h : Nat) (data : List (BitVec 8)) : State := s.collFirst h data (List.range (s.hart h).running.length)

/-! ### The instructions -/

/-- COPY (R219, R220). -/
def execCopy (g : Guard) (d a b : Reg) (e : EngineWords) (disp : Option (BitVec 64)) (s : State) : Host.Outcome State Fault Refusal :=
  runBody (copyIssue g (extWords disp) 0 (engineInstrWords 0x45 g d a b e disp) d a b e disp) s

/-- GETX (R222). -/
def execGetx (g : Guard) (d a b : Reg) (e : EngineWords) (disp : Option (BitVec 64)) (s : State) : Host.Outcome State Fault Refusal :=
  runBody (copyIssue g (extWords disp) 1 (engineInstrWords 0x46 g d a b e disp) d a b e disp) s

/-- PUTX (R222). -/
def execPutx (g : Guard) (d a b : Reg) (e : EngineWords) (s : State) : Host.Outcome State Fault Refusal :=
  runBody (copyIssue g 3 2 (engineInstrWords 0x47 g d a b e none) d a b e none) s

/-- COLL (R223). -/
def execColl (g : Guard) (a : Reg) (e : EngineWords) (s : State) : Host.Outcome State Fault Refusal :=
  runBody (collIssue g (engineInstrWords 0x48 g 0 a 0 e none) a e) s

end Sys2Proof.Machine
end

