-- ==== Sys2Proof/Machine/TileImage.lean ====
section
/-! DEFINITION. Tiles as the instructions of 08 read and write them: the configuration word (R19), the layout of rows and
components (R20, R79), codebooks (R80), and algebra tables (R23, R172). -/
namespace Sys2Proof.Machine

/-! ### Configuration (Table 1-4) -/

/-- ROWS, from 1. -/
def cfgRows (c : BitVec 32) : Nat := (c.extractLsb' 8 6).toNat + 1
/-- COLS, from 1. -/
def cfgCols (c : BitVec 32) : Nat := (c.extractLsb' 14 6).toNat + 1
/-- ALG. -/
def cfgAlg (c : BitVec 32) : Nat := (c.extractLsb' 5 3).toNat
/-- FMT. -/
def cfgFmt (c : BitVec 32) : BitVec 5 := c.extractLsb' 0 5

/-- A configuration word with other rows and columns. -/
def cfgShape (c : BitVec 32) (rows cols : Nat) : BitVec 32 :=
  (c &&& 0xFF) ||| BitVec.ofNat 32 ((rows - 1) * 2 ^ 8 + (cols - 1) * 2 ^ 14)

/-- The algebra table of a slot; slot 0 holds the reals (R23). -/
def Cell.alg (c : Cell) (k : Nat) : AlgTable := if k = 0 then AlgTable.reals else NMap.getD c.algs k AlgTable.reals

/-- The configuration word of a tile. -/
def Cell.cfg (c : Cell) (t : BitVec 4) : BitVec 32 := NMap.getD c.tileCfg t.toNat 0

/-- Bytes of a packed run of n components: ⌈n·w/8⌉, or ⌈n/5⌉ for TRI5 (R20). -/
def runBytes (f : BitVec 5) (n : Nat) : Nat := if f = 1 then (n + 4) / 5 else (n * fmtWidth f + 7) / 8

/-- rows × stride for a configuration and a dimension (R20). -/
def cfgBytes (c : BitVec 32) (d : Nat) : Nat := cfgRows c * runBytes (cfgFmt c) (cfgCols c * d)

/-- The size test (R20). -/
def fits (c : BitVec 32) (d : Nat) : Bool := decide (cfgBytes c d ≤ 4096)

/-! ### Packed runs (R79) -/

/-- The component codes of a packed run, and whether an invalid TRI5 byte was read. -/
def readRun (f : BitVec 5) (n : Nat) (bs : List (BitVec 8)) : List Nat × Bool :=
  if f = 1 then
    let dec := (bs.take ((n + 4) / 5)).map fun b => tri5Digits b.toNat
    ((dec.flatMap Prod.fst).take n, dec.any Prod.snd)
  else
    let v := leNat bs
    let w := fmtWidth f
    ((List.range n).map fun i => v / 2 ^ (w * i) % 2 ^ w, false)

/-- Codes as a bit string, w bits each. -/
def packCodes (w : Nat) : List Nat → Nat
  | [] => 0
  | c :: r => c % 2 ^ w + 2 ^ w * packCodes w r

/-- The TRI5 bytes of a run over the bytes it replaces, and whether an unwritten digit came from an invalid byte. -/
def writeTri5 (old : List (BitVec 8)) : List Nat → List (BitVec 8) × Bool
  | [] => ([], false)
  | c0 :: c1 :: c2 :: c3 :: c4 :: r =>
    let (bs, bad) := writeTri5 (old.drop 1) r
    (BitVec.ofNat 8 (tri5Byte [c0, c1, c2, c3, c4]) :: bs, bad)
  | cs =>
    let (ds, bad) := tri5Digits (old.headD 0).toNat
    ([BitVec.ofNat 8 (tri5Byte (cs ++ ds.drop cs.length))], bad)

/-- The bytes of a packed run over the bytes it replaces: bits past the run keep their values (R79). -/
def writeRun (f : BitVec 5) (codes : List Nat) (old : List (BitVec 8)) : List (BitVec 8) × Bool :=
  if f = 1 then writeTri5 old codes
  else
    let w := fmtWidth f
    let bits := w * codes.length
    let nb := runBytes f codes.length
    let o := leNat (old.take nb)
    (leBytes (packCodes w codes + 2 ^ bits * (o / 2 ^ bits)) nb, false)

/-! ### Tiles as rows of codes -/

/-- A tile as an instruction reads it: configuration, dimension, rows of component codes, the image's first bytes, and
whether an invalid TRI5 byte was read. -/
structure Tile where
  cfg : BitVec 32
  d : Nat
  codes : List (List Nat)
  book : List (BitVec 8)
  bad : Bool
  deriving DecidableEq, Repr

/-- Rows. -/
def Tile.rows (t : Tile) : Nat := cfgRows t.cfg
/-- Columns. -/
def Tile.cols (t : Tile) : Nat := cfgCols t.cfg
/-- Format. -/
def Tile.fmt (t : Tile) : BitVec 5 := cfgFmt t.cfg
/-- Algebra slot. -/
def Tile.alg (t : Tile) : Nat := cfgAlg t.cfg

/-- Cut a byte list into pieces of n bytes. -/
def chunks (n : Nat) (bs : List (BitVec 8)) : Nat → List (List (BitVec 8))
  | 0 => []
  | k + 1 => bs.take n :: chunks n (bs.drop n) k

/-- Read rows of packed runs from bytes. -/
def readRows (f : BitVec 5) (rows n : Nat) (bs : List (BitVec 8)) : List (List Nat) × Bool :=
  let rs := (chunks (runBytes f n) bs rows).map (readRun f n)
  (rs.map Prod.fst, rs.any Prod.snd)

/-- Write rows of packed runs over the bytes they replace. DEDUCED: log 39. -/
def writeRows (f : BitVec 5) (rows : List (List Nat)) (old : List (BitVec 8)) : List (BitVec 8) × Bool :=
  match rows with
  | [] => ([], false)
  | r :: rest =>
    let nb := runBytes f r.length
    let (bs, b0) := writeRun f r (old.take nb)
    let (more, b1) := writeRows f rest (old.drop nb)
    (bs ++ more, b0 || b1)

/-- The codebook of a LUT tile, at the top of its image (R80). -/
def bookOffset (f : BitVec 5) : Nat := if f = 27 then 4064 else 3584

/-- Read a tile. -/
def State.tile (s : State) (cell : Nat) (t : BitVec 4) : Tile :=
  let c := s.cell cell
  let cfg := c.cfg t
  let d := (c.alg (cfgAlg cfg)).d
  let base := tileBase cell t.toNat
  let (codes, bad) := readRows (cfgFmt cfg) (cfgRows cfg) (cfgCols cfg * d) (s.bytes base (cfgBytes cfg d))
  let f := cfgFmt cfg
  { cfg := cfg, d := d, codes := codes, bad := bad,
    book := if f = 27 || f = 28 then s.bytes (base + bookOffset f) (4096 - bookOffset f) else [] }

/-- A component's code: element (m, n), component c. -/
def Tile.code (t : Tile) (m n c : Nat) : Nat := (t.codes.getD m []).getD (n * t.d + c) 0

/-- The exact value of a code of a tile, and whether it is invalid (R79 to R81). -/
def Tile.valueOf (t : Tile) (code : Nat) : FV × Bool :=
  if t.fmt = 27 || t.fmt = 28 then (fp16.decode (field t.book (2 * code) 2), false) else decodeFmt t.fmt code

/-- The exact value of a component. -/
def Tile.val (t : Tile) (m n c : Nat) : FV := (t.valueOf (t.code m n c)).1

/-- Some component of the tile holds an invalid code (R79). -/
def Tile.invalid (t : Tile) : Bool := t.bad || t.codes.any fun r => r.any fun c => (t.valueOf c).2

/-- FMTINVAL when the tile holds an invalid code. -/
def Tile.flags (t : Tile) : Flags := flagIf t.invalid flagFMTINVAL

/-- The value of a rational index set: rows × cols × d results, row by row. -/
def tabulate {α : Type} (rows cols d : Nat) (f : Nat → Nat → Nat → α) : List (List α) :=
  (List.range rows).map fun m => (List.range (cols * d)).map fun i => f m (i / d) (i % d)

/-- Write rows of codes into a tile's image under a configuration's format, keeping the bits past each run; the strand's
flag for a TRI5 byte that was invalid. -/
def State.putTile (s : State) (cell : Nat) (t : BitVec 4) (f : BitVec 5) (rows : List (List Nat)) : State × Flags :=
  let base := tileBase cell t.toNat
  let n := (rows.map fun r => runBytes f r.length).foldl (· + ·) 0
  let (bs, bad) := writeRows f rows (s.bytes base n)
  (s.setBytes base bs, flagIf bad flagFMTINVAL)

/-- Set a tile's configuration word. -/
def State.setCfg (s : State) (cell : Nat) (t : BitVec 4) (w : BitVec 32) : State :=
  let c := s.cell cell
  s.setCell cell { c with tileCfg := NMap.set c.tileCfg t.toNat w }

/-! ### Algebra tables (R172) -/

/-- Target and sign of the product of component i by component j. -/
def AlgTable.at (t : AlgTable) (i j : Nat) : Nat × Int := t.entries.getD (t.d * i + j) (0, 0)

/-- Component c is negated by conjugation. -/
def AlgTable.masked (t : AlgTable) (c : Nat) : Bool := t.mask.getLsbD c

/-- An image entry is well formed for dimension d (Table 8-4). -/
def algEntryOk (d : Nat) (b : BitVec 8) : Bool :=
  let sgn := (b.extractLsb' 3 2).toNat
  let k := (b.extractLsb' 0 3).toNat
  b.extractLsb' 5 3 == 0 && sgn != 3 && decide (k < d) && (sgn != 0 || k == 0)

/-- An image entry as target and sign. -/
def algEntry (b : BitVec 8) : Nat × Int :=
  let sgn := (b.extractLsb' 3 2).toNat
  ((b.extractLsb' 0 3).toNat, if sgn = 1 then 1 else if sgn = 2 then -1 else 0)

/-- The table of an image, if every field keeps to Table 8-4. -/
def algOfImage (bs : List (BitVec 8)) : Option AlgTable :=
  let d := field bs 0 1
  let mask := bs.getD 1 0
  let es := (bs.drop 8).take (d * d)
  if (d == 1 || d == 2 || d == 4 || d == 8) && decide (mask.toNat < 2 ^ d) && zeroRange bs 2 6 && es.all (algEntryOk d)
  then some ⟨d, mask, es.map algEntry⟩ else none

end Sys2Proof.Machine
end

