-- ==== Sys2Proof/Machine/Tile.lean ====
section
/-! DEFINITION. Tile, lattice and algebra instructions (08_tile_and_algebra_instructions). -/
namespace Sys2Proof.Machine

/-! ### Common rules (R164) -/

/-- A tile lies in the grant (R18). -/
def Strand.granted (st : Strand) (t : BitVec 4) : Bool := decide (st.tfirst ≤ t.toNat) && decide (t.toNat < st.tfirst + st.tcount)

/-- A strand of the cell waits in TALG for a slot that one of the tiles names (R172). -/
def State.talgHolds (s : State) (cell : Nat) (algs : List Nat) : Bool :=
  s.slots.any fun x => cellOf x.1 == cell && x.1 != s.actor && match x.2.wait with
    | some ⟨.talg k, _⟩ => algs.contains k
    | _ => false

/-- A tile passes the size test (R20). -/
def Cell.tileFits (c : Cell) (t : BitVec 4) : Bool := fits (c.cfg t) (c.alg (cfgAlg (c.cfg t))).d

/-- A strand holds an instruction that has not issued: TALG holds it back (R172), or it holds none. -/
def Strand.unissued (st : Strand) : Bool :=
  match st.wait with
  | some w => w.kind == .talgHold
  | none => true

/-- A guarded tile instruction: the grant, the hold of a waiting TALG, and the size test when it applies. -/
def tileBody (g : Guard) (words : Nat) (sized : Bool) (tiles : List (BitVec 4)) (body : Strand → State → Out) : Strand → State → Out :=
  guarded g words fun st s =>
    let c := s.cell (cellOf s.actor)
    if !(tiles.all st.granted) then .trap tileGrant
    else if st.unissued && s.talgHolds (cellOf s.actor) (tiles.map fun t => cfgAlg (c.cfg t)) then .wait .talgHold s
    else if sized && !(tiles.all c.tileFits) then .trap (tileShape 0)
    else body st s

/-- The acting cell. -/
def State.here (s : State) : Nat := cellOf s.actor

/-- Check shape, then format, then algebra conditions (R164, R174). -/
def tileChecks (shape format algebra : Bool) : Res Unit :=
  (Res.need shape (tileShape 2)).bind fun _ => (Res.need format (tileShape 3)).bind fun _ => Res.need algebra (tileShape 4)

/-- Retire with flags ORed in. -/
def retireFlags (s : State) (words : Nat) (fl : Flags) : Out :=
  match s.me? with
  | none => .ok s
  | some st => .ok (s.setMe ((st.orFlags fl).advance words))

/-! ### Configuration and movement (R165 to R167) -/

/-- TCFG (R19 to R21, R165). -/
def tcfgBody (g : Guard) (d : BitVec 4) (a : Reg) : Strand → State → Out :=
  tileBody g 1 false [d] fun st s =>
    (readSources st s [a] none).andThen s fun r =>
      let w := src r.1 0
      let cfg : BitVec 32 := (w.extractLsb' 0 20).setWidth 32
      if w.extractLsb' 21 43 != 0 then .trap (tileShape 1)
      else if !fits cfg ((s.cell s.here).alg (cfgAlg cfg)).d then .trap (tileShape 0)
      else
        let s1 := r.2.setCfg s.here d cfg
        let s2 := if w.getLsbD 20 then s1.setBytes (tileBase s.here d.toNat) (List.replicate 4096 0) else s1
        .ok (retire s2 1)

/-- TCFGR (R165). -/
def tcfgrBody (g : Guard) (d : Reg) (a : BitVec 4) : Strand → State → Out :=
  tileBody g 1 false [a] fun st s =>
    (readSources st s [] (some d)).andThen s fun r =>
      .ok (writeDest (st.advance 1) r.2 d (((s.cell s.here).cfg a).setWidth 64))

/-- TZERO (R165). -/
def tzeroBody (g : Guard) (d : BitVec 4) : Strand → State → Out :=
  tileBody g 1 true [d] fun _ s =>
    let c := s.cell s.here
    let n := cfgBytes (c.cfg d) (c.alg (cfgAlg (c.cfg d))).d
    .ok (retire (s.setBytes (tileBase s.here d.toNat) (List.replicate n 0)) 1)

/-- TMOV (R165). -/
def tmovBody (g : Guard) (d a : BitVec 4) : Strand → State → Out :=
  tileBody g 1 true [d, a] fun _ s =>
    let bs := s.bytes (tileBase s.here a.toNat) 4096
    .ok (retire ((s.setCfg s.here d ((s.cell s.here).cfg a)).setBytes (tileBase s.here d.toNat) bs) 1)

/-- TXP (R166): elements move whole; codes are copied. -/
def txpBody (g : Guard) (d a : BitVec 4) : Strand → State → Out :=
  tileBody g 1 true [d, a] fun _ s =>
    let x := s.tile s.here a
    let cfg := cfgShape x.cfg x.cols x.rows
    if !fits cfg x.d then .trap (tileShape 0)
    else
      let rows := tabulate x.cols x.rows x.d fun m n c => x.code n m c
      .ok (retire ((s.setCfg s.here d cfg).putTile s.here d x.fmt rows).1 1)

/-- The code that negates a component of a format, and the flags, for the kinds TCONJ accepts (R167). A float's code is encoded again, so
the bits of its container below the code are 0 (R82). DEDUCED: log 39. -/
def negCode (f : BitVec 5) (code : Nat) : Nat × Flags :=
  match fmtKind f with
  | .float F => (let w := fmtWidth f; (code / 2 ^ F.shift * 2 ^ F.shift + 2 ^ (w - 1)) % 2 ^ w, 0)
  | .norm true bits =>
    let s := signedOf bits code
    let top : Int := 2 ^ (bits - 1) - 1
    (codeOf bits (if -s > top then top else -s), 0)
  | _ =>
    let (v, bad) := decodeFmt f code
    let (c, fl) := toCode f .rne v.negate
    (c, fl ||| flagIf bad flagFMTINVAL)

/-- The kinds whose components TCONJ cannot negate (R167). -/
def noConj (f : BitVec 5) : Bool :=
  match fmtKind f with
  | .norm false _ => true
  | .lut _ => true
  | .scale8 => true
  | .scale4 => true
  | _ => false

/-- The image bytes of a TRI5 tile that hold no valid byte, apart into those without and those with a component that conjugation negates:
the first are copied as they are (R167), the second are decoded (R79). -/
def Tile.badBytes (x : Tile) (t : AlgTable) (bs : List (BitVec 8)) : List Nat × List Nat :=
  let rb := runBytes x.fmt (x.cols * x.d)
  let free (i : Nat) : Bool := (List.range 5).all fun j =>
    let c := i % rb * 5 + j
    decide (x.cols * x.d ≤ c) || !t.masked (c % x.d)
  ((List.range bs.length).filter fun i => x.fmt == 1 && decide (243 ≤ (bs.getD i 0).toNat)).partition free

/-- TCONJ (R167). DEDUCED: log 39. -/
def tconjBody (g : Guard) (d a : BitVec 4) : Strand → State → Out :=
  tileBody g 1 true [d, a] fun _ s =>
    let x := s.tile s.here a
    let t := (s.cell s.here).alg x.alg
    let any := (List.range x.d).any t.masked
    if noConj x.fmt && any then .trap (tileShape 4)
    else if !any then
      let bs := s.bytes (tileBase s.here a.toNat) (cfgBytes x.cfg x.d)
      .ok (retire ((s.setCfg s.here d x.cfg).setBytes (tileBase s.here d.toNat) bs) 1)
    else
      let res := tabulate x.rows x.cols x.d fun m n c => if t.masked c then negCode x.fmt (x.code m n c) else (x.code m n c, 0)
      let (s1, fw) := (s.setCfg s.here d x.cfg).putTile s.here d x.fmt (res.map fun r => r.map Prod.fst)
      let bs := s.bytes (tileBase s.here a.toNat) (cfgBytes x.cfg x.d)
      let bad := x.badBytes t bs
      let s2 := bad.1.foldl (fun u i => u.setByte (tileBase s.here d.toNat + i) (bs.getD i 0)) s1
      let fl := res.foldl (fun f r => r.foldl (fun f x => f ||| x.2) f) (fw ||| flagIf (!bad.2.isEmpty) flagFMTINVAL)
      retireFlags s2 1 fl

/-! ### Arithmetic over algebras (R89, R90, R168, R175) -/

/-- One term of an exact sum: a product of two factors with a sign, and the flags its special values raise. -/
def term (sign : Int) (x y : FV) : FV × Flags :=
  let (p, f) := fvMul x y
  (if sign < 0 then p.negate else p, f)

/-- The terms that the algebra product of two elements gives component c. A null product (SGN 00, sign 0) is no term, whatever its factors
are. DEDUCED: log 39. -/
def algTerms (t : AlgTable) (u v : Nat → FV) (c : Nat) : List (FV × Flags) :=
  (List.range t.d).flatMap fun i => (List.range t.d).filterMap fun j =>
    let (k, sgn) := t.at i j
    if sgn != 0 && k == c then some (term sgn (u i) (v j)) else none

/-- An exact sum of terms with its flags; a zero sum is +0 (R89, R90). -/
def sumTerms (ts : List (FV × Flags)) : FV × Flags :=
  let (x, f) := fvSumExact (ts.map Prod.fst)
  (x, ts.foldl (fun a t => a ||| t.2) f)
where
  /-- NaN, infinity or the rational sum. -/
  fvSumExact (xs : List FV) : FV × Flags :=
    let pinf := xs.any fun x => x.isInf && !x.neg
    let ninf := xs.any fun x => x.isInf && x.neg
    if pinf && ninf then (.nan false, flagNV)
    else if xs.any FV.isNaN then (.nan false, 0)
    else if pinf || ninf then (.inf ninf, 0)
    else (FV.ofRat (xs.foldl (fun a x => a + x.toRat) 0), 0)

/-- Write an exact value into a result component: an INT32 wraps and sets no flag, a float rounds to nearest even. -/
def resultCode (f : BitVec 5) (x : FV) : Nat × Flags :=
  if f = 9 then (codeOf 32 x.toRat.num, 0) else toCode f .rne x

/-- TNORM (R168): A may have any format, and special values raise the flags of a lattice group. DEDUCED: log 39. -/
def tnormBody (g : Guard) (d a : BitVec 4) : Strand → State → Out :=
  tileBody g 1 true [d, a] fun _ s =>
    let x := s.tile s.here a
    let y := s.tile s.here d
    (tileChecks (y.rows == x.rows && y.cols == x.cols)
        (y.fmt == 19 || y.fmt == 18 || y.fmt == 17 || (y.fmt == 9 && isIntFmt x.fmt)) (y.d == 1)).andThen s fun _ =>
      let t := (s.cell s.here).alg x.alg
      let res := tabulate x.rows x.cols 1 fun m n _ =>
        let u (i : Nat) := x.val m n i
        let (v, f) := sumTerms (algTerms t u (fun j => if t.masked j then (u j).negate else u j) 0)
        let (c, fr) := resultCode y.fmt v
        (c, f ||| fr)
      let (s1, fw) := s.putTile s.here d y.fmt (res.map fun r => r.map Prod.fst)
      retireFlags s1 1 (res.foldl (fun f r => r.foldl (fun f x => f ||| x.2) f) (fw ||| x.flags))

/-! ### TLD and TST (R169 to R171) -/

/-- The number of bytes a TLD or TST moves (R170). -/
def transferBytes (x : Tile) (planar : Bool) : Nat :=
  if planar then x.d * x.rows * runBytes x.fmt x.cols else cfgBytes x.cfg x.d

/-- A tile's rows from planar rows, plane after plane (R170). -/
def gatherPlanes (x : Tile) (planes : List (List Nat)) : List (List Nat) :=
  tabulate x.rows x.cols x.d fun m n c => (planes.getD (c * x.rows + m) []).getD n 0

/-- Planar rows of a tile, plane after plane. -/
def scatterPlanes (x : Tile) : List (List Nat) :=
  (List.range (x.d * x.rows)).map fun i => (List.range x.cols).map fun n => x.code (i % x.rows) n (i / x.rows)

/-- TLD and TST: one plain access at the cell's buffer port (R171); with d = 1 the planar form is the interleaved one (R170). -/
def tmemBody (store : Bool) (g : Guard) (words : Nat) (d : BitVec 4) (a b : Reg) (sp : BitVec 3) (planar : Bool) (disp : BitVec 64) :
    Strand → State → Out :=
  tileBody g words true [d] fun st s =>
    (readSources st s [a, b] none).andThen s fun r =>
      let va := src r.1 0 + src r.1 1 + disp
      let x := s.tile s.here d
      let n := transferBytes x planar
      if va.toNat % 64 != 0 then .trap (alignTrap 0 va)
      else if spaceSize sp < va.toNat + n then .trap (translation 1 va)
      else if !st.window.isEmpty then .wait .poll s
      else
        st.reportAll.andThen s fun _ =>
          let s1 := r.2.drainWc s.actor
          let flat := localBase sp s.here + va.toNat
          let img := tileBase s.here d.toNat
          match (linesOf flat n).find? s1.isPoisoned with
          | some _ => .trap (translation 4 va)
          | none =>
            if planar && x.d != 1 then
              if store then
                let (bs, _) := writeRows x.fmt (scatterPlanes x) (s1.bytes flat n)
                .ok (retire (s1.storeHome flat bs) words)
              else
                let (planes, _) := readRows x.fmt (x.d * x.rows) x.cols (s1.bytes flat n)
                .ok (retire (s1.putTile s.here d x.fmt (gatherPlanes x planes)).1 words)
            else if store then .ok (retire (s1.storeHome flat (s1.bytes img n)) words)
            else .ok (retire (s1.setBytes img (s1.bytes flat n)) words)

/-! ### TALG (R172) -/

/-- The tiles that an instruction of this chapter names. -/
def tilesOf : Instr → List (BitVec 4)
  | .tcfg _ d _ | .tzero _ d | .tld _ d _ _ | .tldExtended _ d .. | .tst _ d _ _ | .tstExtended _ d .. => [d]
  | .tcfgr _ _ a => [a]
  | .tmov _ d a | .tconj _ d a | .txp _ d a | .tnorm _ d a => [d, a]
  | .mma _ _ _ _ d a b | .mmaCbuf _ _ _ _ d a b _ | .tsca _ d a b | .qnt _ d a b | .dqnt _ d a b => [d, a, b]
  | _ => []

/-- An instruction in flight in a cell, issued and not retired, names a tile on a slot: an MMA, or one that waits (R172). -/
def State.tilesInFlight (s : State) (cell alg : Nat) : Bool :=
  s.slots.any fun x => cellOf x.1 == cell && ((match x.2.mma with
    | some m => m.algs.contains alg
    | none => false)
      || !x.2.unissued && (x.2.held.toList.flatMap tilesOf).any fun t => cfgAlg ((s.cell cell).cfg t) == alg)

/-- TALG (R172): d is read and the image loaded once the strand's earlier accesses are performed, as one plain load; d of a poisoned line
is not used (R285). DEDUCED: log 39. -/
def talgBody (g : Guard) (d : BitVec 3) (a : Reg) : Strand → State → Out :=
  guarded g 1 fun st s =>
    (readSources st s [a] none).andThen s fun r =>
      let va := src r.1 0
      let base := lmemBase s.here + va.toNat
      if va.toNat % 8 != 0 then .trap (alignTrap 2 va)
      else if 98304 < va.toNat + 8 then .trap (translation 1 va)
      else if !st.window.isEmpty then .wait .poll s
      else
        let dim := (s.byte base).toNat
        if s.isPoisoned (lineOf base) then .trap (translation 4 va)
        else if 98304 < va.toNat + 8 + dim * dim then .trap (translation 1 va)
        else if s.tilesInFlight s.here d.toNat then .wait (.talg d.toNat) s
        else
          st.reportAll.andThen s fun _ =>
            let s1 := r.2.drainWc s.actor
            let n := 8 + dim * dim
            if (linesOf base n).any s1.isPoisoned then .trap (translation 4 va)
            else match algOfImage (s1.bytes base n) with
              | none => .trap (tileShape 5)
              | some t =>
                let c := s1.cell s.here
                .ok (retire (s1.setCell s.here { c with algs := NMap.set c.algs d.toNat t }) 1)

/-! ### MMA (R173 to R177) -/

/-- A lattice operand format (R88). -/
def operandFmt (f : BitVec 5) : Bool :=
  match fmtKind f with
  | .int .. => f != 9 && f != 31
  | .tri5 => true
  | .float _ => true
  | .lut _ => true
  | _ => false

/-- The suffixes of an MMA. -/
structure MmaMode where
  cb : Bool
  ca : Bool
  ba : Bool
  deriving DecidableEq, Repr

/-- The terms of prod(x, y)[c] (R175), with x from A and y from B. -/
def mmaTerms (mode : MmaMode) (t : AlgTable) (ta tb : AlgTable) (aReal bReal : Bool) (x y : Nat → FV) (c : Nat) : List (FV × Flags) :=
  let cj (tab : AlgTable) (on : Bool) (v : Nat → FV) (i : Nat) : FV := if on && tab.masked i then (v i).negate else v i
  let x' := cj ta mode.ca x
  let y' := cj tb mode.cb y
  if aReal && t.d != 1 then [term 1 (x' 0) (y' c)]
  else if bReal && t.d != 1 then [term 1 (x' c) (y' 0)]
  else if mode.ba then algTerms t y' x' c
  else algTerms t x' y' c

/-- Accumulate groups of eight in ascending order, each with one rounding (R89, R90). -/
def accumulate (f : BitVec 5) (p : Nat → List (FV × Flags)) (k : Nat) : Nat → Nat → Nat × Flags → Nat × Flags
  | 0, _, acc => acc
  | n + 1, g, acc =>
    let ks := (List.range 8).filterMap fun i => if 8 * g + i < k then some (8 * g + i) else none
    let (sum, fs) := sumTerms (ks.flatMap p)
    let next : Nat × Flags :=
      if f = 9 then ((acc.1 + codeOf 32 sum.toRat.num) % 2 ^ 32, 0)
      else
        let (v, fa) := fvAdd .rne (decodeFmt f acc.1).1 sum
        let (c, fr) := toCode f .rne v
        (c, fa ||| fr)
    accumulate f p k n (g + 1) (next.1, acc.2 ||| fs ||| next.2)

/-- The bound W on an MMA's cycles (R176); the lane cost is counted in quarters. -/
def mmaBound (a b : Tile) (d : Nat) : Nat :=
  let tri (x : BitVec 5) : Bool := x == 0 || x == 1
  let i8 (x : BitVec 5) : Bool := x == 6 || x == 7
  let wide (x : Tile) : Nat := match fmtKind x.fmt with
    | .lut _ => 8
    | .tri5 => 2
    | _ => if x.fmt = 20 then 16 else fmtWidth x.fmt
  let c4 := if a.fmt = 19 || b.fmt = 19 then 32
    else if (tri a.fmt && i8 b.fmt) || (i8 a.fmt && tri b.fmt) then 1
    else if max (wide a) (wide b) ≤ 4 then 2
    else if max (wide a) (wide b) ≤ 8 then 4 else 8
  16 + (a.rows * b.cols * a.cols * d * d * c4 + 8191) / 8192

/-- The result rows of an MMA and its flags, from the accumulator's rows (R175). -/
def mmaResult (mode : MmaMode) (t ta tb : AlgTable) (acc a b : Tile) : List (List Nat) × Flags :=
  let res := tabulate acc.rows acc.cols acc.d fun m n c =>
    accumulate acc.fmt (fun k => mmaTerms mode t ta tb (a.alg == 0) (b.alg == 0) (a.val m k) (b.val k n) c)
      a.cols ((a.cols + 7) / 8) 0 (acc.code m n c, 0)
  (res.map fun r => r.map Prod.fst, res.foldl (fun f r => r.foldl (fun f x => f ||| x.2) f) (a.flags ||| b.flags))

/-- MMA: the checks, the reads, and the flight that MMA_COMPLETION ends (R174, R176, R177). `acc` is the cbuf offset of the
L 10 form. -/
def mmaBody (mode : MmaMode) (g : Guard) (words : Nat) (d a b : BitVec 4) (creg : Option Reg) : Strand → State → Out :=
  tileBody g words true [d, a, b] fun st s =>
    let c := s.cell s.here
    let x := s.tile s.here a
    let y := s.tile s.here b
    let z := s.tile s.here d
    let k := if x.alg = 0 then y.alg else x.alg
    let ints := isIntFmt x.fmt && isIntFmt y.fmt
    (tileChecks (y.rows == x.cols && z.rows == x.rows && z.cols == y.cols)
        (operandFmt x.fmt && operandFmt y.fmt
          && (if ints then z.fmt == 9 else z.fmt == 19 || z.fmt == 18 || z.fmt == 17))
        ((x.alg == y.alg || x.alg == 0 || y.alg == 0) && z.alg == k)).andThen s fun _ =>
      (readSources st s creg.toList none).andThen s fun r =>
        let go (s1 : State) (dst : Nat) (cbuf : Bool) : Out :=
          let n := cfgBytes z.cfg z.d
          let old := s1.bytes dst n
          let acc : Tile := { z with codes := (readRows z.fmt z.rows (z.cols * z.d) old).1 }
          let (rows, fl) := mmaResult mode (c.alg k) (c.alg x.alg) (c.alg y.alg) acc x y
          let flight : MmaFlight :=
            { dst := dst, cbuf := cbuf, touched := [], algs := [x.alg, y.alg, z.alg], bytes := (writeRows z.fmt rows old).1,
              flags := fl, due := s.clock + mmaBound x y z.d }
          match s1.me? with
          | none => .ok s1
          | some st1 => .ok (s1.setMe { st1 with mma := some flight, wait := none })
        match creg with
        | none => go r.2 (tileBase s.here d.toNat) false
        | some _ =>
          let va := src r.1 0
          let n := cfgBytes z.cfg z.d
          if va.toNat % 64 != 0 then .trap (alignTrap 0 va)
          else if 65536 < va.toNat + n then .trap (translation 1 va)
          else if !st.window.isEmpty then .wait .poll s
          else
            st.reportAll.andThen s fun _ =>
              let s1 := r.2.drainWc s.actor
              let flat := cbufBase s.here + va.toNat
              if (linesOf flat n).any s1.isPoisoned then .trap (translation 4 va) else go s1 flat true

/-- Write an MMA's bytes at its completion: a cbuf byte that another agent has written meanwhile holds either value
(R177). -/
def mmaWrite (m : MmaFlight) (s : State) : State :=
  if !m.cbuf then s.setBytes m.dst m.bytes
  else if m.touched.isEmpty then s.storeHome m.dst m.bytes
  else
    let old := s.bytes m.dst m.bytes.length
    let bs := (List.range m.bytes.length).map fun i =>
      if m.touched.contains (m.dst + i) && Config.pick (s.fresh + i) % 2 = 0 then old.getD i 0 else m.bytes.getD i 0
    let s1 := s.storeHome m.dst bs
    { s1 with fresh := s1.fresh + m.bytes.length }

/-! ### Block scales (R178 to R180) -/

/-- FP32, FP16 or BF16. -/
def isFp (f : BitVec 5) : Bool := f == 19 || f == 18 || f == 17

/-- TSCA: special values raise the flags of a fused multiply-add (R95). DEDUCED: log 39. -/
def tscaBody (g : Guard) (d a b : BitVec 4) : Strand → State → Out :=
  tileBody g 1 true [d, a, b] fun _ s =>
    let z := s.tile s.here d
    let x := s.tile s.here a
    let y := s.tile s.here b
    (tileChecks (z.rows == x.rows && z.cols == x.cols && (y.rows == x.rows || y.rows == 1) && (y.cols == x.cols || y.cols == 1))
        (isFp z.fmt && (x.fmt == 9 || isFp x.fmt) && (y.fmt == 29 || y.fmt == 30 || isFp y.fmt))
        (z.alg == x.alg && y.d == 1)).andThen s fun _ =>
      let res := tabulate z.rows z.cols z.d fun m n c =>
        let sc := y.val (if y.rows = x.rows then m else 0) (if y.cols = x.cols then n else 0) 0
        let (v, f) := fvFma .rne (x.val m n c) sc (z.val m n c)
        let (code, fr) := toCode z.fmt .rne v
        (code, f ||| fr)
      let (s1, fw) := s.putTile s.here d z.fmt (res.map fun r => r.map Prod.fst)
      retireFlags s1 1 (res.foldl (fun f r => r.foldl (fun f x => f ||| x.2) f) (fw ||| y.flags))

/-- maxfin of a quantisation target (R93). -/
def maxfinOf (f : BitVec 5) : Rat :=
  match fmtKind f with
  | .int _ hi _ _ => (hi : Rat)
  | .float F => F.maxFin
  | _ => 1

/-- The scale exponent of a block of finite values (R93). -/
def scaleExp (f : BitVec 5) (m : Rat) : Int :=
  if m = 0 then -127
  else
    let q := m / maxfinOf f
    let e := floorLog2 q
    let e' := if q ≤ pow2 e then e else e + 1
    min (max e' (-127)) 127

/-- A scale code and the element codes of a block, with the flags (R93). -/
def quantBlock (f : BitVec 5) (xs : List FV) : Nat × List Nat × Flags :=
  if xs.any fun x => x.isNaN || x.isInf then (0xFF, xs.map fun _ => 0, flagNV)
  else
    let m := xs.foldl (fun a x => max a x.abs.toRat) 0
    let e := scaleExp f m
    let cs := xs.map fun x => toCode f .rne (match x with
      | .num n v => .num n (v / pow2 e)
      | y => y)
    ((e + 127).toNat, cs.map Prod.fst, cs.foldl (fun a c => a ||| c.2) 0)

/-- The quantisation targets (Table 8-6). -/
def quantTarget (f : BitVec 5) : Bool := [0, 1, 2, 4, 6, 8, 10, 11, 12, 13, 14, 15, 16, 17, 18].contains f.toNat

/-- QNT. -/
def qntBody (g : Guard) (d a b : BitVec 4) : Strand → State → Out :=
  tileBody g 1 true [d, a, b] fun _ s =>
    let z := s.tile s.here d
    let x := s.tile s.here a
    let y := s.tile s.here b
    (tileChecks (z.rows == x.rows && z.cols == x.cols && y.rows == x.rows && y.cols == (x.cols + 31) / 32)
        (quantTarget z.fmt && (isFp x.fmt || x.fmt == 20) && y.fmt == 29) (z.d == 1 && x.d == 1 && y.d == 1)).andThen s fun _ =>
      let blocks (m : Nat) := (List.range y.cols).map fun b =>
        quantBlock z.fmt ((List.range 32).filterMap fun i => if 32 * b + i < x.cols then some (x.val m (32 * b + i) 0) else none)
      let res := (List.range x.rows).map blocks
      let (s1, f1) := s.putTile s.here d z.fmt (res.map fun r => r.flatMap fun q => q.2.1)
      let (s2, f2) := s1.putTile s.here b y.fmt (res.map fun r => r.map fun q => q.1)
      retireFlags s2 1 (res.foldl (fun f r => r.foldl (fun f q => f ||| q.2.2) f) (f1 ||| f2))

/-- DQNT: special values raise the flags of a multiplication (R95). DEDUCED: log 39. -/
def dqntBody (g : Guard) (d a b : BitVec 4) : Strand → State → Out :=
  tileBody g 1 true [d, a, b] fun _ s =>
    let z := s.tile s.here d
    let x := s.tile s.here a
    let y := s.tile s.here b
    let okA := match fmtKind x.fmt with
      | .int .. => x.fmt != 9 && x.fmt != 31
      | .tri5 => true
      | .float _ => true
      | _ => false
    (tileChecks (z.rows == x.rows && z.cols == x.cols && y.rows == x.rows && y.cols == (x.cols + 31) / 32)
        (isFp z.fmt && okA && (y.fmt == 29 || y.fmt == 30)) (z.d == 1 && x.d == 1 && y.d == 1)).andThen s fun _ =>
      let res := tabulate x.rows x.cols 1 fun m n _ =>
        let (v, f) := fvMul (x.val m n 0) (y.val m (n / 32) 0)
        let (code, fr) := toCode z.fmt .rne v
        (code, f ||| fr)
      let (s1, fw) := s.putTile s.here d z.fmt (res.map fun r => r.map Prod.fst)
      retireFlags s1 1 (res.foldl (fun f r => r.foldl (fun f x => f ||| x.2) f) (fw ||| x.flags ||| y.flags))

/-! ### The instructions -/

/-- TCFG tD, gA (R165). -/
def execTcfg (g : Guard) (d : BitVec 4) (a : Reg) (s : State) : Host.Outcome State Fault Refusal := runBody (tcfgBody g d a) s

/-- TCFGR gD, tA (R165). -/
def execTcfgr (g : Guard) (d : Reg) (a : BitVec 4) (s : State) : Host.Outcome State Fault Refusal := runBody (tcfgrBody g d a) s

/-- TZERO tD (R165). -/
def execTzero (g : Guard) (d : BitVec 4) (s : State) : Host.Outcome State Fault Refusal := runBody (tzeroBody g d) s

/-- TMOV tD, tA (R165). -/
def execTmov (g : Guard) (d a : BitVec 4) (s : State) : Host.Outcome State Fault Refusal := runBody (tmovBody g d a) s

/-- TCONJ tD, tA (R167). -/
def execTconj (g : Guard) (d a : BitVec 4) (s : State) : Host.Outcome State Fault Refusal := runBody (tconjBody g d a) s

/-- TXP tD, tA (R166). -/
def execTxp (g : Guard) (d a : BitVec 4) (s : State) : Host.Outcome State Fault Refusal := runBody (txpBody g d a) s

/-- TNORM tD, tA (R168). -/
def execTnorm (g : Guard) (d a : BitVec 4) (s : State) : Host.Outcome State Fault Refusal := runBody (tnormBody g d a) s

/-- TLD tD, abuf:[gA+gB] (R169). -/
def execTld (g : Guard) (d : BitVec 4) (a b : Reg) (s : State) : Host.Outcome State Fault Refusal :=
  runBody (tmemBody false g 1 d a b 3 false 0) s

/-- TLD with a space, a layout and a displacement (R169). -/
def execTldExtended (g : Guard) (d : BitVec 4) (a b : Reg) (sp : BitVec 3) (planar : Bool) (disp : Option (BitVec 64)) (s : State) :
    Host.Outcome State Fault Refusal :=
  runBody (tmemBody false g (if disp.isSome then 5 else 3) d a b sp planar (disp.getD 0)) s

/-- TST abuf:[gA+gB], tD (R169). -/
def execTst (g : Guard) (d : BitVec 4) (a b : Reg) (s : State) : Host.Outcome State Fault Refusal :=
  runBody (tmemBody true g 1 d a b 3 false 0) s

/-- TST with a space, a layout and a displacement (R169). -/
def execTstExtended (g : Guard) (d : BitVec 4) (a b : Reg) (sp : BitVec 3) (planar : Bool) (disp : Option (BitVec 64)) (s : State) :
    Host.Outcome State Fault Refusal :=
  runBody (tmemBody true g (if disp.isSome then 5 else 3) d a b sp planar (disp.getD 0)) s

/-- MMA tD, tA, tB (R173). -/
def execMma (g : Guard) (cb ca ba : Bool) (d a b : BitVec 4) (s : State) : Host.Outcome State Fault Refusal :=
  runBody (mmaBody ⟨cb, ca, ba⟩ g 1 d a b none) s

/-- MMA tD, tA, tB, cbuf:[gC] (R173, R177). -/
def execMmaCbuf (g : Guard) (cb ca ba : Bool) (d a b : BitVec 4) (c : Reg) (s : State) : Host.Outcome State Fault Refusal :=
  runBody (mmaBody ⟨cb, ca, ba⟩ g 3 d a b (some c)) s

/-- TSCA tD, tA, tB (R179). -/
def execTsca (g : Guard) (d a b : BitVec 4) (s : State) : Host.Outcome State Fault Refusal := runBody (tscaBody g d a b) s

/-- QNT tD, tA, tB (R180). -/
def execQnt (g : Guard) (d a b : BitVec 4) (s : State) : Host.Outcome State Fault Refusal := runBody (qntBody g d a b) s

/-- DQNT tD, tA, tB (R180). -/
def execDqnt (g : Guard) (d a b : BitVec 4) (s : State) : Host.Outcome State Fault Refusal := runBody (dqntBody g d a b) s

/-- TALG algD, gA (R172). -/
def execTalg (g : Guard) (d : BitVec 3) (a : Reg) (s : State) : Host.Outcome State Fault Refusal := runBody (talgBody g d a) s

end Sys2Proof.Machine
end

