-- ==== Sys2Proof/Machine/Coproc.lean ====
section
/-! DEFINITION. The transform coprocessor (R226, R332 to R334): the offer of a request, the parameter block, the elements it
reads and writes, and its completion. -/
namespace Sys2Proof.Machine

/-! ### The parameter block (Table 17-4) -/

/-- A field of the parameter block. -/
def Xreq.fld (x : Xreq) (o n : Nat) : Nat := field x.block o n

/-- SRC. -/
def Xreq.src (x : Xreq) : Nat := x.fld 0 8
/-- DST. -/
def Xreq.dst (x : Xreq) : Nat := x.fld 8 8
/-- The quantisation target. -/
def Xreq.target (x : Xreq) : BitVec 5 := BitVec.ofNat 5 (x.fld 32 1)
/-- The elements of a block of f 1. -/
def Xreq.blockLen (x : Xreq) : Nat := 2 ^ x.fld 33 1

/-- The bytes of a source element: the layout's, FP32, or one byte. -/
def Xreq.srcBytes (x : Xreq) : Nat := if x.fn = 0 then 2 ^ x.fld 32 1 else if x.fn = 1 then 4 else 1

/-- Source elements. -/
def Xreq.count (x : Xreq) : Nat := if x.fn = 0 then x.fld 16 8 * x.fld 24 8 else x.fld 16 8

/-- The width in bits of a packed element of f 1. -/
def Xreq.width (x : Xreq) : Nat := fmtWidth x.target
/-- The elements of f 1 lie in bytes that hold parts of several (R79). -/
def Xreq.packs (x : Xreq) : Bool := x.target == 1 || decide (x.width < 8)
/-- The bytes of one store. -/
def Xreq.unitBytes (x : Xreq) : Nat := if x.fn = 0 then x.srcBytes else if x.packs then 1 else x.width / 8
/-- Stores of packed elements of f 1: the bytes of the run, or the elements of a byte or more (R79). -/
def Xreq.units (x : Xreq) : Nat :=
  if x.target = 1 then (x.count + 4) / 5 else if x.width < 8 then (x.count * x.width + 7) / 8 else x.count
/-- The elements a store of f 1 holds bits of: the first, and the one after the last (R79). -/
def Xreq.elemsOf (x : Xreq) (j : Nat) : Nat × Nat :=
  if x.target = 1 then (5 * j, min x.count (5 * j + 5))
  else if x.width < 8 then (8 * j / x.width, min x.count ((8 * j + 7) / x.width + 1))
  else (j, j + 1)
/-- The first and the last store that holds bits of an element of f 1 (R79). -/
def Xreq.unitsOf (x : Xreq) (i : Nat) : Nat × Nat :=
  if x.target = 1 then (i / 5, i / 5)
  else if x.width < 8 then (x.width * i / 8, (x.width * i + x.width - 1) / 8)
  else (i, i)
/-- The bytes of a store of f 1, given the codes of its elements and the old bytes: bits past the run keep their values (R79). -/
def Xreq.pack (x : Xreq) (j : Nat) (codes : List Nat) (old : List (BitVec 8)) : List (BitVec 8) :=
  if x.packs && x.target != 1 then
    let cut := 8 * j - x.width * (8 * j / x.width)
    let m : BitVec 8 := BitVec.ofNat 8 ((2 ^ (x.width * codes.length) - 1) / 2 ^ cut)
    [(old.headD 0 &&& ~~~m) ||| (BitVec.ofNat 8 (packCodes x.width codes / 2 ^ cut) &&& m)]
  else (writeRun x.target codes old).1
/-- Blocks of f 1. -/
def Xreq.blocksOf (x : Xreq) : Nat := (x.count + x.blockLen - 1) / x.blockLen
/-- Stores of a request in all. -/
def Xreq.stores (x : Xreq) : Nat := if x.fn = 0 then x.count else if x.fn = 1 then x.units + x.blocksOf else 0

/-- A bad field (STATUS 6). DEDUCED: log 56. -/
def Xreq.bad (x : Xreq) : Bool :=
  let inRange (v lo hi : Nat) : Bool := decide (lo ≤ v) && decide (v ≤ hi)
  !zeroRange x.block 34 30 ||
    (match x.fn with
      | 0 => !inRange (x.fld 16 8) 1 (2 ^ 20) || !inRange (x.fld 24 8) 1 (2 ^ 20) || decide (3 < x.fld 32 1) || decide (1 < x.fld 33 1)
          || x.src % x.srcBytes != 0 || x.dst % x.srcBytes != 0
      | 1 => !inRange (x.fld 16 8) 1 (2 ^ 32) || decide (31 < x.fld 32 1) || !quantTarget x.target || !inRange (x.fld 33 1) 5 12
          || x.src % 4 != 0 || x.dst % x.unitBytes != 0
      | _ => !zeroRange x.block 8 8 || decide (2 ^ 32 < x.fld 16 8) || !zeroRange x.block 28 6)

/-! ### The offer (R226, R332) -/

/-- XREQ: a busy coprocessor refuses at once; an accepted request keeps the strand until its completion. -/
def xreqBody (fn : Nat) (g : Guard) (d : BitVec 3) (a b : Reg) : Strand → State → Out :=
  guarded g 1 fun st s =>
    match st.wait with
    | some ⟨.xreq, _⟩ => .wait .xreq s
    | _ =>
      (readSources st s [a, b] none).andThen s fun r =>
        let va := src r.1 0
        let k := clusterOf s.actor
        if va.toNat % 64 != 0 then .trap (alignTrap 0 va)
        else if 98304 < va.toNat + 64 then .trap (translation 1 va)
        else if (s.cluster k).coproc.isSome then answerP s 1 d 0
        else settled false st s fun st1 s1 =>
          let flat := lmemBase (cellOf s.actor) + va.toNat
          let x : Xreq := { slot := s.actor, fn := fn, d := d, ra := a, rb := b, part := st1.part, block := s1.bytes flat 64, loaded := [],
                            stored := [], status := 0, stopped := false, hold := .poll, holdAt := 0, holdLine := 0 }
          let y := if s1.isPoisoned (lineOf flat) then { x with status := 3, stopped := true }
            else if x.bad then { x with status := 6, stopped := true } else x
          .wait .xreq (s1.setCluster k { s1.cluster k with coproc := some y })

/-! ### Steps (R250, R333) -/

/-- Replace the request in a coprocessor. -/
def State.setXreq (s : State) (k : Nat) (x : Xreq) : State := s.setCluster k { s.cluster k with coproc := some x }

/-- A request is held, or stops. -/
def State.barXreq (s : State) (k : Nat) (x : Xreq) (at_ : Nat) (b : Bar) : State :=
  match b with
  | .stop status => s.setXreq k { x with status := status, stopped := true, hold := .poll }
  | .park line cls t =>
    State.setXreq { s with parked := s.parked ++ [(⟨line, t, .coproc k, x.part, cls⟩ : Parked)] } k
      { x with hold := .parked, holdAt := at_, holdLine := line }
  | .failed status => s.setXreq k { x with status := status, stopped := true, hold := .poll }
  | .refetch _ => s
  | .replica _ => s
  | .later => s
  | .notPresent va kind =>
    let (seq, s1) := s.engineFault x.part (cellOf x.slot) (.coproc k) 0 3 va kind
    s1.setXreq k { x with hold := .faultPending seq va, holdAt := at_ }

/-- A request may take a step. -/
def Xreq.free (x : Xreq) (at_ : Nat) : Bool := !x.stopped && (x.hold == .poll || (x.hold == .replay && x.holdAt == at_))

/-- Where the layout puts source element j, as an element number (R333). -/
def Xreq.layoutPlace (x : Xreq) (j : Nat) : Nat :=
  let rows := x.fld 16 8
  let cols := x.fld 24 8
  let r := j / cols
  let c := j % cols
  if x.fld 33 1 = 0 then c * rows + r
  else
    let th := min 64 (rows - r / 64 * 64)
    let tw := min 64 (cols - c / 64 * 64)
    r / 64 * 64 * cols + th * (c / 64 * 64) + r % 64 * tw + c % 64

/-- The address and the bytes of read j. -/
def Xreq.loadAt (x : Xreq) (j : Nat) : Nat × Nat := (x.src + j * x.srcBytes, x.srcBytes)

/-- The address and the bytes of store j. -/
def Xreq.storeAt (x : Xreq) (j : Nat) : Nat × Nat :=
  if x.fn = 0 then (x.dst + x.layoutPlace j * x.srcBytes, x.srcBytes)
  else if j < x.units then (x.dst + j * x.unitBytes, x.unitBytes)
  else (x.fld 24 8 + (j - x.units), 1)

/-- Read or store i of a request is performed. -/
def Xreq.did (x : Xreq) (store : Bool) (i : Nat) : Bool := if store then x.stored.contains i else (NMap.get? x.loaded i).isSome

/-- The reads, or the stores, before number j are performed. -/
def Xreq.clear (x : Xreq) (store : Bool) (j : Nat) : Bool := (List.range j).all (x.did store)

/-- An earlier read, or store, of the request that is not performed may be an acquire (Table 12-2). DEDUCED: log 56. -/
def State.xreqBack (s : State) (x : Xreq) (store : Bool) (j : Nat) : Bool :=
  (List.range j).any fun i => !x.did store i &&
    let (a, n) := if store then x.storeAt i else x.loadAt i
    match s.engineSpot x.part (cellOf x.slot) (if store then .write else .read) false 0 (BitVec.ofNat 64 a) n with
    | .ok spot => s.mayAcquire x.part spot.cls (if store then 15 else 14)
    | .error _ => false

/-- The coprocessor of a cluster as a hart (R250), numbered behind the engines. -/
def coprocHart (k : Nat) : Nat := 386 + k

/-- Whose the stores of a request are. -/
def State.xreqOrigin (s : State) (k : Nat) (x : Xreq) : Origin :=
  .hart x.part (((s.strand? x.slot).map Strand.launch).getD 0) (coprocHart k)

/-- LOAD_PERFORMED of the coprocessor: source element j. DEDUCED: log 56. -/
def State.coprocLoad (s : State) (k j : Nat) : State :=
  match (s.cluster k).coproc with
  | none => s
  | some x =>
    if !x.free (accessNo 0 j) || x.count ≤ j || (NMap.get? x.loaded j).isSome then s
    else
      let (a, n) := x.loadAt j
      match (do
          let spot ← s.engineSpot x.part (cellOf x.slot) .read (x.hold == .replay) 0 (BitVec.ofNat 64 a) n
          if spot.mt = 5 then .error (.stop 4)
          if s.xreqBack x false j then .error .later
          let s1 ← s.engineGate x.part spot 14 (x.clear false j && !s.hartOwes (coprocHart k))
          if s1.loadPoison none k spot.mt spot.flat n then .error (.stop 3)
          .ok (s1.loadBytes none k spot.mt spot.flat n, s1.flitsRead none k spot.mt spot.flat n) : Except Bar (List (BitVec 8) × State)) with
      | .error b => s.barXreq k x (accessNo 0 j) b
      | .ok (bs, s1) => s1.setXreq k { x with loaded := NMap.set x.loaded j bs, hold := .poll }

/-- The values of a block of f 1, once all are read. -/
def Xreq.blockValues (x : Xreq) (b : Nat) : Option (List FV) :=
  let js := (List.range (min x.blockLen (x.count - b * x.blockLen))).map (b * x.blockLen + ·)
  if js.all fun j => (NMap.get? x.loaded j).isSome then some (js.map fun j => fp32.decode (leNat (NMap.getD x.loaded j []))) else none

/-- The code of element j of f 1. -/
def Xreq.quantCode (x : Xreq) (j : Nat) : Option Nat :=
  (x.blockValues (j / x.blockLen)).map fun vs => (quantBlock x.target vs).2.1.getD (j % x.blockLen) 0

/-- All the values of a list, if each is there. -/
def allSome {α : Type} : List (Option α) → Option (List α)
  | [] => some []
  | none :: _ => none
  | some a :: r => (allSome r).map (a :: ·)

/-- What store j writes, given the bytes it replaces; none while its elements are not read. -/
def Xreq.storeOf (x : Xreq) (j : Nat) : Option (List (BitVec 8) → List (BitVec 8)) :=
  if x.fn = 0 then (NMap.get? x.loaded j).map fun bs _ => bs
  else if x.fn != 1 then none
  else if j < x.units then
    let (lo, hi) := x.elemsOf j
    (allSome ((List.range (hi - lo)).map fun i => x.quantCode (lo + i))).map fun cs => x.pack j cs
  else
    (x.blockValues (j - x.units)).map fun vs _ => [BitVec.ofNat 8 (quantBlock x.target vs).1]

/-- A store lands in the source (R333). -/
def Xreq.overlapsSrc (x : Xreq) (a n : Nat) : Bool := decide (a < x.src + x.count * x.srcBytes) && decide (x.src < a + n)

/-- STORE_PERFORMED of the coprocessor: store j. -/
def State.coprocStore (s : State) (k j : Nat) : State :=
  match (s.cluster k).coproc with
  | none => s
  | some x =>
    if !x.free (accessNo 1 j) || x.stores ≤ j || x.stored.contains j then s
    else
      match x.storeOf j with
      | none => s
      | some f =>
        let (a, n) := x.storeAt j
        match (do
            let spot ← s.engineSpot x.part (cellOf x.slot) .write (x.hold == .replay) 0 (BitVec.ofNat 64 a) n
            if spot.mt = 5 then .error (.stop 4)
            if s.xreqBack x true j then .error .later
            let s1 ← s.engineGate x.part spot 15 (x.clear true j && !s.hartOwes (coprocHart k))
            if s1.noStore spot.flat then .error (.stop 3)
            let s2 := s1.storeFrom (s.xreqOrigin k x) k spot.mt spot.flat (f (s1.bytes spot.flat n))
            .ok (if x.overlapsSrc a n then s2.blurBytes spot.flat n else s2) : Except Bar State) with
        | .error b => s.barXreq k x (accessNo 1 j) b
        | .ok s1 => s1.setXreq k { x with stored := x.stored ++ [j], hold := .poll }

/-! ### Completion (R334) -/

/-- Everything a request asks for is done, or it has stopped. -/
def Xreq.done (x : Xreq) : Bool :=
  x.stopped || (if x.fn = 2 then x.loaded.length == x.count else x.stored.length == x.stores)

/-- The bytes of a checksum read so far, in order. -/
def Xreq.bytesRead (x : Xreq) : List (BitVec 8) := x.loaded.flatMap Prod.snd

/-- gA: bytes written, blocks written, or the CRC (Table of R334); the CRC of a request that stopped is not stated. -/
def Xreq.resultA (x : Xreq) (s : State) : BitVec 64 :=
  match x.fn with
  | 0 => BitVec.ofNat 64 (x.stored.length * x.srcBytes)
  | 1 => BitVec.ofNat 64 (x.stored.filter fun j => decide (x.units ≤ j)).length
  | _ => if x.stopped then Config.freeWord s.fresh else BitVec.ofNat 64 (crc32c (x.fld 24 4) x.bytesRead)

/-- Elements or bytes done. -/
def Xreq.doneCount (x : Xreq) : Nat :=
  match x.fn with
  | 0 => x.stored.length
  | 1 => ((List.range x.count).filter fun i => x.stored.contains (x.unitsOf i).1 && x.stored.contains (x.unitsOf i).2).length
  | _ => x.loaded.length

/-- XREQ_COMPLETION (R334): the two results, then the predicate, and the strand goes on. -/
def State.xreqComplete (s : State) (n : Nat) : State :=
  let k := clusterOf n
  match (s.cluster k).coproc, s.strand? n with
  | some x, some st =>
    if x.slot != n || !x.done then s
    else
      let gb : BitVec 64 := BitVec.ofNat 64 (x.status * 2 ^ 56 + x.doneCount % 2 ^ 48)
      let st1 := (((st.setG x.ra (x.resultA s)).setG x.rb gb).setP x.d (BitVec.allOnes 16)).advance 1
      let s1 := s.setCluster k { s.cluster k with coproc := none }
      State.progressed (State.setStrand { s1 with fresh := s1.fresh + 1 } n st1) st.part st.launch
  | _, _ => s

/-! ### The instructions -/

/-- XREQ.layout. -/
def execXreqLayout (g : Guard) (d : BitVec 3) (a b : Reg) (s : State) : Host.Outcome State Fault Refusal := runBody (xreqBody 0 g d a b) s
/-- XREQ.quant. -/
def execXreqQuant (g : Guard) (d : BitVec 3) (a b : Reg) (s : State) : Host.Outcome State Fault Refusal := runBody (xreqBody 1 g d a b) s
/-- XREQ.cksum. -/
def execXreqCksum (g : Guard) (d : BitVec 3) (a b : Reg) (s : State) : Host.Outcome State Fault Refusal := runBody (xreqBody 2 g d a b) s

/-! ### LOAD_PERFORMED and STORE_PERFORMED of harts -/

/-- A hart performs a read: `j` is the element's number times 64 plus the command's position among those the hart runs. -/
def State.hartLoad (s : State) (h j : Nat) : State :=
  match s.cmd? h (j % 64) with
  | some c => if c.coll then s.collLoad h (j % 64) (j / 64) else s.copyLoad h (j % 64) (j / 64)
  | none => s

/-- A hart performs a write. -/
def State.hartStore (s : State) (h j : Nat) : State :=
  match s.cmd? h (j % 64) with
  | some c => if c.coll then s.collStore h (j % 64) (j / 64) else s.copyStore h (j % 64) (j / 64)
  | none => s

end Sys2Proof.Machine
end

