-- ==== Sys2Proof/Machine/Events.lean ====
section
/-! DEFINITION. Steps that no instruction takes (R240): the performing of relaxed accesses, ports and waits that time out, the
combining buffer and the read-mostly copies, walks, records for the host, trap delivery, the end of strands, semaphores, and the
errors of memory. An event that is not enabled changes nothing. -/
namespace Sys2Proof.Machine

/-! ### Ports, stalls and timeouts -/

/-- PORT_WORD_ARRIVAL (R14): the oldest word in flight enters the queue. -/
def State.portArrive (s : State) (cell q : Nat) : State :=
  let c := s.cell cell
  let pq := c.port q
  match pq.flight with
  | [] => s
  | w :: rest =>
    if 8 ≤ pq.words.length then s
    else
      let s1 := s.setCell cell { c with ports := NMap.set c.ports q { pq with words := pq.words ++ [w], flight := rest } }
      match pq.owner with
      | some (p, _, _) => s1.arrive p (.port cell q)
      | none => s1

/-- A strand whose wait of a kind has lasted beyond its launch's port-stall limit raises PORT_STALL (R204, R207). -/
def State.stallOut (s : State) (n : Nat) (k : WaitKind) (sub : Nat) : State :=
  match s.strand? n with
  | none => s
  | some st =>
    match st.wait, s.launch? st.part st.launch with
    | some w, some l => if w.kind = k && decide (w.since + l.stall < s.clock) then s.deliver n (mkTrap 0x09 sub) else s
    | _, _ => s

/-- A strand that has just retired the instruction it held advances its queue's progress counter (R317). -/
def State.progressedIf (s : State) (n : Nat) : State :=
  match s.strand? n with
  | some st => if st.held.isNone && st.trapPend.isNone then s.progressed st.part st.launch else s
  | none => s

/-- WAITRS_TIMEOUT (R137): the deadline has come, and the instruction ends with its own rules for ports. -/
def State.waitrsExpire (s : State) (n : Nat) : State :=
  match s.strand? n with
  | none => s
  | some st =>
    match st.wait, st.held with
    | some ⟨.waitrs deadline, _⟩, some (.waitrs g d a) =>
      if s.clock < deadline then s
      else
        match execWaitrs g d a { s with actor := n } with
        | .next t => t.progressedIf n
        | _ => s
    | _, _ => s

/-- RESERVATION_INSTRUCTION_LIMIT (R136). -/
def State.reservationExpire (s : State) (n : Nat) : State :=
  match s.strand? n with
  | none => s
  | some st => { s with resv := s.resv.map fun r => if r.ownedBy st && decide (32 < r.count) then { r with lost := true } else r }

/-- YIELD_EXPIRY (R122). -/
def State.yieldExpire (s : State) (n : Nat) : State :=
  match s.strand? n with
  | none => s
  | some st =>
    match st.yielded with
    | some (since, _) => if since + 16 ≤ s.clock then s.setStrand n { st with yielded := none } else s
    | none => s

/-! ### Relaxed accesses (R243 to R246) -/

/-- An access in a window may be performed (Table 12-2). DEDUCED: log 33. -/
def mayPerform (w : List Access) (i : Nat) (x : Access) : Bool :=
  (w.take i).all fun y => !y.acquire && !x.release && !y.meets x

/-- The parts of an access that its next step performs: all of a whole one, else one lane. -/
def Access.now (x : Access) : List (Nat × Nat × List (BitVec 8)) := if x.whole then x.parts else x.parts.take 1
/-- The access once that step has been taken. -/
def Access.later (x : Access) : Access := { x with parts := if x.whole then [] else x.parts.drop 1 }

/-- Write a performed load's value (R128, R132, R162). -/
def Strand.deliverLoad (st : Strand) (x : Access) : Strand :=
  match x.dest with
  | .reg r sext => st.setG r (loadValue ((x.got.map Prod.snd).headD []) sext)
  | .vec r mask =>
    st.setV r (mergeLanes mask (st.v r) fun i => BitVec.ofNat 32 (leNat (((x.got.find? fun g => g.1 == i).map Prod.snd).getD [])))
  | .none => st

/-- The bytes one part of a load reads; those of a poisoned line, or of one that no link leads to, are a free value and are reported later
(R130, R285, R355). -/
def State.partRead (s : State) (buf : Option WcBuf) (k : Nat) (x : Access) (a : Nat) : List (BitVec 8) × Bool :=
  if s.loadPoison buf k x.memType a x.width then ((List.range x.width).map fun i => Config.freeByte (s.fresh + i), true)
  else (s.loadBytes buf k x.memType a x.width, false)

/-- Perform parts of a load of the strand in slot n. -/
def State.loadParts (s : State) (n : Nat) (st : Strand) (x : Access) : List (Nat × Nat × List (BitVec 8)) → State × Access × Bool
  | [] => (s, x, false)
  | (a, i, _) :: rest =>
    let (bs, bad) := s.partRead st.wcbuf (clusterOf n) x a
    let s1 := if bad then { s with fresh := s.fresh + x.width } else s.flitsRead st.wcbuf (clusterOf n) x.memType a x.width
    let (s2, y, b) := State.loadParts s1 n st { x with got := x.got ++ [(i, bs)] } rest
    (s2, y, bad || b)

/-- Put an access back into a window, or take it out once it is performed. -/
def putAccess (w : List Access) (i : Nat) (x : Access) : List Access := if x.parts.isEmpty then w.eraseIdx i else w.set i x

/-- The offset of a flat address in its local space (R269). -/
def localOffset (a : Nat) : Nat := if cmemBase 0 ≤ a then a % 2 ^ 20 else a % 2 ^ 17

/-- The strand waits for the lanes of a plain VGATH or VSCAT (R161). -/
def Strand.inLanes (st : Strand) : Bool :=
  match st.wait with
  | some w => w.kind == .lanes
  | none => false

/-- The words of a VGATH or VSCAT (Table 7-3). -/
def laneWords : Option Instr → Nat
  | some (.vgathExtended ..) => 3
  | some (.vscatExtended ..) => 3
  | _ => 1

/-- The last lane of a plain VGATH or VSCAT retires it (R161, R162). -/
def Strand.lanesDone (st : Strand) : Strand := if st.inLanes && st.window.isEmpty then st.advance (laneWords st.held) else st

/-- A lane of a plain VGATH or VSCAT meets poison: a precise trap at the lane's address (R285). -/
def State.lanePoison (s : State) (n i : Nat) (st : Strand) (x : Access) : State :=
  (s.setStrand n { st with window := st.window.eraseIdx i }).deliver n
    (translation 4 (BitVec.ofNat 64 (localOffset ((x.parts.map Prod.fst).headD 0))))

/-- A release in a window waits until the strand's earlier stores are acknowledged by their homes (R241, R249). -/
def State.relWaits (s : State) (st : Strand) (x : Access) : Bool := x.release && s.owes st.origin

/-- LOAD_PERFORMED of a strand (R246): the access at a place in its window. -/
def State.slotLoad (s : State) (n i : Nat) : State :=
  match s.strand? n with
  | none => s
  | some st =>
    match st.window[i]? with
    | none => s
    | some x =>
      if x.store || !mayPerform st.window i x || s.relWaits st x then s
      else
        let (s1, y, bad) := s.loadParts n st x x.now
        if bad && st.inLanes then s.lanePoison n i st x
        else
          let z := y.later
          let st1 := { st with window := putAccess st.window i z, poison := if bad then st.poison ++ [(x.dest, x.va)] else st.poison }
          let s2 := s1.setStrand n ((if z.parts.isEmpty then st1.deliverLoad z else st1).lanesDone)
          if st.inLanes then s2.progressedIf n else s2

/-- Perform parts of a store; one to a poisoned line, or one that no link leads to, is not performed (R285, R355). -/
def State.storeParts (s : State) (who : Origin) (k : Nat) (x : Access) : List (Nat × Nat × List (BitVec 8)) → State × Bool
  | [] => (s, false)
  | (a, _, bs) :: rest =>
    if s.noStore a then
      let (t, _) := State.storeParts s who k x rest
      (t, true)
    else State.storeParts (s.storeFrom who k x.memType a bs) who k x rest

/-- STORE_PERFORMED of a strand (R245). -/
def State.slotStore (s : State) (n i : Nat) : State :=
  match s.strand? n with
  | none => s
  | some st =>
    match st.window[i]? with
    | none => s
    | some x =>
      if !x.store || !mayPerform st.window i x || s.relWaits st x then s
      else
        let (s1, bad) := s.storeParts st.origin (clusterOf n) x x.now
        if bad && st.inLanes then s.lanePoison n i st x
        else
          match s1.strand? n with
          | none => s1
          | some st1 =>
            let s2 := s1.setStrand n ({ st1 with window := putAccess st1.window i x.later,
                                                 poison := if bad then st1.poison ++ [(Dest.none, x.va)] else st1.poison }).lanesDone
            if st.inLanes then s2.progressedIf n else s2

/-- STORE_PERFORMED. -/
def State.storePerformed (s : State) (who : Agent) (j : Nat) : State :=
  match who with
  | .slot n => s.slotStore n j
  | .hart h => s.hartStore h j
  | .coproc k => s.coprocStore k j
  | .view _ => s

/-! ### Copies and walks -/

/-- The flat line that a line of a cluster's global addresses names, when its page is of type read-mostly (R286): no cell window, no
local space, no page table. -/
def State.mostlyLine (s : State) (k vline : Nat) : Option Nat :=
  match (s.cluster k).owner with
  | none => none
  | some (p, _) =>
    if 2 ^ 56 ≤ 64 * vline || 64 * vline / 2 ^ 48 = 0xFF then none
    else
      match s.walk p (64 * vline) with
      | .leaf level e =>
        if leafType e != 1 || (leafLoc e == 2 && !s.peerReached p (leafFrame e + 64 * vline % levelSize level)) then none
        else some (lineOf (s.leafFlat p level e (64 * vline)))
      | _ => none

/-- Make room in a cluster's 512 KiB read-mostly cache: with 8,192 lines in it, one of them is dropped (R2, R286). -/
def State.evictCopy (s : State) (k : Nat) : State :=
  let c := s.cluster k
  if c.copies.length < 8192 then s
  else
    let (i, s1) := s.choose c.copies.length
    s1.dropCopy k ((c.copies.map Prod.fst).getD i 0)

/-- READ_MOSTLY_FILL (R247, R286) of a line by its global address: enabled while the cluster holds no copy of it. -/
def State.fillCopy (s : State) (k vline : Nat) : State :=
  match s.mostlyLine k vline with
  | none => s
  | some line =>
    if (NMap.get? (s.cluster k).copies line).isSome || s.isPoisoned line then s
    else
      let s1 := (s.evictCopy k).flitsTo (line * 64) 64
      let c := s1.cluster k
      s1.setCluster k { c with copies := NMap.set c.copies line (BitVec.ofNat 512 (leNat (s.bytes (line * 64) 64))) }

/-- PAGE_WALK (R275, R279): the leaf a walk reads enters the TLB, which holds 2,048. -/
def State.pageWalk (s : State) (k va : Nat) : State :=
  let c := s.cluster k
  match c.owner with
  | none => s
  | some (p, _) =>
    if (tlbHit c.tlb p va).isSome || 2 ^ 56 ≤ va || va / 2 ^ 48 = 0xFF then s
    else
      match s.walk p va with
      | .leaf level e =>
        s.setCluster k { c with tlb := (if c.tlb.length < 2048 then c.tlb else c.tlb.drop 1) ++ [⟨p, level, va / levelSize level, e⟩] }
      | _ => s

/-! ### Records for the host (R283, R309, R346) -/

/-- FAULT_RECORD_APPEND: the oldest record that waits is appended once there is room. DEDUCED: log 60. -/
def State.appendFault (s : State) (p : Nat) : State :=
  match s.part? p with
  | none => s
  | some x =>
    match x.faults.find? fun f => !f.appended with
    | none => s
    | some f =>
      if 1024 ≤ (x.fprod - x.fcons).toNat then s
      else
        let s1 := s.storeHome (x.fq + 32 * (x.fprod.toNat % 1024)) f.bytes
        (s1.modPart p fun y => { y with
          fprod := y.fprod + 1
          faults := y.faults.map fun (g : FaultRec) => if g.seq = f.seq then { g with appended := true } else g }).raise x.fvec

/-- ERROR_RECORD_APPEND. DEDUCED: log 60. -/
def State.appendError (s : State) (p : Nat) : State :=
  match s.part? p with
  | none => s
  | some x =>
    match x.errs with
    | [] => s
    | r :: rest =>
      if 1024 ≤ (x.eprod - x.econs).toNat then s
      else
        let s1 := s.storeHome (x.eq + 32 * (x.eprod.toNat % 1024)) r
        (s1.modPart p fun y => { y with eprod := y.eprod + 1, errs := rest }).raise x.evec

/-! ### Strands -/

/-- TRAP_DELIVERY (R229, R308): the combining buffer drains, and a trap whose strand has no outstanding access is taken. -/
def State.deliverPending (s : State) (n : Nat) : State :=
  let s1 := match s.strand? n with
    | some st => if st.trapPend.isSome then s.drainWc n else s
    | none => s
  match s1.strand? n with
  | none => s1
  | some st =>
    match st.trapPend with
    | some t => if st.drained then s1.takeTrap n t else s1
    | none => s1

/-- STRAND_END (R123): the buffer has drained, a HALT in hand reports poison (R130) or retires (R317), and a strand that a trap has
halted just ends. -/
def State.strandEnd (s : State) (n : Nat) : State :=
  match s.strand? n with
  | none => s
  | some st =>
    if !st.halting then s
    else
      let s1 := s.drainWc n
      match s1.strand? n with
      | none => s1
      | some st1 =>
        match if st1.held.isSome then st1.reportAll else .ok () with
        | .trap t => (s1.setStrand n { st1 with halting := false }).deliver n t
        | _ =>
          if s1.canEnd n st1 then
            let s2 := s1.endStrand n
            if st1.held.isSome then s2.progressed st1.part st1.launch else s2
          else s1

/-- SEMAPHORE_WAIT_STEP (R215, R251): the first waiter whose threshold is met takes and goes on. -/
def State.semStep (s : State) (k i : Nat) : State :=
  match (s.cluster k).ripe i with
  | none => s
  | some w =>
    let c := ((s.cluster k).takeSem w.who w.cmd i w.need).2
    let s1 := s.setCluster k c
    match w.who with
    | .slot n =>
      match s1.strand? n with
      | some st => (s1.setStrand n (st.advance 1)).progressed st.part st.launch
      | none => s1
    | .hart h =>
      let x := s1.hart h
      s1.setHart h { x with queue := x.queue.map fun c => if c.id = w.cmd then { c with waited := true } else c }
    | _ => s1

/-- MMA_COMPLETION (R176): the result and the flags, and the strand goes on. -/
def State.mmaComplete (s : State) (n : Nat) : State :=
  match s.strand? n with
  | none => s
  | some st =>
    match st.mma with
    | none => s
    | some m =>
      let s1 := mmaWrite m s
      match s1.strand? n with
      | none => s1
      | some st1 =>
        (s1.setStrand n ({ st1.orFlags m.flags with mma := none }.advance (if m.cbuf then 3 else 1))).progressed st.part st.launch

/-! ### Memory errors (R285, R368) -/

/-- Count a corrected error of a cluster. -/
def State.countCorr (s : State) (k : Nat) : State :=
  let c := s.cluster k
  s.setCluster k { c with corr := min (c.corr + 1) 0xFFFFFFFF }

/-- The cluster of a local line; none for device memory, and for lines outside the module. -/
def lineCluster (line : Nat) : Option Nat :=
  let a := line * 64
  if a < lmemBase 0 || hostBase ≤ a then none
  else if a < cmemBase 0 then some (a % lmemBase 0 / 2 ^ 17 / 8)
  else if a < tileBase 0 0 then some ((a - cmemBase 0) / 2 ^ 20)
  else some ((a - tileBase 0 0) / 4096 / 128)

/-- The clusters that hold a read-mostly copy of a line. -/
def State.copyHolders (s : State) (line : Nat) : List Nat := (s.clusters.filter fun k => (NMap.get? k.2.copies line).isSome).map Prod.fst

/-- MEMORY_ERROR: a corrected error is counted; an uncorrectable one poisons the line, or drops the clean copy it is found in, which
counts as a soft error (R285). Where the error of a line of device memory lies, in its data, in its sideband state, in an unmodified line of
its home cache or in a read-mostly copy, is a free choice, and so is the cluster that counts one found at the home; of a line of host or peer
memory the module has only copies. DEDUCED: log 59. -/
def State.memoryError (s : State) (line : Nat) (corrected : Bool) : State :=
  match lineCluster line with
  | some k => if corrected then s.countCorr k else { s with poisoned := NMap.set s.poisoned line 1 }
  | none =>
    if corrected then
      let (k, s1) := s.choose 192
      s1.countCorr k
    else if hostBase ≤ line * 64 then
      let ks := s.copyHolders line
      let (i, s1) := s.choose ks.length
      match ks[i]? with
      | some k => (s1.dropCopy k line).countRefetch k 1
      | none => s
    else
      let ks := s.copyHolders line
      let (i, s1) := s.choose (ks.length + 3)
      if i = 2 then { s1 with poisoned := NMap.set s1.poisoned line 2 }
      else if i = 0 then { s1 with poisoned := NMap.set s1.poisoned line 1 }
      else if i = 1 then
        let (k, s2) := s1.choose 192
        s2.countRefetch k 1
      else
        let k := ks.getD (i - 3) 0
        (s1.dropCopy k line).countRefetch k 1

/-- PARITY_ERROR (R368): the strand halts at once with a crew error record, and what it waits on lets it go. DEDUCED: log 59. -/
def State.parityError (s : State) (n : Nat) : State :=
  match s.strand? n with
  | none => s
  | some st =>
    ((((s.withdraw n).setStrand n { st with held := none }).postError st.part (errRecord st.pc.toNat st.launch st.crew st.index st.stage 0x0406 0 0 (s.pcn (cellOf n)))).haltStrand n).countCorr
      (clusterOf n)

/-! ### The events -/

/-- PORT_WORD_ARRIVAL. -/
def execPortWordArrival (cell : Nat) (q : BitVec 2) (s : State) : Host.Outcome State Fault Refusal := .next (s.portArrive cell q.toNat)
/-- PORT_STALL. -/
def execPortStall (n : Nat) (s : State) : Host.Outcome State Fault Refusal := .next (s.stallOut n .portSend 0)
/-- ENQ_STALL. -/
def execEnqStall (n : Nat) (s : State) : Host.Outcome State Fault Refusal := .next (s.stallOut n .enqFull 1)
/-- WAITRS_TIMEOUT. -/
def execWaitrsTimeout (n : Nat) (s : State) : Host.Outcome State Fault Refusal := .next (s.waitrsExpire n)
/-- RESERVATION_INSTRUCTION_LIMIT. -/
def execReservationInstructionLimit (n : Nat) (s : State) : Host.Outcome State Fault Refusal := .next (s.reservationExpire n)
/-- YIELD_EXPIRY. -/
def execYieldExpiry (n : Nat) (s : State) : Host.Outcome State Fault Refusal := .next (s.yieldExpire n)
/-- STORE_PERFORMED. -/
def execStorePerformed (who : Agent) (j : Nat) (s : State) : Host.Outcome State Fault Refusal := .next (s.storePerformed who j)
/-- READ_MOSTLY_FILL. -/
def execReadMostlyFill (k line : Nat) (s : State) : Host.Outcome State Fault Refusal := .next (s.fillCopy k line)
/-- READ_MOSTLY_DROP. -/
def execReadMostlyDrop (k line : Nat) (s : State) : Host.Outcome State Fault Refusal := .next (s.dropCopy k line)
/-- WRITE_COMBINING_DRAIN. -/
def execWriteCombiningDrain (n : Nat) (s : State) : Host.Outcome State Fault Refusal := .next (s.drainWc n)
/-- PAGE_WALK. -/
def execPageWalk (k va : Nat) (s : State) : Host.Outcome State Fault Refusal := .next (s.pageWalk k va)
/-- FAULT_RECORD_APPEND. -/
def execFaultRecordAppend (p : Nat) (s : State) : Host.Outcome State Fault Refusal := .next (s.appendFault p)
/-- ERROR_RECORD_APPEND. -/
def execErrorRecordAppend (p : Nat) (s : State) : Host.Outcome State Fault Refusal := .next (s.appendError p)
/-- TRAP_DELIVERY. -/
def execTrapDelivery (n : Nat) (s : State) : Host.Outcome State Fault Refusal := .next (s.deliverPending n)
/-- STRAND_END. -/
def execStrandEnd (n : Nat) (s : State) : Host.Outcome State Fault Refusal := .next (s.strandEnd n)
/-- SEMAPHORE_WAIT_STEP. -/
def execSemaphoreWaitStep (k i : Nat) (s : State) : Host.Outcome State Fault Refusal := .next (s.semStep k i)
/-- MMA_COMPLETION. -/
def execMmaCompletion (n : Nat) (s : State) : Host.Outcome State Fault Refusal := .next (s.mmaComplete n)
/-- MEMORY_ERROR. -/
def execMemoryError (line : Nat) (corrected : Bool) (s : State) : Host.Outcome State Fault Refusal := .next (s.memoryError line corrected)
/-- PARITY_ERROR. -/
def execParityError (n : Nat) (s : State) : Host.Outcome State Fault Refusal := .next (s.parityError n)
/-- ENGINE_COMMAND_START. -/
def execEngineCommandStart (h : Nat) (s : State) : Host.Outcome State Fault Refusal := .next (s.engineStart h)
/-- COMPRESSED_BLOCK_REWRITE. -/
def execCompressedBlockRewrite (h pos : Nat) (tokens : List (BitVec 8)) (s : State) : Host.Outcome State Fault Refusal :=
  .next (s.blockRewrite h pos tokens)
/-- TE_TRANSITION. -/
def execTeTransition (h pos : Nat) (s : State) : Host.Outcome State Fault Refusal := .next (s.teStep h pos)
/-- ENGINE_SIGNAL. -/
def execEngineSignal (h pos : Nat) (s : State) : Host.Outcome State Fault Refusal := .next (s.engineSignal h pos)
/-- MAILBOX_WRITE. -/
def execMailboxWrite (h pos : Nat) (s : State) : Host.Outcome State Fault Refusal := .next (s.mailboxWrite h pos)
/-- TAG_READY. -/
def execTagReady (h pos : Nat) (s : State) : Host.Outcome State Fault Refusal := .next (s.tagDone h pos)
/-- COMMAND_PAUSE. -/
def execCommandPause (h pos : Nat) (s : State) : Host.Outcome State Fault Refusal := .next (s.commandPause h pos)
/-- COLL_STEP: the collective engines are numbered by die. -/
def execCollStep (engine : Nat) (data : List (BitVec 8)) (s : State) : Host.Outcome State Fault Refusal :=
  .next (s.collStep (384 + engine) data)
/-- XREQ_COMPLETION. -/
def execXreqCompletion (n : Nat) (s : State) : Host.Outcome State Fault Refusal := .next (s.xreqComplete n)
/-- LOG_COLLECTOR_STEP (R331): on any log of the partition that holds blocks. -/
def State.collectAny (s : State) (p : Nat) : State :=
  let logs := (((s.part? p).map Partition.logs).getD []).filter fun l => !l.2.blocks.isEmpty
  let (i, s1) := s.choose logs.length
  match logs[i]? with
  | some (n, _) => s1.collectLog p n
  | none => s

/-- LOG_COLLECTOR_STEP. -/
def execLogCollectorStep (p : Nat) (s : State) : Host.Outcome State Fault Refusal := .next (s.collectAny p)

end Sys2Proof.Machine
end

