-- ==== Sys2Proof/Machine/Keccak.lean ====
section
/-! DEFINITION. The hash functions that signatures and digests are made with (R363, R369): the permutation of FIPS 202 and its sponges
SHA3-512, SHAKE128 and SHAKE256. PRESUMED: log 62. -/
namespace Sys2Proof.Machine

/-- The 1,600 bits as five rows of five lanes. -/
abbrev Lanes := List (List (BitVec 64))

/-- The lane in column x of row y. -/
def laneAt (a : Lanes) (x y : Nat) : BitVec 64 := (a.getD y []).getD x 0

/-- Lanes by a rule for their columns and rows. -/
def lanesBy (f : Nat → Nat → BitVec 64) : Lanes := (List.range 5).map fun y => (List.range 5).map fun x => f x y

/-- Every lane takes the parities of the columns on either side of its own, the right one turned by a bit. -/
def mixParity (a : Lanes) : Lanes :=
  let parity := a.foldl (List.zipWith (· ^^^ ·)) (List.replicate 5 0)
  let effect := (List.range 5).map fun x => parity.getD ((x + 4) % 5) 0 ^^^ (parity.getD ((x + 1) % 5) 0).rotateLeft 1
  a.map fun row => List.zipWith (· ^^^ ·) row effect

/-- The walk through the 24 lanes other than the first: from column x of row y to column y of row 2x + 3y. -/
def walkLane : Nat → Nat × Nat
  | 0 => (1, 0)
  | t + 1 =>
    let p := walkLane t
    (p.2, (2 * p.1 + 3 * p.2) % 5)

/-- Every lane of the walk goes to the next place, turned by a triangular number of bits. -/
def scatter (a : Lanes) : Lanes :=
  lanesBy fun x y => match (List.range 24).find? fun t => walkLane (t + 1) == (x, y) with
    | some t => (laneAt a (walkLane t).1 (walkLane t).2).rotateLeft ((t + 1) * (t + 2) / 2 % 64)
    | none => laneAt a 0 0

/-- Every lane takes what its row's next two lanes give. -/
def bendRows (a : Lanes) : Lanes := lanesBy fun x y => laneAt a x y ^^^ (~~~(laneAt a ((x + 1) % 5) y) &&& laneAt a ((x + 2) % 5) y)

/-- The shift register that the round constants come from: multiplication by x modulo x⁸ + x⁶ + x⁵ + x⁴ + 1. -/
def lfsrNext (v : Nat) : Nat := if v < 128 then 2 * v else (2 * v) ^^^ 0x171

/-- Bits j to j + n - 1 of a round constant, each of which stands at a power of two less one, and the register after them. -/
def drawConstant (v j : Nat) : Nat → Nat × Nat
  | 0 => (0, v)
  | n + 1 =>
    let r := drawConstant (lfsrNext v) (j + 1) n
    (r.1 + v % 2 * 2 ^ (2 ^ j - 1), r.2)

/-- A number of rounds, with the register before the first. -/
def keccakRun (a : Lanes) (v : Nat) : Nat → Lanes
  | 0 => a
  | n + 1 =>
    let c := drawConstant v 0 7
    let b := bendRows (scatter (mixParity a))
    keccakRun (lanesBy fun x y => if x = 0 && y = 0 then laneAt b 0 0 ^^^ BitVec.ofNat 64 c.1 else laneAt b x y) c.2 n

/-- The permutation: 24 rounds. -/
def keccakF (a : Lanes) : Lanes := keccakRun a 1 24

/-- The first n bytes of the lanes. -/
def lanesBytes (a : Lanes) (n : Nat) : List (BitVec 8) := (a.flatten.flatMap fun w => leBytes w.toNat 8).take n

/-- XOR a block into the lanes and permute. -/
def absorbBlock (a : Lanes) (block : List (BitVec 8)) : Lanes :=
  keccakF (lanesBy fun x y => laneAt a x y ^^^ BitVec.ofNat 64 (field block (8 * (x + 5 * y)) 8))

/-- Absorb padded blocks of a rate. -/
def absorbFrom (rate : Nat) (a : Lanes) (bs : List (BitVec 8)) : Nat → Lanes
  | 0 => a
  | n + 1 => absorbFrom rate (absorbBlock a (bs.take rate)) (bs.drop rate) n

/-- The padding of a message: the domain byte, zeros, and the last bit of the last block. -/
def padFor (rate domain len : Nat) : List (BitVec 8) :=
  (leBytes (domain + 2 ^ (8 * (rate - len % rate) - 1)) (rate - len % rate))

/-- A message absorbed under a rate and a domain byte. -/
def sponge (rate domain : Nat) (m : List (BitVec 8)) : Lanes :=
  absorbFrom rate (lanesBy fun _ _ => 0) (m ++ padFor rate domain m.length) (m.length / rate + 1)

/-- SHA3-512: 64 bytes. -/
def sha3 (m : List (BitVec 8)) : List (BitVec 8) := lanesBytes (sponge 72 6 m) 64

/-- A number of blocks squeezed out of a sponge. -/
def squeeze (rate : Nat) (a : Lanes) : Nat → List (BitVec 8)
  | 0 => []
  | n + 1 => lanesBytes a rate ++ squeeze rate (keccakF a) n

/-- SHAKE256: n bytes. -/
def shake256 (m : List (BitVec 8)) (n : Nat) : List (BitVec 8) := (squeeze 136 (sponge 136 0x1F m) ((n + 135) / 136)).take n

end Sys2Proof.Machine
end

