-- ==== Sys2Proof/Machine/MlDsa.lean ====
section
/-! DEFINITION. Verification of an ML-DSA-87 signature (R363; FIPS 204, with the empty context), over polynomials of 256 coefficients
modulo 8,380,417. PRESUMED: log 62. -/
namespace Sys2Proof.Machine

/-- The modulus q. -/
def dsaQ : Nat := 8380417

/-- A polynomial: its coefficients, or its values in the transformed domain, modulo q. -/
abbrev Poly := List Nat

/-- v to the power n modulo q, by the n's binary digits: `fuel` bounds their number. -/
def powQ (v n : Nat) : Nat → Nat
  | 0 => 1
  | fuel + 1 => if n = 0 then 1 else (if n % 2 = 1 then v else 1) * powQ (v * v % dsaQ) (n / 2) fuel % dsaQ

/-- The eight bits of a number in the other order. -/
def reverse8 (i : Nat) : Nat := (List.range 8).foldl (fun m k => m + i / 2 ^ k % 2 * 2 ^ (7 - k)) 0

/-- The point at which value i of a transform is taken: an odd power of the 512th root of unity 1753. -/
def dsaPoint (i : Nat) : Nat := powQ 1753 (2 * reverse8 i + 1) 16

/-- The value of a polynomial at a point. -/
def evalAt (p : Poly) (x : Nat) : Nat := p.foldr (fun c v => (c + x * v) % dsaQ) 0

/-- The transform: the values at the 256 points. -/
def transform (p : Poly) : Poly := (List.range 256).map fun i => evalAt p (dsaPoint i)

/-- The transform back: coefficient j is the sum of the values over the points' powers, divided by 256. -/
def transformBack (v : Poly) : Poly :=
  let inverse := (List.range 256).map fun i => powQ (dsaPoint i) (dsaQ - 2) 24
  (List.range 256).map fun j =>
    (List.zip v inverse).foldl (fun m x => m + x.1 * powQ x.2 j 8) 0 % dsaQ * powQ 256 (dsaQ - 2) 24 % dsaQ

/-- Sum modulo q. -/
def addQ (p r : Poly) : Poly := List.zipWith (fun a b => (a + b) % dsaQ) p r
/-- Difference modulo q. -/
def subQ (p r : Poly) : Poly := List.zipWith (fun a b => (a + dsaQ - b) % dsaQ) p r
/-- Product of transforms. -/
def mulQ (p r : Poly) : Poly := List.zipWith (fun a b => a * b % dsaQ) p r

/-- The n-th group of w bits of packed bytes. -/
def bitGroup (bs : List (BitVec 8)) (w n : Nat) : Nat := field bs (w * n / 8) 4 / 2 ^ (w * n % 8) % 2 ^ w

/-- Candidates of a block for a uniform polynomial: 23 bits of each three bytes, where below q. -/
def uniformFrom (bs : List (BitVec 8)) : Poly :=
  ((List.range (bs.length / 3)).map fun i => field bs (3 * i) 3 % 2 ^ 23).filter fun v => decide (v < dsaQ)

/-- A uniform polynomial from a SHAKE128 stream, of at most a number of blocks. -/
def uniformPoly (a : Lanes) (p : Poly) : Nat → Poly
  | 0 => p
  | n + 1 => if 256 ≤ p.length then p.take 256 else uniformPoly (keccakF a) (p ++ uniformFrom (lanesBytes a 168)) n

/-- Entry r, s of the matrix that a key's seed gives, transformed. -/
def matrixEntry (seed : List (BitVec 8)) (r s : Nat) : Poly :=
  uniformPoly (sponge 168 0x1F (seed ++ [BitVec.ofNat 8 s, BitVec.ofNat 8 r])) [] 64

/-- The steps of the challenge: a byte of the stream that is not beyond i places the next sign. -/
def challengeFrom (signs : Nat) : List (BitVec 8) → Nat → Poly → Poly
  | [], _, c => c
  | b :: rest, i, c =>
    let j := b.toNat
    if 256 ≤ i then c
    else if i < j then challengeFrom signs rest i c
    else
      challengeFrom signs rest (i + 1) ((c.set i (c.getD j 0)).set j (if signs / 2 ^ (i - 196) % 2 = 1 then dsaQ - 1 else 1))

/-- The challenge polynomial: 60 coefficients are 1 or -1. -/
def challenge (tilde : List (BitVec 8)) : Poly :=
  let s := shake256 tilde (136 * 16)
  challengeFrom (field s 0 8) (s.drop 8) 196 (List.replicate 256 0)

/-- Rows of the hint from the row at index `row` on: positions and the running ends; none where their order is broken. -/
def hintRows (y : List (BitVec 8)) (row first : Nat) : Nat → Option (List (List Nat))
  | 0 => if (y.drop first).take (75 - first) |>.all (· == 0) then some [] else none
  | n + 1 =>
    let end_ := (y.getD (75 + row) 0).toNat
    if end_ < first || 75 < end_ then none
    else
      let at_ := ((y.drop first).take (end_ - first)).map BitVec.toNat
      if (List.zip at_ (at_.drop 1)).any fun x => decide (x.2 ≤ x.1) then none
      else (hintRows y (row + 1) end_ n).map (at_ :: ·)

/-- The high part of a coefficient and the sign of what is left: 2γ₂ is 523,776. -/
def decomposeQ (r : Nat) : Nat × Bool :=
  let low := r % 523776
  let up := decide (261888 < low)
  let high := if up then r + 523776 - low else r - low
  if high = dsaQ - 1 then (0, false) else (high / 523776, !up && low != 0)

/-- The high part under a hint bit. -/
def useHint (hint : Bool) (r : Nat) : Nat :=
  let (high, positive) := decomposeQ r
  if !hint then high else if positive then (high + 1) % 16 else (high + 15) % 16

/-- Verification of a signature of a message under a public key. -/
def mldsaVerify (key m sig : List (BitVec 8)) : Bool :=
  let tilde := sig.take 64
  let zs : List Poly := (List.range 7).map fun i =>
    (List.range 256).map fun j => (2 ^ 19 + dsaQ - bitGroup (sig.drop (64 + 640 * i)) 20 j) % dsaQ
  let ts : List Poly := (List.range 8).map fun i => (List.range 256).map fun j => bitGroup (key.drop (32 + 320 * i)) 10 j * 2 ^ 13 % dsaQ
  let short := zs.all fun z => z.all fun v => decide (min v (dsaQ - v) < 2 ^ 19 - 120)
  let mu := shake256 (shake256 key 64 ++ [0, 0] ++ m) 64
  let c := transform (challenge tilde)
  let zt := zs.map transform
  match hintRows (sig.drop (64 + 640 * 7)) 0 0 8 with
  | none => false
  | some hints =>
    let ws : List Poly := (List.range 8).map fun r =>
      let az := ((List.range 7).map fun s => mulQ (matrixEntry (key.take 32) r s) (zt.getD s [])).foldl addQ (List.replicate 256 0)
      let w := transformBack (subQ az (mulQ c (transform (ts.getD r []))))
      (List.zip (List.range 256) w).map fun x => useHint ((hints.getD r []).contains x.1) x.2
    let packed := ws.flatMap fun w => (List.range 128).map fun i => BitVec.ofNat 8 (w.getD (2 * i) 0 + 16 * w.getD (2 * i + 1) 0)
    key.length == 2592 && sig.length == 4627 && short && shake256 (mu ++ packed) 64 == tilde

end Sys2Proof.Machine
end

