-- ==== Sys2Proof/Machine/Av1.lean ====
section
/-! DEFINITION. What R351 says of a view engine's bitstream: that a temporal unit is in AV1's low-overhead format and holds one shown
frame of Main profile 4:2:0 at the bound depth, size and number of tile columns, behind a sequence header if it is a key frame. The syntax
is that of the AV1 bitstream specification as far as base_q_idx; what codes the picture behind it is replaced by free bytes. PRESUMED: log 57. -/
namespace Sys2Proof.Machine

/-! ### Reading bits, the most significant first: a reader's state is its place -/

/-- The bit at a place of some bytes; zero beyond their end. -/
def bitAt (b : List (BitVec 8)) (i : Nat) : Nat := ((b.getD (i / 8) 0).getLsbD (7 - i % 8)).toNat

/-- f(n). -/
def readBits (b : List (BitVec 8)) (n : Nat) : StateM Nat Nat := fun p =>
  ((List.range n).foldl (fun v i => 2 * v + bitAt b (p + i)) 0, p + n)

/-- f(1) as a condition. -/
def readFlag (b : List (BitVec 8)) : StateM Nat Bool := do return (← readBits b 1) == 1

/-- f(n) if a condition holds, else a default. -/
def readIf (b : List (BitVec 8)) (on : Bool) (n other : Nat) : StateM Nat Nat := if on then readBits b n else return other

/-- uvlc(). -/
def readUvlc (b : List (BitVec 8)) : StateM Nat Nat := fun p =>
  let zeros := (List.range 32).takeWhile fun i => bitAt b (p + i) == 0
  let (v, q) := readBits b zeros.length (p + zeros.length + 1)
  (v + 2 ^ zeros.length - 1, q)

/-- ns(n). -/
def readNs (b : List (BitVec 8)) (n : Nat) : StateM Nat Nat := do
  let w := Nat.log2 n + 1
  let m := 2 ^ w - n
  let v ← readBits b (w - 1)
  if v < m then return v
  return 2 * v - m + (← readBits b 1)

/-- Run a reader n times. -/
def readTimes (n : Nat) (r : Nat → StateM Nat Unit) : StateM Nat Unit := (List.range n).foldl (fun m i => do m; r i) (pure ())

/-! ### sequence_header_obu() -/

/-- What the frame headers of a sequence ask of its header, and what R351 says of it. -/
structure SeqHeader where
  profile : Nat
  reduced : Bool
  equalPicture : Bool
  model : Bool
  presentBits : Nat
  removalBits : Nat
  points : List (Nat × Bool)
  widthBits : Nat
  heightBits : Nat
  maxWidth : Nat
  maxHeight : Nat
  idBits : Nat
  deltaBits : Nat
  bigBlocks : Bool
  orderBits : Nat
  motionVectors : Bool
  screen : Nat
  integerMv : Nat
  superres : Bool
  deep : Bool
  mono : Bool
  subsampled : Bool
  matrix : Nat
  full : Bool
  deriving DecidableEq, Repr

/-- The operating points: each one's idc, and whether it has a decoder model. -/
def readPoints (b : List (BitVec 8)) (model delayed : Bool) (delayBits : Nat) : Nat → StateM Nat (List (Nat × Bool))
  | 0 => return []
  | n + 1 => do
    let idc ← readBits b 12
    let level ← readBits b 5
    let _ ← readIf b (decide (7 < level)) 1 0
    let has ← readIf b model 1 0
    let _ ← readIf b (has == 1) (2 * delayBits + 1) 0
    let shown ← readIf b delayed 1 0
    let _ ← readIf b (shown == 1) 4 0
    return (idc, has == 1) :: (← readPoints b model delayed delayBits n)

/-- The payload of a sequence header. -/
def readSeq (b : List (BitVec 8)) : StateM Nat SeqHeader := do
  let profile ← readBits b 3
  let _ ← readBits b 1
  let reduced ← readFlag b
  let timing ← readIf b (!reduced) 1 0
  let _ ← readIf b (timing == 1) 64 0
  let equal ← readIf b (timing == 1) 1 0
  if equal == 1 then let _ ← readUvlc b
  let model ← readIf b (timing == 1) 1 0
  let delayBits ← readIf b (model == 1) 5 0
  let _ ← readIf b (model == 1) 32 0
  let removal ← readIf b (model == 1) 5 0
  let present ← readIf b (model == 1) 5 0
  let delayed ← readIf b (!reduced) 1 0
  let more ← readIf b (!reduced) 5 0
  if reduced then let _ ← readBits b 5
  let points ← if reduced then pure [(0, false)] else readPoints b (model == 1) (delayed == 1) (delayBits + 1) (more + 1)
  let wb ← readBits b 4
  let hb ← readBits b 4
  let w ← readBits b (wb + 1)
  let h ← readBits b (hb + 1)
  let ids ← readIf b (!reduced) 1 0
  let delta ← readIf b (ids == 1) 4 0
  let extra ← readIf b (ids == 1) 3 0
  let big ← readFlag b
  let _ ← readBits b 2
  let _ ← readIf b (!reduced) 4 0
  let order ← readIf b (!reduced) 1 0
  let _ ← readIf b (order == 1) 1 0
  let mvs ← readIf b (order == 1) 1 0
  let anyScreen ← readIf b (!reduced) 1 1
  let screen ← readIf b (anyScreen == 0) 1 2
  let anyInteger ← readIf b (!reduced && screen != 0) 1 1
  let integer ← readIf b (anyInteger == 0) 1 2
  let orderBits ← readIf b (order == 1) 3 0
  let superres ← readFlag b
  let _ ← readBits b 2
  let deep ← readFlag b
  let mono ← readIf b (profile != 1) 1 0
  let described ← readIf b true 1 0
  let primaries ← readIf b (described == 1) 8 2
  let transfer ← readIf b (described == 1) 8 2
  let matrix ← readIf b (described == 1) 8 2
  let srgb := primaries == 1 && transfer == 13 && matrix == 0
  let range ← readIf b (mono == 1 || !srgb) 1 1
  return {
    profile := profile, reduced := reduced, equalPicture := equal == 1, model := model == 1, presentBits := present + 1
    removalBits := removal + 1, points := points, widthBits := wb + 1, heightBits := hb + 1, maxWidth := w + 1, maxHeight := h + 1
    idBits := if ids == 1 then extra + delta + 3 else 0, deltaBits := delta + 2, bigBlocks := big
    orderBits := if order == 1 then orderBits + 1 else 0, motionVectors := mvs == 1, screen := screen, integerMv := integer
    superres := superres, deep := deep, mono := mono == 1
    subsampled := profile == 0 && !srgb, matrix := matrix, full := range == 1 }

/-! ### uncompressed_header() as far as base_q_idx -/

/-- What R351 says of a frame: its type, whether it is new and shown, its size, its tile columns, and its quantiser. -/
structure FrameInfo where
  type : Nat
  fresh : Bool
  width : Nat
  height : Nat
  columns : Nat
  wide : Nat
  quantiser : Nat
  deriving DecidableEq, Repr

/-- frame_size() and superres_params(): the width upscaled and coded, and the height. -/
def readSize (b : List (BitVec 8)) (q : SeqHeader) (override : Bool) : StateM Nat (Nat × Nat × Nat) := do
  let w ← readIf b override q.widthBits (q.maxWidth - 1)
  let h ← readIf b override q.heightBits (q.maxHeight - 1)
  let use ← readIf b q.superres 1 0
  let coded ← readIf b (use == 1) 3 0
  let width := w + 1
  return (width, if use == 1 then (width * 8 + (coded + 9) / 2) / (coded + 9) else width, h + 1)

/-- render_size(). -/
def skipRender (b : List (BitVec 8)) : StateM Nat Unit := do
  let other ← readFlag b
  let _ ← readIf b other 32 0

/-- frame_size_with_refs(): every frame of an engine has the bound size, so one found in a reference has it. -/
def readSizeRefs (b : List (BitVec 8)) (q : SeqHeader) (w h : Nat) : Nat → StateM Nat (Nat × Nat × Nat)
  | 0 => do
    let r ← readSize b q true
    skipRender b
    return r
  | n + 1 => do
    if ← readFlag b then
      let use ← readIf b q.superres 1 0
      let coded ← readIf b (use == 1) 3 0
      return (w, if use == 1 then (w * 8 + (coded + 9) / 2) / (coded + 9) else w, h)
    else readSizeRefs b q w h n

/-- The tiles of one direction at uniform spacing: increments of the logarithm from the least one on. -/
def readUniform (b : List (BitVec 8)) (most : Nat) (k : Nat) : Nat → StateM Nat Nat
  | 0 => return k
  | n + 1 => do
    if most ≤ k then return k
    else if ← readFlag b then readUniform b most (k + 1) n
    else return k

/-- The tiles of one direction whose sizes are written out: their number and the greatest size. -/
def readSizes (b : List (BitVec 8)) (total most start : Nat) : Nat → StateM Nat (Nat × Nat)
  | 0 => return (0, 0)
  | n + 1 => do
    if total ≤ start then return (0, 0)
    else
      let w ← readNs b (min (total - start) most)
      let (k, widest) ← readSizes b total most (start + w + 1) n
      return (k + 1, max widest (w + 1))

/-- The least k with n · 2^k not below m. -/
def tileLog2 (n m : Nat) : Nat := ((List.range 33).find? fun k => decide (m ≤ n * 2 ^ k)).getD 33

/-- tile_info(): the number of tile columns of a frame of some superblock columns and rows. -/
def readTiles (b : List (BitVec 8)) (q : SeqHeader) (cols rows : Nat) : StateM Nat Nat := do
  let most := if q.bigBlocks then 32 else 64
  let least := max (tileLog2 most cols) (tileLog2 (if q.bigBlocks then 576 else 2304) (rows * cols))
  let (n, c, r) ← if ← readFlag b then do
      let k ← readUniform b (tileLog2 1 (min cols 64)) (tileLog2 most cols) 7
      let w := (cols + 2 ^ k - 1) / 2 ^ k
      let m ← readUniform b (tileLog2 1 (min rows 64)) (least - k) 7
      pure ((cols + w - 1) / w, k, m)
    else do
      let (n, widest) ← readSizes b cols most 0 64
      let area := if 0 < least then rows * cols / 2 ^ (least + 1) else rows * cols
      let (m, _) ← readSizes b rows (max (area / widest) 1) 0 64
      pure (n, tileLog2 1 n, tileLog2 1 m)
  let _ ← readIf b (decide (0 < c + r)) (c + r + 2) 0
  return n

/-- The payload of a frame or frame header OBU in the temporal and spatial layer that its extension names. -/
def readFrame (b : List (BitVec 8)) (q : SeqHeader) (temporal spatial bw bh : Nat) : StateM Nat FrameInfo := do
  let existing ← readIf b (!q.reduced) 1 0
  let type ← readIf b (!q.reduced) 2 0
  let intra := type == 0 || type == 2
  let shown ← readIf b (!q.reduced) 1 1
  let _ ← readIf b (shown == 1 && q.model && !q.equalPicture) q.presentBits 0
  let _ ← readIf b (shown == 0) 1 0
  let resilient ← readIf b (!(type == 3 || (type == 0 && shown == 1))) 1 1
  let fixed ← readFlag b
  let screen ← readIf b (q.screen == 2) 1 q.screen
  let integer ← readIf b (screen == 1 && q.integerMv == 2) 1 (if screen == 1 then q.integerMv else 0)
  let _ ← readBits b q.idBits
  let override ← readIf b (!q.reduced && type != 3) 1 (if type == 3 then 1 else 0)
  let _ ← readBits b q.orderBits
  let _ ← readIf b (!(intra || resilient == 1)) 3 7
  let removal ← readIf b q.model 1 0
  if removal == 1 then
    readTimes q.points.length fun i => do
      let (idc, has) := q.points.getD i (0, false)
      let here := idc == 0 || (idc.testBit temporal && idc.testBit (spatial + 8))
      let _ ← readIf b (has && here) q.removalBits 0
  let all := type == 3 || (type == 0 && shown == 1)
  let refresh ← readIf b (!all) 8 255
  if (!intra || refresh != 255) && resilient == 1 then let _ ← readBits b (8 * q.orderBits)
  let size ← if intra then do
      let r ← readSize b q (override == 1)
      skipRender b
      let _ ← readIf b (screen == 1 && r.1 == r.2.1) 1 0
      pure r
    else do
      let short ← readIf b (q.orderBits != 0) 1 0
      let _ ← readIf b (short == 1) 6 0
      readTimes 7 fun _ => do
        let _ ← readIf b (short == 0) 3 0
        let _ ← readIf b (q.idBits != 0) q.deltaBits 0
      let r ← if override == 1 && resilient == 0 then readSizeRefs b q bw bh 7 else do
        let r ← readSize b q (override == 1)
        skipRender b
        pure r
      let _ ← readIf b (integer == 0) 1 0
      let switchable ← readFlag b
      let _ ← readIf b (!switchable) 2 0
      let _ ← readBits b 1
      let _ ← readIf b (resilient == 0 && q.motionVectors) 1 0
      pure r
  let _ ← readIf b (!q.reduced && !fixed) 1 1
  let blocks (n : Nat) : Nat := let units := 2 * ((n + 7) / 8); if q.bigBlocks then (units + 31) / 32 else (units + 15) / 16
  let cols := blocks size.2.1
  let tiles ← readTiles b q cols (blocks size.2.2)
  let quantiser ← readBits b 8
  return ⟨type, existing == 0 && shown == 1, size.1, size.2.2, tiles, cols, quantiser⟩

/-! ### The temporal unit -/

/-- An OBU: its type, its layers and its payload. -/
structure Obu where
  type : Nat
  temporal : Nat
  spatial : Nat
  payload : List (BitVec 8)
  deriving DecidableEq, Repr

/-- leb128(): the value and the bytes after it; none where it does not end in eight bytes. -/
def readLeb : Nat → List (BitVec 8) → Option (Nat × List (BitVec 8))
  | 0, _ => none
  | _, [] => none
  | n + 1, x :: rest =>
    if x.getLsbD 7 then (readLeb n rest).map fun r => (x.toNat % 128 + 128 * r.1, r.2) else some (x.toNat, rest)

/-- The OBUs of a unit in the low-overhead format, each of which gives its size; none where the bytes are no such sequence. -/
def readObus : Nat → List (BitVec 8) → Option (List Obu)
  | _, [] => some []
  | 0, _ => none
  | n + 1, x :: rest =>
    let ext := x.getLsbD 2
    let layers := if ext then (rest.headD 0).toNat else 0
    match if ext then rest.tail else rest with
    | after =>
      if x.getLsbD 7 || x.getLsbD 0 || !x.getLsbD 1 || (ext && rest.isEmpty) then none
      else match readLeb 8 after with
        | none => none
        | some (len, body) =>
          if body.length < len then none
          else (readObus n (body.drop len)).map (⟨x.toNat / 8 % 16, layers / 32, layers / 8 % 4, body.take len⟩ :: ·)

/-- The sequence header that holds for a unit: its own, or the one of the last key frame. -/
def unitSeq (last : List (BitVec 8)) (os : List Obu) : List (BitVec 8) := ((os.find? fun o => o.type == 1).map Obu.payload).getD last

/-- The sequence header keeps to R351 at a depth. -/
def SeqHeader.fits (q : SeqHeader) (depth : Nat) : Bool :=
  q.profile == 0 && !q.mono && q.subsampled && q.deep == (depth == 10) && (q.matrix == 1 || q.matrix == 2)

/-- What the coding of a picture takes from a unit's headers: whether its samples have the full range, the quantiser, and the bits of the frame
header that have been read. -/
structure UnitInfo where
  full : Bool
  quantiser : Nat
  stop : Nat
  deriving DecidableEq, Repr

/-- A unit keeps to R351 for an engine's size, depth and tile columns: a temporal delimiter, then one frame, shown and new, which is a key
frame exactly when `key` says so and then stands behind a sequence header; `last` is the sequence header of the last key frame. A frame
with fewer superblock columns than T has a tile column for each. -/
def unitInfo (w h depth t : Nat) (key : Bool) (last unit : List (BitVec 8)) : Option UnitInfo :=
  match readObus unit.length unit with
  | none => none
  | some [] => none
  | some (o :: os) =>
    let frames := os.filter fun x => x.type == 3 || x.type == 6
    match frames with
    | [f] =>
      let (q, end_) := (readSeq (unitSeq last os)).run 0
      let (i, stop) := (readFrame f.payload q f.temporal f.spatial w h).run 0
      if o.type == 2 && o.payload.isEmpty && os.all (fun x => [1, 3, 4, 5, 6, 7, 15].contains x.type)
        && decide (end_ ≤ 8 * (unitSeq last os).length) && decide (stop ≤ 8 * f.payload.length)
        && (!key || (os.takeWhile fun x => x.type != 3 && x.type != 6).any fun x => x.type == 1)
        && q.fits depth && i.fresh && (i.type == 0) == key && i.width == w && i.height == h && i.columns == min t i.wide
      then some ⟨q.full, i.quantiser, stop⟩ else none
    | _ => none

/-- A unit with what codes its picture replaced: the frame OBU behind the bytes that hold the first `stop` bits of its header, and tile groups;
`tile` gives the byte at a place of the unit, and `place` is that of the first byte here. -/
def withTiles (stop : Nat) (tile : Nat → BitVec 8) : Nat → Nat → List (BitVec 8) → List (BitVec 8)
  | 0, _, b => b
  | _ + 1, _, [] => []
  | n + 1, place, x :: rest =>
    match readLeb 8 (if x.getLsbD 2 then rest.tail else rest) with
    | none => x :: rest
    | some (len, body) =>
      let head := (x :: rest).take (rest.length + 1 - body.length)
      let keep := match x.toNat / 8 % 16 with
        | 4 => 0
        | 6 => min len ((stop + 7) / 8)
        | _ => len
      head ++ body.take keep ++ (List.range (len - keep)).map (fun i => tile (place + head.length + keep + i))
        ++ withTiles stop tile n (place + head.length + len) (body.drop len)

/-! ### The picture (Table 18-8, PIX; R351) -/

/-- Full scale of a colour component as it is read: 1 is this many units. -/
def pixelScale (pix : Nat) : Nat := if pix = 0 then 255 else if pix = 1 then 1023 else 2 ^ 24

/-- An FP16 component in units of 2⁻²⁴, clamped to [0, 1]; a NaN counts as 0. -/
def clampHalf (code : Nat) : Nat :=
  match fp16.decode code with
  | .nan _ => 0
  | .inf n => if n then 0 else 2 ^ 24
  | .num n m => if n then 0 else min (m * 2 ^ 24).floor.toNat (2 ^ 24)

/-- Red, green and blue of a pixel by its bytes; alpha is not looked at. -/
def pixelOf (pix : Nat) (b : List (BitVec 8)) : Nat × Nat × Nat :=
  match pix with
  | 0 => (field b 0 1, field b 1 1, field b 2 1)
  | 1 => let w := field b 0 4; (w % 1024, w / 1024 % 1024, w / 2 ^ 20 % 1024)
  | _ => (clampHalf (field b 0 2), clampHalf (field b 2 2), clampHalf (field b 4 2))

/-- num / den to the nearest whole number, halves up, within the codes of a depth. -/
def sampleCode (depth : Nat) (num : Int) (den : Nat) : Nat := (max 0 (min ((2 * num + den) / (2 * den)) (2 ^ depth - 1))).toNat

/-- The BT.709 luma of a pixel, in units of a ten-thousandth of its scale. -/
def lumaOf (x : Nat × Nat × Nat) : Nat := 2126 * x.1 + 7152 * x.2.1 + 722 * x.2.2

/-- The luma code of a pixel. -/
def lumaCode (full : Bool) (depth scale : Nat) (x : Nat × Nat × Nat) : Nat :=
  let den := 10000 * scale
  if full then sampleCode depth (lumaOf x * (2 ^ depth - 1)) den else sampleCode depth ((219 * lumaOf x + 16 * den) * 2 ^ (depth - 8)) den

/-- A chroma code of four pixels: the mean of the difference of a component and luma, over the width of its range in ten-thousandths. -/
def chromaCode (full : Bool) (depth scale width : Nat) (comp : Nat × Nat × Nat → Nat) (xs : List (Nat × Nat × Nat)) : Nat :=
  let diff : Int := xs.foldl (fun a x => a + (10000 * comp x - lumaOf x : Int)) 0
  let den := xs.length * width * scale
  if full then sampleCode depth (diff * (2 ^ depth - 1) + 2 ^ (depth - 1) * den) den
  else sampleCode depth ((224 * diff + 128 * den) * 2 ^ (depth - 8)) den

/-- The 4:2:0 sample values of a picture, luma, then Cb, then Cr, each in raster order, converted from its pixels by BT.709 (R351). -/
def pictureSamples (full : Bool) (pix w h depth : Nat) (b : List (BitVec 8)) : List Nat :=
  let size := if pix = 2 then 8 else 4
  let at_ (x y : Nat) : Nat × Nat × Nat := pixelOf pix ((b.drop (size * (y * w + x))).take size)
  let four (x y : Nat) : List (Nat × Nat × Nat) := [at_ (2 * x) (2 * y), at_ (2 * x + 1) (2 * y), at_ (2 * x) (2 * y + 1), at_ (2 * x + 1) (2 * y + 1)]
  let plane (w' h' : Nat) (f : Nat → Nat → Nat) : List Nat := (List.range h').flatMap fun y => (List.range w').map fun x => f x y
  plane w h (fun x y => lumaCode full depth (pixelScale pix) (at_ x y))
    ++ plane (w / 2) (h / 2) (fun x y => chromaCode full depth (pixelScale pix) 18556 (fun p => p.2.2) (four x y))
    ++ plane (w / 2) (h / 2) (fun x y => chromaCode full depth (pixelScale pix) 15748 Prod.fst (four x y))

end Sys2Proof.Machine
end

