-- ==== Sys2Proof/Machine/View.lean ====
section
/-! DEFINITION. View engines (R268, R351 to R354) and Hasp links (R355, R356). The headers of a frame's AV1 bitstream come with the event that
encodes it and are held to what R351 says of them; what codes the picture is a free value of the samples that were read. -/
namespace Sys2Proof.Machine

/-! ### The bind block (Table 18-8) -/

/-- A view engine. -/
def State.view (s : State) (e : Nat) : ViewEngine := NMap.getD s.views e ViewEngine.fresh
/-- Replace a view engine. -/
def State.setView (s : State) (e : Nat) (v : ViewEngine) : State := { s with views := NMap.set s.views e v }

/-- A field of a bind block. -/
def ViewEngine.fld (v : ViewEngine) (o n : Nat) : Nat := field v.block o n
/-- Bytes per pixel. -/
def ViewEngine.pixel (v : ViewEngine) : Nat := if v.fld 8 1 = 2 then 8 else 4
/-- Bytes of a frame. -/
def ViewEngine.frameBytes (v : ViewEngine) : Nat := v.fld 4 2 * v.fld 6 2 * v.pixel
/-- Lines of a frame. -/
def ViewEngine.frameLines (v : ViewEngine) : Nat := v.frameBytes / 64
/-- The address of a line of the frame in hand. -/
def ViewEngine.lineVa (v : ViewEngine) (i : Nat) : BitVec 64 :=
  BitVec.ofNat 64 (v.fld 24 8 + v.frame % v.fld 3 1 * v.frameBytes + 64 * i)
/-- The first address of the rings' bytes. -/
def ViewEngine.ringBase (v : ViewEngine) : Nat := v.fld 32 8
/-- RSIZE. -/
def ViewEngine.rsize (v : ViewEngine) : Nat := v.fld 40 4

/-- A bind block breaks Table 18-8. -/
def bindBad (b : List (BitVec 8)) : Bool :=
  let f (o n : Nat) : Nat := field b o n
  let outside (x lo hi : Nat) : Bool := decide (x < lo) || decide (hi < x)
  outside (f 0 1) 3 63 || decide (15 < f 1 1) || decide (15 < f 2 1) || outside (f 3 1) 1 8
    || outside (f 4 2) 16 4096 || f 4 2 % 8 != 0 || outside (f 6 2) 16 2160 || f 6 2 % 8 != 0 || decide (2 < f 8 1)
    || (f 9 1 != 8 && f 9 1 != 10) || outside (f 10 1) 1 8 || decide (1 < f 11 1) || outside (f 16 4) 4096 (2 ^ 24)
    || f 24 8 % 64 != 0 || outside (f 40 4) (2 ^ 16) (2 ^ 28) || 2 ^ Nat.log2 (f 40 4) != f 40 4 || !zeroRange b 44 20

/-! ### Steps -/

/-- The frame is abandoned (R268, R353, R354), and the engine goes on to the next in rotation. -/
def State.abandon (s : State) (e : Nat) (v : ViewEngine) (cause sub : Nat) : State :=
  (s.setView e { v with
    fault := true, fframe := BitVec.ofNat 64 v.frame, fphase := if v.phase = 0 then 0 else if v.phase = 3 then 2 else 1,
    fcause := BitVec.ofNat 16 (sub * 256 + cause), phase := 0, frame := v.frame + 1, lines := 0, picture := [], unit := [], hold := .poll }).raise v.vector.toNat

/-- Apply a transition, or the consultation of a read, to a line of the frame in hand: its flat address and the state after it, or how it is
barred. An entry marked RL waits for the engine's earlier accesses at every scope (R249): `clear` says that its reads are performed. -/
def State.viewLine (s : State) (e : Nat) (v : ViewEngine) (k : AccKind) (t : Nat) (i : Nat) (clear : Bool) : Except State (Nat × State) :=
  match v.part with
  | none => .error s
  | some p =>
    let va := v.lineVa i
    match s.translate p 0 true k va with
    | .trap tr => .error (s.abandon e v tr.cause.toNat tr.sub.toNat)
    | .wait _ => .error s
    | .notPresent a c =>
      let (seq, s1) := s.engineFault p 0 (.view e) e 4 a c
      .error (s1.setView e { v with hold := .faultPending seq a })
    | .ok spot =>
      let line := lineOf spot.flat
      let entry := s.entryAt p spot.cls line t
      if spot.mt = 5 then .error (s.abandon e v 0x07 13)
      else if s.isPoisoned line then .error (s.abandon e v 0x06 4)
      else if spot.cls = 0 then (if k = .read then .ok (spot.flat, s) else .error (s.abandon e v 0x08 2))
      else
        match verdictOf entry with
        | .allow => if rlOf entry && !(clear && !s.owes (.view e)) then .error s else .ok (spot.flat, s.moveLine line (nextOf entry))
        | .park =>
          .error (State.setView { s with parked := s.parked ++ [(⟨line, t, .view e, p, spot.cls⟩ : Parked)] } e { v with hold := .parked, lines := i })
        | .fault => .error (s.abandon e v 0x08 0)

/-- The engine may take a step. -/
def ViewEngine.free (v : ViewEngine) : Bool := v.part.isSome && (v.hold == .poll || v.hold == .replay)

/-- VIEW_TAKE: the next line of the frame. DEDUCED: log 57. -/
def State.viewTake (s : State) (e i : Nat) : State :=
  let v := s.view e
  if !v.free || v.phase != 0 || i != v.lines then s
  else
    match s.viewLine e v .rmw (v.fld 1 1) i true with
    | .error t => t
    | .ok (_, t) =>
      t.setView e { v with hold := .poll, lines := if i + 1 = v.frameLines then 0 else i + 1, phase := if i + 1 = v.frameLines then 1 else 0 }

/-- A line of the frame has been read. -/
def ViewEngine.hasLine (v : ViewEngine) (i : Nat) : Bool := (NMap.get? v.picture i).isSome

/-- An earlier line that is not read yet may be an acquire (Table 12-2). -/
def State.viewBack (s : State) (v : ViewEngine) (i : Nat) : Bool :=
  (List.range i).any fun j => !v.hasLine j && match s.translate (v.part.getD 0) 0 true .read (v.lineVa j) with
    | .ok spot => s.mayAcquire (v.part.getD 0) spot.cls 14
    | _ => false

/-- LOAD_PERFORMED of a view engine: a line of the frame is read, as a relaxed access (R250, R268); one of peer memory sends a flit (R356).
DEDUCED: log 57. -/
def State.viewRead (s : State) (e i : Nat) : State :=
  let v := s.view e
  if !v.free || v.phase != 1 || v.frameLines ≤ i || v.hasLine i || s.viewBack v i then s
  else
    match s.viewLine e v .read 14 i ((List.range i).all v.hasLine) with
    | .error t => t
    | .ok (flat, t) => (t.flitsTo flat 64).setView e { v with hold := .poll, picture := NMap.set v.picture i (t.bytes flat 64) }

/-- LOAD_PERFORMED: `j` is the place in a strand's window, the number of an element of a hart or a coprocessor, or a line of a frame. -/
def State.loadPerformed (s : State) (who : Agent) (j : Nat) : State :=
  match who with
  | .slot n => s.slotLoad n j
  | .hart h => s.hartLoad h j
  | .coproc k => s.coprocLoad k j
  | .view e => s.viewRead e j

/-- The frame in hand is a key frame (Table 18-8, KEYINT). -/
def ViewEngine.isKey (v : ViewEngine) : Bool := v.frames.toNat == 0 || (v.fld 20 4 != 0 && v.frames.toNat % v.fld 20 4 == 0)

/-- The headers of a temporal unit that keeps to R351 for the frame in hand: its form, at most SMAX bytes, and, at a constant quantiser, that
quantiser or one raised to stay below them. PRESUMED: log 57. -/
def ViewEngine.unitHeads (v : ViewEngine) (unit : List (BitVec 8)) : Option UnitInfo :=
  (unitInfo (v.fld 4 2) (v.fld 6 2) (v.fld 9 1) (v.fld 10 1) v.isKey v.seq unit).filter fun u =>
    decide (unit.length ≤ v.fld 16 4) && (v.fld 11 1 != 0 || decide (min (v.fld 12 4) 255 ≤ u.quantiser))

/-- A temporal unit keeps to R351 for the frame in hand. -/
def ViewEngine.unitFits (v : ViewEngine) (unit : List (BitVec 8)) : Bool := (v.unitHeads unit).isSome

/-- The samples of the frame in hand, once its lines are read. -/
def ViewEngine.samples (v : ViewEngine) (full : Bool) : List Nat :=
  pictureSamples full (v.fld 8 1) (v.fld 4 2) (v.fld 6 2) (v.fld 9 1) ((List.range v.frameLines).flatMap fun i => NMap.getD v.picture i [])

/-- A temporal unit as the engine makes it of the frame in hand: with the headers offered, and tile data that code the picture. PRESUMED: log 57. -/
def State.encoded (s : State) (v : ViewEngine) (u : UnitInfo) (unit : List (BitVec 8)) : List (BitVec 8) :=
  withTiles u.stop (fun i => Config.tileByte (v.samples u.full) u.quantiser (s.fresh + i)) unit.length 0 unit

/-- VIEW_FRAME_ENCODE: once the lines are read, a temporal unit whose headers keep to R351 is made. PRESUMED: log 57. -/
def State.viewEncode (s : State) (e : Nat) (unit : List (BitVec 8)) : State :=
  let v := s.view e
  match v.unitHeads unit with
  | none => s
  | some u =>
    if !v.free || v.phase != 1 || !(List.range v.frameLines).all v.hasLine then s
    else
      State.setView { s with fresh := s.fresh + unit.length } e
        { v with phase := 2, lines := 0, picture := [], unit := s.encoded v u unit, seq := unitSeq v.seq ((readObus unit.length unit).getD []) }

/-- Store bytes into a host ring from index i on, wrapping at its end: stores to host memory like any other (R136, R241, R245). -/
def State.ringWrite (s : State) (e base size i : Nat) (bs : List (BitVec 8)) : State :=
  let room := size - i % size
  let s1 := s.storeAs (.view e) (hostBase + (base + i % size) % 2 ^ 52) (bs.take room)
  if bs.length ≤ room then s1 else s1.storeAs (.view e) (hostBase + base % 2 ^ 52) (bs.drop room)

/-- The record of a frame (R352): header, temporal unit, padding. -/
def ViewEngine.record (v : ViewEngine) : List (BitVec 8) :=
  leBytes v.frame 8 ++ leBytes v.unit.length 4 ++ leBytes (if v.isKey then 1 else 0) 4 ++ v.unit
    ++ List.replicate ((16 - v.unit.length % 16) % 16) 0

/-- VIEW_RECORD_WRITE: once there is room, the temporal unit and then the header, as a release (R352, R354). -/
def State.viewWrite (s : State) (e : Nat) : State :=
  let v := s.view e
  if v.part.isNone || v.phase != 2 then s
  else
    let r := v.record
    if v.rsize < (v.prod - v.cons).toNat + r.length then s.setView e { v with waitRing := true }
    else
      let s0 := s.ringWrite e v.ringBase v.rsize (v.prod.toNat + 16) (r.drop 16)
      let s1 := s0.ringWrite e v.ringBase v.rsize v.prod.toNat (r.take 16)
      (s1.setView e { v with prod := v.prod + BitVec.ofNat 32 r.length, frames := v.frames + 1, waitRing := false, phase := 3, lines := 0,
                             unit := [] }).raise v.vector.toNat

/-- VIEW_RELEASE: the next line of the frame. -/
def State.viewRelease (s : State) (e i : Nat) : State :=
  let v := s.view e
  if !v.free || v.phase != 3 || i != v.lines then s
  else
    match s.viewLine e v .rmw (v.fld 2 1) i true with
    | .error t => t
    | .ok (_, t) =>
      if i + 1 = v.frameLines then t.setView e { v with hold := .poll, lines := 0, phase := 0, frame := v.frame + 1 }
      else t.setView e { v with hold := .poll, lines := i + 1 }

/-- Try a view engine's held line again. -/
def State.viewRetry (s : State) (e : Nat) : State :=
  let v := s.view e
  let s1 := s.setView e { v with hold := .poll }
  match v.phase with
  | 0 => s1.viewTake e v.lines
  | 1 => s1.viewRead e v.lines
  | 3 => s1.viewRelease e v.lines
  | _ => s1

/-! ### Hasp links -/

/-- A Hasp link. -/
def State.link (s : State) (n : Nat) : Link := NMap.getD s.links n Link.fresh
/-- Replace a link. -/
def State.setLink (s : State) (n : Nat) (l : Link) : State := { s with links := NMap.set s.links n l }

/-- HASP_FLIT_RECEIVE (R355): a flit that fails its CRC is replayed, up to sixteen times, and the replay counted. DEDUCED: log 58. -/
def State.flitReceive (s : State) (n : Nat) (crcOk : Bool) : State :=
  let l := s.link n
  if 12 ≤ n || !l.up then s
  else if crcOk then s.setLink n { l with fails := 0 }
  else s.setLink n { l with
    fails := l.fails + 1
    replays := if 16 ≤ l.fails || l.replays = BitVec.allOnes 64 then l.replays else l.replays + 1 }

/-- HASP_LINK_DOWN (R355): sixteen replays have failed after the flit itself did. DEDUCED: log 58. -/
def State.linkDown (s : State) (n : Nat) : State :=
  let l := s.link n
  if 12 ≤ n || !l.up || l.fails < 17 then s
  else (s.setLink n { l with up := false, fails := 0, downs := l.downs + 1 }).raise l.vector.toNat

/-! ### The events -/

/-- LOAD_PERFORMED. -/
def execLoadPerformed (who : Agent) (j : Nat) (s : State) : Host.Outcome State Fault Refusal := .next (s.loadPerformed who j)
/-- VIEW_TAKE. -/
def execViewTake (e i : Nat) (s : State) : Host.Outcome State Fault Refusal := .next (s.viewTake e i)
/-- VIEW_FRAME_ENCODE. -/
def execViewFrameEncode (e : Nat) (unit : List (BitVec 8)) (s : State) : Host.Outcome State Fault Refusal := .next (s.viewEncode e unit)
/-- VIEW_RECORD_WRITE. -/
def execViewRecordWrite (e : Nat) (s : State) : Host.Outcome State Fault Refusal := .next (s.viewWrite e)
/-- VIEW_RELEASE. -/
def execViewRelease (e i : Nat) (s : State) : Host.Outcome State Fault Refusal := .next (s.viewRelease e i)
/-- HASP_FLIT_RECEIVE. -/
def execHaspFlitReceive (n : Nat) (crcOk : Bool) (s : State) : Host.Outcome State Fault Refusal := .next (s.flitReceive n crcOk)
/-- HASP_LINK_DOWN. -/
def execHaspLinkDown (n : Nat) (s : State) : Host.Outcome State Fault Refusal := .next (s.linkDown n)

end Sys2Proof.Machine
end

