-- ==== Sys2Proof/Machine/Queues.lean ====
section
/-! DEFINITION. Host queues as the device sees them: the descriptor's fields (Table 18-3), completions (R340), which queue the
arbiter serves next (R287, R288), the watchdog's clock (R317), and the device's own reads of commands and blocks. -/
namespace Sys2Proof.Machine

/-- Cycles of a microsecond. DEDUCED: log 63. -/
def cyclesPerUs : Nat := 1900

/-! ### The descriptor (Table 18-3) -/

/-- Partition. -/
def HostQueue.part (x : HostQueue) : Nat := (x.ctrl.extractLsb' 24 4).toNat
/-- WEIGHT. -/
def HostQueue.weight (x : HostQueue) : Nat := (x.ctrl.extractLsb' 16 4).toNat + 1
/-- LEVEL. -/
def HostQueue.level (x : HostQueue) : Nat := (x.ctrl.extractLsb' 13 3).toNat
/-- PRIV. -/
def HostQueue.privBit (x : HostQueue) : Bool := x.ctrl.getLsbD 12
/-- The number of ring entries. -/
def HostQueue.size (x : HostQueue) : Nat := 2 ^ ((x.ctrl.extractLsb' 8 4).toNat + 6)
/-- ENABLE. -/
def HostQueue.enabled (x : HostQueue) : Bool := x.ctrl.getLsbD 0

/-- Replace a queue. -/
def State.setHq (s : State) (q : Nat) (x : HostQueue) : State := { s with hqs := NMap.set s.hqs q x }

/-- A ring's flat base: host memory, or device memory when the location bit is set. -/
def HostQueue.flat (x : HostQueue) (bit : Nat) (base : BitVec 64) : Nat := if x.ctrl.getLsbD bit then base.toNat else hostBase + base.toNat

/-- OPC of a command. -/
def HostCmd.opc (c : HostCmd) : Nat := field c.bytes 4 1
/-- FLAGS of a command. -/
def HostCmd.flags (c : HostCmd) : Nat := field c.bytes 5 1
/-- UTAG of a command. -/
def HostCmd.utag (c : HostCmd) : Nat := field c.bytes 8 8

/-- The head command: the oldest one not yet dispatched. -/
def HostQueue.head? (x : HostQueue) : Option HostCmd := x.cmds.find? fun c => !c.dispatched

/-! ### The device's own accesses -/

/-- Bytes that the device reads from device memory for a host command: none beyond its end or on a poisoned line. -/
def State.deviceBytes (s : State) (a n : Nat) : Option (List (BitVec 8)) :=
  if a + n ≤ deviceEnd && !s.poisonedRange a n then some (s.bytes a n) else none

/-- Bytes the device writes for the host: to host memory, or to device memory where no line is poisoned. -/
def State.deviceWrite (s : State) (a : Nat) (bs : List (BitVec 8)) : State :=
  if hostBase ≤ a || (decide (a + bs.length ≤ deviceEnd) && !s.poisonedRange a bs.length) then s.storeHome a bs else s

/-- The sequence word of the command with an absolute index (R337). -/
def seqWord (n : Nat) : Nat := 2 ^ 31 + n % 2 ^ 31

/-! ### Completions (R340) -/

/-- Write the completion of a command at its own slot of the completion ring, and raise the queue's vector when asked to. DEDUCED: log 18. -/
def State.postDone (s : State) (q n status utag : Nat) (interrupt : Bool) : State :=
  let x := s.hq q
  let s1 := s.deviceWrite (x.flat 2 x.cring + 16 * (n % x.size)) (leBytes (seqWord n) 4 ++ leBytes status 4 ++ leBytes utag 8)
  if interrupt then s1.raise x.vector.toNat else s1

/-- A command ends: it leaves its queue, and writes a completion if its FLAGS ask for one. -/
def State.finish (s : State) (q n status : Nat) : State :=
  let x := s.hq q
  match x.cmds.find? fun c => c.n == n with
  | none => s
  | some c =>
    let s1 := s.setHq q { x with cmds := dropFirst (fun d => d.n == n) x.cmds }
    if c.flags % 2 = 1 then s1.postDone q n status c.utag (c.flags / 2 % 2 == 1) else s1

/-- Change a command of a queue. -/
def State.modCmd (s : State) (q n : Nat) (f : HostCmd → HostCmd) : State :=
  let x := s.hq q
  s.setHq q { x with cmds := replaceFirst (fun c => c.n == n) f x.cmds }

/-- A command goes on waiting in its queue's way. -/
def State.keep (s : State) (q n : Nat) : State := s.modCmd q n fun c => { c with waiting := true }

/-- A LAUNCH or REPLAY runs on while later commands of its queue dispatch. -/
def State.letRun (s : State) (q n : Nat) : State := s.modCmd q n fun c => { c with waiting := false }

/-! ### The arbiter (R287, R288) -/

/-- The launch identifiers that a command takes: one, or one for each node of a graph (R292, R342). -/
def State.idsNeeded (s : State) (c : HostCmd) : Nat :=
  if c.opc = 1 then 1 else if c.opc = 2 then min 4096 (field (s.bytes (field c.bytes 16 8) 4) 0 4) else 0

/-- A LAUNCH names a running launch of its own queue as a predecessor (R287): PRED entries that are queue and sequence word. -/
def State.behindOwn (s : State) (p q : Nat) (c : HostCmd) : Bool :=
  c.opc == 1 && match s.translate p 0 true .read (BitVec.ofNat 64 (field c.bytes 16 8 + 128)), s.part? p with
    | .ok spot, some x =>
      let d := s.bytes spot.flat 64
      (List.range (min 4 (field d 16 1))).any fun i =>
        field d (24 + 8 * i) 8 / 2 ^ 32 % 2 ^ 14 == q
          && x.launches.any fun l => l.2.node.isNone && l.2.queue == q && seqWord l.2.cmd == field d (24 + 8 * i) 4
    | _, _ => false

/-- A crew of the queue's head launch is held unplaced (R288). -/
def State.launchHeld (s : State) (p q : Nat) : Bool :=
  match s.part? p with
  | some x => x.launches.any fun l => l.2.queue == q && l.2.node.isNone && l.2.held
  | none => false

/-- A queue is eligible (R287): it runs and is not stopped by a kill, its head command is fetched, neither a waiting command nor a held
launch is in its way, nor a running launch that the head command names as its predecessor, and there are identifiers for what it
launches. DEDUCED: log 20. -/
def State.eligible (s : State) (q : Nat) : Bool :=
  let x := s.hq q
  (x.state == 1 || x.state == 2) && !x.killed && !x.cmds.any HostCmd.waiting && match x.head? with
    | none => false
    | some c =>
      !s.launchHeld x.part q && !s.behindOwn x.part q c && match s.part? x.part with
        | some p => decide (p.launches.length + s.idsNeeded c ≤ 2 ^ 16)
        | none => q == 0

/-- The effective level of a queue (R287): its level, raised by the age of its head command. -/
def State.effLevel (s : State) (q : Nat) : Nat :=
  let x := s.hq q
  match x.head?, s.part? x.part with
  | some c, some p => min 7 (x.level + (s.clock - c.fetchedAt) / (p.age * cyclesPerUs))
  | _, _ => x.level

/-- The queues of a partition, by rising number. -/
def State.queuesOf (s : State) (p : Nat) : List Nat := (s.hqs.filter fun x => x.1 != 0 && x.2.part == p).map Prod.fst

/-- The next queue after another in the fixed cyclic order, among some. -/
def nextQueue (qs : List Nat) (after : Nat) : Option Nat :=
  match qs.find? fun q => decide (after < q) with
  | some q => some q
  | none => qs.head?

/-- The placer has yet to find whether it can place a launch's next crew (R288). -/
def Launch.undecided (l : Launch) : Bool := !l.held && l.crews.any fun c => c.2.cluster.isNone

/-- The queue of a partition that the arbiter serves next, and the visits after that (R287): none until the placer has placed or held
every crew of what was dispatched. DEDUCED: log 20. -/
def State.pickQueue (s : State) (p : Nat) : Option (Nat × NMap (Nat × Nat)) :=
  match s.part? p with
  | none => none
  | some x =>
    if x.launches.any fun l => l.2.undecided then none else
    let qs := (s.queuesOf p).filter s.eligible
    if qs.contains x.privq then some (x.privq, x.visit)
    else
      let top := qs.foldl (fun m q => max m (s.effLevel q)) 0
      let level := qs.filter fun q => s.effLevel q == top
      let begin_ (q : Nat) : Nat × NMap (Nat × Nat) := (q, NMap.set x.visit top (q, (s.hq q).weight - 1))
      match NMap.get? x.visit top with
      | some (q, left + 1) => if level.contains q then some (q, NMap.set x.visit top (q, left)) else (nextQueue level q).map begin_
      | some (q, 0) => (nextQueue level q).map begin_
      | none => level.head?.map begin_

/-- A queue that is no longer eligible loses the rest of its visit. DEDUCED: log 20. -/
def State.endVisit (s : State) (q : Nat) : State :=
  if s.eligible q then s
  else s.modPart (s.hq q).part fun x => { x with visit := x.visit.map fun v => (v.1, if v.2.1 = q then (q, 0) else v.2) }

/-- The rank of a queue in its partition's arbiter: the privileged queue stands above every level (R287). -/
def State.rank (s : State) (p q : Nat) : Nat := if ((s.part? p).map Partition.privq) = some q then 8 else s.effLevel q

/-- A queue has dispatched: it no longer holds back the contexts of a stalled queue (R318). -/
def Partition.dispatched (q : Nat) (x : Partition) : Partition :=
  { x with heldBack := x.heldBack.map fun h => (h.1, h.2.filter (· != q)) }

/-! ### The watchdog's clock (R317) -/

/-- The cycles since a cycle that a resize in progress has taken from the watchdogs of its partition (R348). -/
def State.resizeTime (s : State) (p since : Nat) : Nat :=
  match (s.hq 0).cmds.find? fun c => c.waiting && c.opc == 0x21 && field c.bytes 16 1 == p && c.progress != 0 with
  | some c => s.clock - max c.progress since
  | none => 0

/-- A queue has live launches. -/
def State.hasLaunch (s : State) (q : Nat) : Bool :=
  match s.part? (s.hq q).part with
  | some x => x.launches.any fun l => l.2.queue == q
  | none => false

/-- The time since the queue's progress counter last advanced: 0 while it has no live launch. -/
def State.stalledFor (s : State) (q : Nat) : Nat :=
  if s.hasLaunch q then
    s.clock - (s.hq q).progressAt - s.resizeTime (s.hq q).part (s.hq q).progressAt
  else 0

end Sys2Proof.Machine
end

