-- ==== Sys2Proof/Machine/System.lean ====
section
/-! DEFINITION. System and trap instructions (R227 to R237): TRAP, ERET, SYSR, SYSW, STAB, TLBI, PREEMPT, CTXSAVE and
CTXLOAD. -/
namespace Sys2Proof.Machine

/-! ### Control registers (Table 1-8) -/

/-- The value SYSR returns for a register number (R232); none for a number that names no register. DEDUCED: log 47. -/
def State.readControl (s : State) (st : Strand) (num : Nat) : Option (BitVec 64) :=
  match num with
  | 0x00 => some st.statusWord
  | 0x01 => some st.epc
  | 0x02 => some (st.cause.setWidth 64)
  | 0x03 => some st.faddr
  | 0x04 =>
    let c := s.cell (cellOf s.actor)
    some (BitVec.ofNat 64 (((List.range 64).filter fun t => c.tagReady.getLsbD t && c.ownsTag (slotOf s.actor) t).foldl
      (fun m t => m + 2 ^ t) 0))
  | 0x05 => some st.ivctlWord
  | 0x06 => some st.ivstatWord
  | 0x07 => some st.ivrangeWord
  | 0x08 => some (BitVec.ofNat 64 st.winbase)
  | 0x09 => some st.ovfptr
  | 0x0A => some (BitVec.ofNat 64 (st.carveSize * 2 ^ 16 + st.carveBase))
  | 0x0B => some (BitVec.ofNat 64 st.allot)
  | 0x0C => some (BitVec.ofNat 64 (st.tcount * 16 + st.tfirst))
  | 0x0D => some (BitVec.ofNat 64 (st.index * 256 + st.crew))
  | 0x0E => some (BitVec.ofNat 64 st.stage)
  | 0x0F => some (BitVec.ofNat 64 st.launch)
  | 0x10 => some (BitVec.ofNat 64 s.clock)
  | 0x11 => some (st.fpflags.setWidth 64)
  | _ => none

/-- SYSW's write, field by field (R233); none for a number that names no register. DEDUCED: log 47. -/
def Strand.writeControl (st : Strand) (num : Nat) (v : BitVec 64) : Option Strand :=
  match num with
  | 0x00 => some { st with rm := v.extractLsb' 8 2, ftz := v.getLsbD 2 }
  | 0x01 => some (if st.hm then { st with epc := v &&& 0x00FFFFFFFFFFFFFC } else st)
  | 0x02 => some (if st.hm then { st with cause := v.setWidth 16 } else st)
  | 0x03 => some (if st.hm then { st with faddr := v } else st)
  | 0x05 => some { st with eps := v.extractLsb' 48 16, cdrop := v.extractLsb' 40 8 }
  | 0x06 => some { st with ivlate := v.extractLsb' 48 16, ivdrop := v.extractLsb' 32 16, ivmerge := v.extractLsb' 16 16 }
  | 0x07 => some { st with tmax := v.extractLsb' 32 32, tmin := v.extractLsb' 0 32 }
  | 0x09 => some { st with ovfptr := ovfptrWrite v }
  | 0x11 => some { st with fpflags := v.extractLsb' 0 6 }
  | n => if n ≤ 0x11 then some st else none

/-- SYSR (R232). -/
def sysrBody (d : Reg) (num : BitVec 8) (st : Strand) (s : State) : Out :=
  match s.readControl st num.toNat with
  | none => .trap (illegal 0)
  | some v => (readSources st s [] (some d)).andThen s fun _ => .ok (s.setMe ((st.setG d v).advance 1))

/-- SYSW (R233); with another overflow region, the spill locations of the resident entries lie elsewhere (R13). -/
def syswBody (a : Reg) (num : BitVec 8) (st : Strand) (s : State) : Out :=
  match st.writeControl num.toNat 0 with
  | none => .trap (illegal 0)
  | some _ =>
    (readSources st s [a] none).andThen s fun r =>
      settled false st s fun st1 s1 =>
        match st1.writeControl num.toNat (src r.1 0) with
        | none => .trap (illegal 0)
        | some st2 =>
          let s2 := s1.setMe (st2.advance 1)
          .ok (if num = 0x09 && st2.spills then s2.blurEntries s2.actor st2 st2.resident else s2)

/-- TRAP (R230): BREAK is delivered after TRAP has retired. -/
def trapBody (g : Guard) (code : BitVec 5) : Strand → State → Out :=
  guarded g 1 fun _ _ => .trap ⟨0x0F, code.setWidth 8, 0, true⟩

/-- ERET (R231). -/
def eretBody (g : Guard) : Strand → State → Out :=
  guarded g 1 fun st s => if st.hm then .ok (s.setMe st.eret) else .trap (permission 8)

/-- A privileged instruction (R227). -/
def privileged (body : Strand → State → Out) (st : Strand) (s : State) : Out := if st.priv then body st s else .trap (permission 7)

/-! ### STAB (R234) -/

/-- The entries of a table image. -/
def tableOf (bs : List (BitVec 8)) : List (BitVec 16) := (List.range 256).map fun i => BitVec.ofNat 16 (field bs (2 * i) 2)

/-- An evicted context of a class, or of a class not known, becomes runnable. -/
def RunEntry.wakeClass (c : Nat) (e : RunEntry) : RunEntry :=
  match e.line with
  | some (_, k) => if k = c || k = 64 then { e with runnable := true } else e
  | none => e

/-- Wake what waits on the lines of a class of a partition, line by line in FIFO order. -/
def State.wakeClass (s : State) (p c : Nat) : State :=
  let lines := ((s.parked.filter fun x => x.part == p && x.cls == c).map Parked.line).eraseDups
  let s1 := lines.foldl (fun t l => t.startPass l) s
  let s2 := s1.modPart p fun x => { x with launches := x.launches.map fun l =>
    (l.1, { l.2 with
      crews := l.2.crews.map fun k =>
        (k.1, { k.2 with runq := k.2.runq.map (RunEntry.wakeClass c), chain := k.2.chain.map (RunEntry.wakeClass c) })
      away := l.2.away.map fun a => { a with entry := a.entry.map (RunEntry.wakeClass c) } }) }
  { s2 with slots := s2.slots.map fun n => (n.1, match n.2.preReq with
    | some ⟨r, t, some (l, k), _⟩ => if n.2.part = p && (k = c || k = 64) then { n.2 with preReq := some ⟨r, t, some (l, k), true⟩ } else n.2
    | _ => n.2) }

/-- STAB (R234). -/
def stabBody (g : Guard) (a b : Reg) : Strand → State → Out :=
  guarded g 1 (privileged fun st s =>
    (readSources st s [a, b] none).andThen s fun r =>
      let c := (src r.1 0).toNat
      let va := src r.1 1
      if c < 3 || 63 < c then .trap (permission 9)
      else if va.toNat % 64 != 0 then .trap (alignTrap 2 va)
      else settled false st s fun st1 s1 =>
        wideRead st1 s1 s 0 va 512 64 fun bs s2 =>
          let t := tableOf bs
          if t.any fun e => e.extractLsb' 10 6 != 0 then .trap (permission 10 va)
          else .ok (retire ((s2.modPart st.part fun x => { x with tables := NMap.set x.tables c t }).wakeClass st.part c) 1))

/-! ### TLBI (R235) -/

/-- An access in a window uses translations: its home is no local space. -/
def Access.translated (x : Access) : Bool := x.parts.any fun p => decide (p.1 < deviceEnd) || decide (hostBase ≤ p.1)

/-- A combining buffer holds bytes whose home is no local space. -/
def WcBuf.translated (b : WcBuf) : Bool := decide (64 * b.line < deviceEnd) || decide (hostBase ≤ 64 * b.line)

/-- Some access in a window of a partition's strands, or what a combining buffer of one holds, lies in one of several pages, given by
first address and size. DEDUCED: log 48. -/
def State.usesPages (s : State) (p : Nat) (pages : List (Nat × Nat)) : Bool :=
  s.slots.any fun n => n.2.part == p
    && (n.2.window.any (fun x => x.translated && pages.any fun g => x.va.toNat / g.2 == g.1 / g.2)
      || n.2.wcbuf.any fun b => b.translated && pages.any fun g => b.va.toNat / g.2 == g.1 / g.2)

/-- Some parked access of a partition, of a strand or of an engine, lies in one of several ranges of flat addresses. DEDUCED: log 48. -/
def State.parkedIn (s : State) (p : Nat) (ranges : List (Nat × Nat)) : Bool :=
  s.parked.any fun x => x.part == p && ranges.any fun g => decide (g.1 ≤ 64 * x.line) && decide (64 * x.line < g.1 + g.2)

/-- Drop cached translations in every cluster of a partition. -/
def State.dropTlb (s : State) (p : Nat) (gone : TlbEntry → Bool) : State :=
  { s with clusters := s.clusters.map fun k => (k.1, { k.2 with tlb := k.2.tlb.filter fun t => !(t.part == p && gone t) }) }

/-- The pages that hold an address: as the table maps it, as any cluster's TLB does, and at the least the smallest. -/
def State.pagesOf (s : State) (p va : Nat) : List (Nat × Nat) :=
  let cached := s.clusters.flatMap fun k => (k.2.tlb.filter fun t => t.part == p && t.va == va / levelSize t.level).map TlbEntry.level
  let walked := match s.walk p va with
    | .leaf level _ => [level]
    | _ => [0]
  (0 :: walked ++ cached).map fun l => (va, levelSize l)

/-- The flat ranges that an address's page maps to: by the table, and by any cluster's TLB. -/
def State.framesOf (s : State) (p va : Nat) : List (Nat × Nat) :=
  let range (l : Nat) (e : BitVec 64) : Nat × Nat := (s.leafFlat p l e (va / levelSize l * levelSize l), levelSize l)
  (match s.walk p va with
    | .leaf l e => [range l e]
    | _ => [])
    ++ s.clusters.flatMap fun k => (k.2.tlb.filter fun t => t.part == p && t.va == va / levelSize t.level).map fun t => range t.level t.leaf

/-- TLBI gA (R235): it retires once the accesses that used a dropped translation are performed. DEDUCED: log 48. -/
def tlbiBody (g : Guard) (a : Reg) : Strand → State → Out :=
  guarded g 1 (privileged fun st s =>
    (readSources st s [a] none).andThen s fun r =>
      settled false st s fun _ s1 =>
        let va := (src r.1 0).toNat
        if 2 ^ 56 ≤ va then .ok (retire s1 1)
        else if s1.usesPages st.part (s1.pagesOf st.part va) || s1.parkedIn st.part (s1.framesOf st.part va) then .wait .poll s1
        else .ok (retire (s1.dropTlb st.part fun t => t.va == va / levelSize t.level) 1))

/-- TLBI.all (R235). -/
def tlbiAllBody (g : Guard) : Strand → State → Out :=
  guarded g 1 (privileged fun st s =>
    settled false st s fun _ s1 =>
      if s1.slots.any (fun n => n.2.part == st.part && (n.2.window.any Access.translated || n.2.wcbuf.any WcBuf.translated))
          || s1.parkedIn st.part [(0, deviceEnd)] then .wait .poll s1
      else .ok (retire (s1.dropTlb st.part fun _ => true) 1))

/-! ### Moving contexts (R236, R237) -/

/-- PREEMPT (R236). -/
def preemptBody (g : Guard) (a : Reg) : Strand → State → Out :=
  guarded g 1 (privileged fun st s =>
    match st.wait with
    | some ⟨.preempt n uid, _⟩ =>
      match s.strand? n with
      | some x => if x.uid = uid && x.preReq.isSome then .wait (.preempt n uid) s else .ok (retire s 1)
      | none => .ok (retire s 1)
    | _ =>
      (readSources st s [a] none).andThen s fun r =>
        let v := src r.1 0
        match s.cellAt st.part (v.toNat / 16 % 2 ^ 12) with
        | none => .trap (permission 16)
        | some cell =>
          let n := cell * 16 + v.toNat % 16
          if v.extractLsb' 16 48 != 0 || n == s.actor then .trap (permission 19)
          else
            match s.strand? n with
            | none => .ok (retire s 1)
            | some x => .wait (.preempt n x.uid) (s.requestPreempt n 0))

/-- The operand of CTXSAVE and CTXLOAD (Table 11-4): the area and the entry. -/
def contextOperand (v : BitVec 64) : Res (BitVec 64 × Nat) :=
  if v &&& 0xFF000000000100FF != 0 then .trap (permission 19) else .ok (v &&& 0x00FFFFFFFFFE0000, (v.extractLsb' 8 8).toNat)

/-- The pieces of the area as plain stores, and what bars them. -/
def State.areaSpots (s : State) (st : Strand) (va : BitVec 64) : List Piece × Res Unit :=
  s.pieces st .write (typeRule .plainMem) va 131072 4

/-- A saved context leaves its crew's memory run queue. -/
def State.unqueue (s : State) (x : Ctx) : State :=
  { s with parts := s.parts.map fun p => (p.1, { p.2 with launches := p.2.launches.map fun l =>
      (l.1, { l.2 with crews := l.2.crews.map fun k =>
        (k.1, { k.2 with runq := k.2.runq.filter fun e => e.ctx != some x.order
                         chain := k.2.chain.filter fun e => e.ctx != some x.order }.refill) }) }) }

/-- A context in memory, by its strand's identifiers, which SPAWN and codelet records may repeat (R209). -/
def Ctx.names (x y : Ctx) : Bool := x.strand.crew == y.strand.crew && x.strand.index == y.strand.index

/-- The memory-run-queue entry of a saved context. -/
def Launch.entryOf (l : Launch) (x : Ctx) : Option RunEntry :=
  l.crews.findSome? fun k => (k.2.runq ++ k.2.chain).find? fun e => e.ctx == some x.order

/-- CTXSAVE has written a context to memory: its launch keeps what the image has no place for. -/
def State.sendAway (s : State) (x : Ctx) : State :=
  s.modLaunch x.strand.part x.strand.launch fun l => { l with away := l.away ++ [⟨x, l.entryOf x⟩] }

/-- A context that has come back, with what its launch kept of the one it was saved as: if the image is as CTXSAVE wrote it that is the
context, whole; of an image that software has changed what it has no place for: the hint (R301), a BAR arrival (R213), poison not yet
reported (R130), a halt (R229), a malformed record's trap (R32), and an arrival of its class (Table 15-2). DEDUCED: log 49. -/
def Away.restored (a : Away) (same : Bool) (x : Ctx) : Ctx :=
  let y := a.ctx
  if same then { y with order := x.order }
  else
    { x with
      strand := { x.strand with
        hinted := y.strand.hinted, poison := y.strand.poison, halting := y.strand.halting
        badRecord := x.strand.badRecord || y.strand.badRecord, arrived := x.strand.arrived.or y.strand.arrived }
      arrival := y.arrival }

/-- A context read back from memory by its image, with what its launch has kept: that of a context of this image, or else of the first of
these identifiers. With it comes the run-queue entry it had. -/
def State.comeBack (s : State) (x : Ctx) (bs : List (BitVec 8)) : Ctx × Option RunEntry × State :=
  let kept := ((s.launch? x.strand.part x.strand.launch).map Launch.away).getD []
  let same (a : Away) : Bool := a.ctx.names x && a.ctx.image == bs
  match (kept.find? same).or (kept.find? fun a => a.ctx.names x) with
  | none => (x, none, s)
  | some a =>
    (a.restored (same a) x, a.entry,
      s.modLaunch x.strand.part x.strand.launch fun l => { l with away := dropFirst (· == a) l.away })

/-- Write the bytes of an operand page by page, as stores of an agent of a cluster. -/
def State.storePieces (s : State) (who : Origin) (k : Nat) : List Piece → List (BitVec 8) → State
  | [], _ => s
  | p :: rest, bs => State.storePieces (s.storeFrom who k p.spot.mt p.spot.flat (bs.take p.len)) who k rest (bs.drop p.len)

/-- CTXSAVE (R237): its stores are plain accesses, which report earlier poison (R130). DEDUCED: log 49. -/
def ctxsaveBody (g : Guard) (a : Reg) : Strand → State → Out :=
  guarded g 1 (privileged fun st s =>
    (readSources st s [a] none).andThen s fun r =>
      (contextOperand (src r.1 0)).andThen s fun op =>
        settled true st s fun st1 s1 =>
          let k := clusterOf s.actor
          match NMap.get? (s1.cluster k).ctxs op.2 with
          | none => .trap (permission 11)
          | some x =>
            let (ps, res) := s1.areaSpots st1 op.1
            match s1.firstBar st.part 15 ps with
            | some (.fault, _, _, va) => .trap (stagedFault 0 va)
            | bar =>
              res.andThen s fun _ =>
                match bar with
                | some (_, line, cls, va) => s.parkHere st va line cls 15
                | none =>
                  if s1.anyRelease st.part 15 ps && s1.owes st.origin then .wait .poll (s.drainWc s.actor)
                  else strongly (pagesType ps) st s <|
                  match s1.poisonIn ps with
                  | some va => .trap (translation 4 va)
                  | none =>
                    let s2 := (s1.storePieces st.origin k ps x.image).takeAll st.part 15 ps
                    let c := s2.cluster k
                    .ok (retire (((s2.setCluster k { c with ctxs := NMap.erase c.ctxs op.2 }).sendAway x).unqueue x) 1))

/-- A loaded context joins the source it waits in (Table 15-2): its own cell's sources when it comes back to the cluster it
was saved on, else the memory run queue of its launch's crew there. An evicted one that CTXSAVE wrote is as runnable as its entry has become
(R264). -/
def State.letIn (s : State) (k i : Nat) (x : Ctx) (kept : Option RunEntry) : State :=
  let c := s.cluster k
  let p := x.strand.part
  let home := s.cellAt p x.pcn |>.map fun cell => cell / 8
  let source := if home = some k && x.strand.hm then 2 else if home = some k && x.waitCode == 3 then 1 else 6
  let s1 := s.setCluster k { c with ctxs := NMap.set c.ctxs i { x with source := source } }
  if source != 6 then s1
  else
    match (s.launch? p x.strand.launch).bind fun l => l.crews.find? fun y => y.2.cluster == some k with
    | some (j, _) =>
      let entry : RunEntry :=
        if x.waitCode != 2 then ⟨some x.order, none, none, true⟩
        else match kept.filter fun e => e.line.map Prod.fst == some x.wline with
          | some e => { e with ctx := some x.order }
          | none => ⟨some x.order, none, some (x.wline, 64), false⟩
      s1.modCrew p x.strand.launch j fun y => y.pushEntry entry
    | none => s1

/-- CTXLOAD (R237). DEDUCED: log 49. -/
def ctxloadBody (g : Guard) (a : Reg) : Strand → State → Out :=
  guarded g 1 (privileged fun st s =>
    (readSources st s [a] none).andThen s fun r =>
      (contextOperand (src r.1 0)).andThen s fun op =>
        settled false st s fun st1 s1 =>
          let k := clusterOf s.actor
          if (NMap.get? (s1.cluster k).ctxs op.2).isSome then .trap (permission 11)
          else
            wideRead st1 s1 s 0 op.1 131072 1 fun bs s2 =>
              if contextBad bs || (s2.launch? st.part (recLaunch bs)).isNone then .trap (permission 11 op.1)
              else
                let (x, e, s3) := s2.comeBack (Ctx.ofImage bs st.part (cellOf s.actor) s2.serial) bs
                .ok (retire (({ s3 with serial := s3.serial + 1 }).letIn k op.2 x e) 1))

/-! ### The instructions -/

/-- TRAP code. -/
def execTrap (g : Guard) (code : BitVec 5) (s : State) : Host.Outcome State Fault Refusal := runBody (trapBody g code) s
/-- ERET. -/
def execEret (g : Guard) (s : State) : Host.Outcome State Fault Refusal := runBody (eretBody g) s
/-- SYSR gD, creg. -/
def execSysr (d : Reg) (num : BitVec 8) (s : State) : Host.Outcome State Fault Refusal := runBody (sysrBody d num) s
/-- SYSW creg, gA. -/
def execSysw (a : Reg) (num : BitVec 8) (s : State) : Host.Outcome State Fault Refusal := runBody (syswBody a num) s
/-- STAB gA, gB. -/
def execStab (g : Guard) (a b : Reg) (s : State) : Host.Outcome State Fault Refusal := runBody (stabBody g a b) s
/-- TLBI gA. -/
def execTlbi (g : Guard) (a : Reg) (s : State) : Host.Outcome State Fault Refusal := runBody (tlbiBody g a) s
/-- TLBI.all. -/
def execTlbiAll (g : Guard) (s : State) : Host.Outcome State Fault Refusal := runBody (tlbiAllBody g) s
/-- PREEMPT gA. -/
def execPreempt (g : Guard) (a : Reg) (s : State) : Host.Outcome State Fault Refusal := runBody (preemptBody g a) s
/-- CTXSAVE gA. -/
def execCtxsave (g : Guard) (a : Reg) (s : State) : Host.Outcome State Fault Refusal := runBody (ctxsaveBody g a) s
/-- CTXLOAD gA. -/
def execCtxload (g : Guard) (a : Reg) (s : State) : Host.Outcome State Fault Refusal := runBody (ctxloadBody g a) s

end Sys2Proof.Machine
end

