-- ==== Sys2Proof/Machine/Kli.lean ====
section
/-! DEFINITION. Load images: the KLI container and its sections (R360, R361), the check that KLOAD makes
(R362, R363), and what a launch takes from an image: local images, algebra tables and class tables (R45, R58, R292). -/
namespace Sys2Proof.Machine

/-! ### The container (Tables 19-1, 19-2) -/

/-- A section entry. -/
structure Section where
  type : Nat
  image : Nat
  off : Nat
  len : Nat
  deriving DecidableEq, Repr

/-- NSEC. -/
def kliCount (b : List (BitVec 8)) : Nat := field b 6 2
/-- NIMG. -/
def kliImages (b : List (BitVec 8)) : Nat := field b 8 2
/-- TOTAL. -/
def kliTotal (b : List (BitVec 8)) : Nat := field b 16 8
/-- LINKBASE. -/
def kliBase (b : List (BitVec 8)) : Nat := field b 24 8
/-- SIGOFF. -/
def kliSigOff (b : List (BitVec 8)) : Nat := field b 32 8

/-- The section table. -/
def kliSections (b : List (BitVec 8)) : List Section :=
  (List.range (kliCount b)).map fun i =>
    let o := 64 + 16 * i
    ⟨field b o 2, field b (o + 2) 2, field b (o + 8) 4, field b (o + 12) 4⟩

/-- The bytes of a section. -/
def Section.bytes (x : Section) (b : List (BitVec 8)) : List (BitVec 8) := (b.drop x.off).take x.len

/-- The bytes of the sections of a type, in table order. -/
def kliOf (b : List (BitVec 8)) (type : Nat) : List (List (BitVec 8)) :=
  ((kliSections b).filter fun x => x.type == type).map fun x => x.bytes b

/-- The boot tree: PARENT by launch cell (R361). -/
def kliParents (b : List (BitVec 8)) : List Nat :=
  (kliOf b 12).flatMap fun t => (List.range (t.length / 4)).map fun i => field t (4 * i) 2

/-- The placement entries: image, first launch cell, count (R361). -/
def kliPlaces (b : List (BitVec 8)) : List (Nat × Nat × Nat) :=
  (kliOf b 11).flatMap fun t => (List.range (t.length / 8)).map fun i => (field t (8 * i) 2, field t (8 * i + 2) 2, field t (8 * i + 4) 2)

/-- The image of a launch cell. DEDUCED: log 25. -/
def kliImageOf (b : List (BitVec 8)) (cell : Nat) : Option Nat :=
  ((kliPlaces b).find? fun e => decide (e.2.1 ≤ cell) && decide (cell < e.2.1 + e.2.2)).map Prod.fst

/-- The section entry at a place of the table breaks Table 19-2. -/
def sectionBad (b : List (BitVec 8)) (i : Nat) (x : Section) : Bool :=
  x.type == 0 || decide (13 < x.type) || (if x.type ≤ 7 then decide (kliImages b ≤ x.image) else x.image != 0)
    || !zeroRange b (64 + 16 * i + 4) 4 || x.off % 64 != 0 || decide (x.off < 64 + 16 * kliCount b)
    || (if x.type = 13 then x.off != kliSigOff b || x.len != 4672 else decide (kliSigOff b < x.off + x.len))

/-- Two sections share a byte. -/
def Section.meets (x y : Section) : Bool := decide (x.off < y.off + y.len) && decide (y.off < x.off + x.len)

/-- Some two sections overlap. -/
def anyMeet : List Section → Bool
  | [] => false
  | x :: r => r.any x.meets || anyMeet r

/-- Following parents from a launch cell reaches a root within a number of steps. -/
def reachesRoot (parents : List Nat) (cell : Nat) : Nat → Bool
  | 0 => false
  | n + 1 =>
    match parents[cell]? with
    | none => false
    | some p => p == 0xFFFF || reachesRoot parents p n

/-- The launch descriptors of a container, 192 bytes each (R289). -/
def kliDescs (b : List (BitVec 8)) : List (List (BitVec 8)) :=
  (kliOf b 8).flatMap fun t => (List.range (t.length / 192)).map fun i => (t.drop (192 * i)).take 192

/-- A launch cell's parent breaks R361: it holds another image, or, for a launch of the container that has the cell, it is no launch cell
of the same crew. -/
def parentBad (b : List (BitVec 8)) (cell p : Nat) : Bool :=
  p != 0xFFFF && (kliImageOf b p != kliImageOf b cell
    || (kliDescs b).any fun d =>
        let c := field d 1 1
        let n := (field d 0 1 + 1) * c
        decide (cell < n) && (decide (n ≤ p) || cell / c != p / c))

/-- The container of a given length breaks a rule of Tables 19-1 and 19-2 or of R361, places a launch cell twice or not at all, or
has a boot tree with a cycle (R362). DEDUCED: log 25. -/
def kliBad (b : List (BitVec 8)) : Bool :=
  let secs := kliSections b
  let parents := kliParents b
  let n := parents.length
  field b 0 4 != 0x00494C4B || field b 4 2 != 1 || kliCount b == 0 || decide (1024 < kliCount b)
    || kliImages b == 0 || decide (256 < kliImages b) || !zeroRange b 10 6 || kliTotal b != b.length || kliBase b % 2 ^ 16 != 0
    || kliSigOff b + 4672 != kliTotal b || !zeroRange b 40 24 || decide (b.length < 64 + 16 * kliCount b)
    || (List.zipWith (sectionBad b) (List.range secs.length) secs).any id || anyMeet secs
    || (secs.filter fun x => x.type == 13).length != 1
    || (kliOf b 11).any (fun t => t.length % 8 != 0 || (List.range (t.length / 8)).any fun i => !zeroRange t (8 * i + 6) 2)
    || (kliOf b 12).any (fun t => t.length % 4 != 0 || (List.range (t.length / 4)).any fun i => !zeroRange t (4 * i + 2) 2)
    || (kliPlaces b).any (fun e => decide (kliImages b ≤ e.1) || decide (n < e.2.1 + e.2.2))
    || (List.range n).any (fun c =>
        ((kliPlaces b).filter fun e => decide (e.2.1 ≤ c) && decide (c < e.2.1 + e.2.2)).length != 1)
    || (kliDescs b).any (fun d => decide (n < (field d 0 1 + 1) * field d 1 1))
    || (List.range n).any (fun c => parentBad b c (parents.getD c 0) || !reachesRoot parents c (n + 1))

/-- KEYID of a public key (R363). -/
def keyId (key : List (BitVec 8)) : List (BitVec 8) := (sha3 key).take 8

/-- The signature of a container verifies under an installed key (R363). -/
def kliSigned (keys : List (List (BitVec 8))) (b : List (BitVec 8)) : Bool :=
  let sig := b.drop (kliSigOff b)
  let digest := sha3 (b.take (kliSigOff b))
  zeroRange sig 8 37 && keys.any fun k => keyId k == sig.take 8 && mldsaVerify k digest ((sig.drop 45).take 4627)

/-- An address lies in a text section as mapped at LINKBASE (R343). -/
def kliText (b : List (BitVec 8)) (a : Nat) : Bool :=
  (kliSections b).any fun x => x.type == 1 && decide (kliBase b ≤ a) && decide (a < kliBase b + x.len)

/-! ### Tables -/

/-- The entries of an algebra-table section: slot and table. One that names no slot, or whose table breaks Table 8-4, is passed over; one that
the section's end cuts off is taken, the products it lacks reading as null. DESIGN CHOICE: log 66. -/
def algEntries : Nat → List (BitVec 8) → List (Nat × AlgTable)
  | 0, _ => []
  | fuel + 1, bs =>
    if bs.length < 16 then []
    else
      let d := field bs 8 1
      let n := 8 + (8 + d * d)
      let rest := algEntries fuel (bs.drop n)
      match algOfImage ((bs.drop 8).take (8 + d * d)) with
      | some t => if 1 ≤ field bs 0 8 && field bs 0 8 ≤ 7 then (field bs 0 8, t) :: rest else rest
      | none => rest

/-- The algebra tables an image declares. -/
def kliAlgs (b : List (BitVec 8)) : List (Nat × AlgTable) := (kliOf b 9).flatMap fun t => algEntries (t.length / 16 + 1) t

/-- The class tables an image declares: class and table; an entry with a reserved bit, or a number outside 3 to 63, declares nothing, and
bytes behind the last whole entry of 520 are passed over. DEDUCED: log 25. DESIGN CHOICE: log 25. -/
def kliClasses (b : List (BitVec 8)) : List (Nat × List (BitVec 16)) :=
  ((kliOf b 10).flatMap fun t => (List.range (t.length / 520)).map fun i => (field t (520 * i) 8, tableOf ((t.drop (520 * i + 8)).take 512))).filter
    fun e => decide (3 ≤ e.1) && decide (e.1 ≤ 63) && e.2.all fun x => x.extractLsb' 10 6 == 0

/-- The table of a class that nothing has bound (R256). -/
def resetTable : List (BitVec 16) := (List.range 256).map fun i => BitVec.ofNat 16 (i / 16 + 0x20)

/-- The table a class is bound to (R58). -/
def Partition.boundTable (x : Partition) (c : Nat) : Option (List (BitVec 16)) := (NMap.get? x.tables c).filter (· != resetTable)

/-- Class tables installed in turn: one of them meets a class that is bound to another table (R58). -/
def Partition.clash (x : Partition) : List (Nat × List (BitVec 16)) → Bool
  | [] => false
  | e :: rest =>
    (match x.boundTable e.1 with
      | some t => t != e.2
      | none => false) || Partition.clash { x with tables := NMap.set x.tables e.1 e.2 } rest

/-- A class table of an image conflicts with the one bound in the partition, by an earlier launch or by the image itself (R58, R290). -/
def Partition.classConflict (x : Partition) (b : List (BitVec 8)) : Bool := x.clash (kliClasses b)

/-- Install the class tables of an image in the classes that are unbound (R58). -/
def Partition.installClasses (x : Partition) (b : List (BitVec 8)) : Partition :=
  { x with tables := (kliClasses b).foldl (fun m e => NMap.set m e.1 e.2) x.tables }

/-! ### Local images (R45, R292) -/

/-- Write bytes with fresh ECC: the lines written whole are poisoned no more. -/
def State.freshStore (s : State) (a : Nat) (bs : List (BitVec 8)) : State :=
  let s1 := s.storeHome a bs
  { s1 with poisoned := s1.poisoned.filter fun p => !(decide (a ≤ 64 * p.1) && decide (64 * p.1 + 64 ≤ a + bs.length)) }

/-- What a local image may write of a space: all of it but, in cmem, the mailboxes, which only completing engine commands write (R217,
R271). -/
def imageRoom (sp : BitVec 3) : Nat := if sp = 5 then min (spaceSize sp) 0xFF000 else spaceSize sp

/-- Write the sections of a type and image into a local space, as far as it may take them. DESIGN CHOICE: log 66. -/
def State.loadSpace (s : State) (b : List (BitVec 8)) (image cell type : Nat) (sp : BitVec 3) : State :=
  ((kliSections b).filter fun x => x.type == type && x.image == image).foldl
    (fun t x => t.freshStore (localBase sp cell) ((x.bytes b).take (imageRoom sp))) s

/-- Write an image's lmem, wbuf, abuf and cbuf sections into a cell. -/
def State.loadCell (s : State) (b : List (BitVec 8)) (image cell : Nat) : State :=
  (((s.loadSpace b image cell 3 1).loadSpace b image cell 4 2).loadSpace b image cell 5 3).loadSpace b image cell 6 4

/-- The container a slot holds, as it stands in device memory (R343). -/
def State.container (s : State) (p slot : Nat) : Option (List (BitVec 8)) :=
  ((s.part? p).bind fun x => NMap.get? x.klis slot).map fun k => s.bytes k.addr k.len

end Sys2Proof.Machine
end

