-- ==== Sys2Proof/Machine/Vector.lean ====
section
/-! DEFINITION. Vector instructions (07_vector_instructions): which lanes act, how elements sit in lanes, and what each
instruction computes (R147 to R163). -/
namespace Sys2Proof.Machine

/-! ### Shape of a vector instruction (R148, R149) -/

/-- A lane-guarded instruction: REG_BOUND first, then the scalar sources (R149). -/
def vectorBody (g : Guard) (words : Nat) (vs srcs : List Reg) (dst : Option Reg)
    (body : BitVec 16 → List (BitVec 64) → Strand → State → Out) : Strand → State → Out :=
  laneGuarded g words fun mask st s =>
    if outsideAllot st vs then .trap regBound
    else (readSources st s srcs dst vs).andThen s fun r => body mask r.1 st r.2

/-- The lanes a mask lets act, in ascending order. -/
def actingLanes (mask : BitVec 16) : List Nat := (List.range 16).filter fun i => mask.getLsbD i

/-- A lane-wise result: the new register and the flags of the acting lanes. -/
def mapLanes (mask : BitVec 16) (old : BitVec 512) (f : Nat → BitVec 32 × Flags) : BitVec 512 × Flags :=
  (mergeLanes mask old fun i => (f i).1, (actingLanes mask).foldl (fun a i => a ||| (f i).2) 0)

/-- A lane-guarded instruction that computes vD lane by lane from vector sources. -/
def lanesOp (g : Guard) (words : Nat) (d : Reg) (vs : List Reg) (f : Strand → Nat → BitVec 32 × Flags) : Strand → State → Out :=
  vectorBody g words (d :: vs) [] none fun mask _ st s =>
    let (v, fl) := mapLanes mask (st.v d) (f st)
    .ok (s.setMe (((st.setV d v).orFlags fl).advance words))

/-! ### Elements (R147, R150) -/

/-- The float format an FA names; L 00 stands for FP32 (R150). -/
def vfmt (fa : BitVec 5) : FloatFmt := if fa = 18 then fp16 else if fa = 17 then bf16 else fp32

/-- FP32 puts one element in a lane, FP16 and BF16 two (R147). -/
def isHalf (fa : BitVec 5) : Bool := fa == 18 || fa == 17

/-- The element codes of a lane, low element first. -/
def elems (fa : BitVec 5) (x : BitVec 32) : List Nat :=
  if isHalf fa then [x.toNat % 65536, x.toNat / 65536] else [x.toNat]

/-- A lane from its element codes. -/
def packElems (fa : BitVec 5) (l : List Nat) : BitVec 32 :=
  if isHalf fa then BitVec.ofNat 32 (l.getD 0 0 + 65536 * l.getD 1 0) else BitVec.ofNat 32 (l.getD 0 0)

/-- An element as the vector unit reads it (R96). -/
def readElem (fa : BitVec 5) (ftz : Bool) (c : Nat) : FV := flushIn (vfmt fa) ftz ((vfmt fa).decode c)

/-- A function of one lane's elements, each half on its own (R147). -/
def eachElem (fa : BitVec 5) (f : List Nat → Nat × Flags) (xs : List (BitVec 32)) : BitVec 32 × Flags :=
  let cols := (List.range (if isHalf fa then 2 else 1)).map fun k => f (xs.map fun x => (elems fa x).getD k 0)
  (packElems fa (cols.map Prod.fst), cols.foldl (fun a c => a ||| c.2) 0)

/-- Round an exact result into the format, with the flags of its special values (R94). -/
def finishElem (fa : BitVec 5) (mode : RM) (ftz : Bool) (r : FV × Flags) : Nat × Flags :=
  let (v, fl) := rndFtz (vfmt fa) mode ftz r.1
  ((vfmt fa).encode v, fl ||| r.2)

/-! ### Floating arithmetic (R151, R152) -/

/-- The two-operand functions. -/
inductive VBin where
  | add | sub | mul | min | max
  deriving DecidableEq, Repr

/-- One element of a two-operand function. -/
def VBin.eval (f : VBin) (mode : RM) (x y : FV) : FV × Flags :=
  match f with
  | .add => fvAdd mode x y
  | .sub => fvAdd mode x y.negate
  | .mul => fvMul x y
  | .min => fvMinMax false x y
  | .max => fvMinMax true x y

/-- The one-operand functions. -/
inductive VUn where
  | abs | neg | rcp | rsq | ex2 | lg2 | sqrt
  deriving DecidableEq, Repr

/-- One element of a one-operand function. -/
def VUn.eval (f : VUn) (x : FV) : FV × Flags :=
  match f with
  | .abs => (x.abs, flagIf x.isSignalling flagNV)
  | .neg => (x.negate, flagIf x.isSignalling flagNV)
  | .rcp => fvRcp x
  | .rsq => fvRsq x
  | .ex2 => fvExp2 x
  | .lg2 => fvLog2 x
  | .sqrt => fvSqrt x

/-- status.RM of a strand. -/
def Strand.mode (st : Strand) : RM := RM.ofBits st.rm

/-- VADD to VMAX. -/
def vbinBody (f : VBin) (g : Guard) (words : Nat) (d a b : Reg) (fa : BitVec 5) : Strand → State → Out :=
  lanesOp g words d [a, b] fun st i =>
    eachElem fa (fun c => finishElem fa st.mode st.ftz
      (f.eval st.mode (readElem fa st.ftz (c.getD 0 0)) (readElem fa st.ftz (c.getD 1 0))))
      [lane (st.v a) i, lane (st.v b) i]

/-- VABS to VSQRT. -/
def vunBody (f : VUn) (g : Guard) (words : Nat) (d a : Reg) (fa : BitVec 5) : Strand → State → Out :=
  lanesOp g words d [a] fun st i =>
    eachElem fa (fun c => finishElem fa st.mode st.ftz (f.eval (readElem fa st.ftz (c.getD 0 0)))) [lane (st.v a) i]

/-- VFMA and VFMS: the destination is also the addend. -/
def vfmaBody (minus : Bool) (g : Guard) (words : Nat) (d a b : Reg) (fa : BitVec 5) : Strand → State → Out :=
  lanesOp g words d [a, b] fun st i =>
    eachElem fa (fun c =>
      let z := readElem fa st.ftz (c.getD 2 0)
      finishElem fa st.mode st.ftz
        (fvFma st.mode (readElem fa st.ftz (c.getD 0 0)) (readElem fa st.ftz (c.getD 1 0)) (if minus then z.negate else z)))
      [lane (st.v a) i, lane (st.v b) i, lane (st.v d) i]

/-! ### Conversion (R153) -/

/-- Component k of width w in a register read as a packed bit string. -/
def component (x : BitVec 512) (w k : Nat) : Nat := x.toNat / 2 ^ (w * k) % 2 ^ w

/-- Replace component k of width w. -/
def setComponent (w : Nat) (x : Nat) (k v : Nat) : Nat :=
  let lo := x % 2 ^ (w * k)
  let hi := x / 2 ^ (w * (k + 1))
  lo + 2 ^ (w * k) * (v % 2 ^ w) + 2 ^ (w * (k + 1)) * hi

/-- VCVT: flags follow R85 to R87, and a NaN that is rounded sets none. DEDUCED: log 38. -/
def vcvtBody (g : Guard) (d a : Reg) (fa fb : BitVec 5) (hs hd : BitVec 3) : Strand → State → Out :=
  vectorBody g 3 [d, a] [] none fun mask _ st s =>
    let ws := fmtWidth fa
    let wd := fmtWidth fb
    let conv (i : Nat) : Nat × Flags :=
      let (x, bad) := decodeFmt fa (component (st.v a) ws (16 * hs.toNat + i))
      let (c, fl) := convertFtz fa fb st.mode st.ftz x
      (c, fl ||| flagIf bad flagFMTINVAL)
    let act := actingLanes mask
    let v := act.foldl (fun x i => setComponent wd x (16 * hd.toNat + i) (conv i).1) (st.v d).toNat
    let fl := act.foldl (fun f i => f ||| (conv i).2) 0
    .ok (s.setMe (((st.setV d (BitVec.ofNat 512 v)).orFlags fl).advance 3))

/-! ### Comparison and selection (R154, R155) -/

/-- The floating conditions. -/
inductive VFCond where
  | feq | fne | flt | fle | funord
  deriving DecidableEq, Repr

/-- The truth of a floating condition. -/
def VFCond.holds (f : VFCond) (c : FCmp) : Bool :=
  match f with
  | .feq => c.eq
  | .fne => !c.eq
  | .flt => c.lt
  | .fle => c.lt || c.eq
  | .funord => c.un

/-- The integer conditions. -/
inductive VICond where
  | ieq | ine | ilt | ile | iltu | ileu
  deriving DecidableEq, Repr

/-- The truth of an integer condition on two lanes. -/
def VICond.holds (f : VICond) (x y : BitVec 32) : Bool :=
  match f with
  | .ieq => x == y
  | .ine => x != y
  | .ilt => x.slt y
  | .ile => x.sle y
  | .iltu => x.ult y
  | .ileu => x.ule y

/-- A predicate from its acting bits; the others keep theirs. -/
def mergeMask (mask old : BitVec 16) (f : Nat → Bool) : BitVec 16 :=
  BitVec.ofNat 16 ((List.range 16).foldr (fun i a => 2 * a + (if (if mask.getLsbD i then f i else old.getLsbD i) then 1 else 0)) 0)

/-- VCMP on a floating format; for a 16-bit format `half` picks the element of each lane. -/
def vcmpFloat (f : VFCond) (g : Guard) (words : Nat) (d : BitVec 3) (a b : Reg) (fa : BitVec 5) (half : Bool) :
    Strand → State → Out :=
  vectorBody g words [a, b] [] none fun mask _ st s =>
    let cmp (i : Nat) : FCmp × Flags :=
      let pick (x : BitVec 32) : FV := readElem fa st.ftz ((elems fa x).getD (if half then 1 else 0) 0)
      fvCompare (pick (lane (st.v a) i)) (pick (lane (st.v b) i))
    let m := mergeMask mask (st.p d) fun i => f.holds (cmp i).1
    let fl := (actingLanes mask).foldl (fun x i => x ||| (cmp i).2) 0
    .ok (s.setMe (((st.setP d m).orFlags fl).advance words))

/-- VCMP on integer lanes. -/
def vcmpInt (f : VICond) (g : Guard) (d : BitVec 3) (a b : Reg) : Strand → State → Out :=
  vectorBody g 1 [a, b] [] none fun mask _ st s =>
    let m := mergeMask mask (st.p d) fun i => f.holds (lane (st.v a) i) (lane (st.v b) i)
    .ok (s.setMe ((st.setP d m).advance 1))

/-- VSEL: copies bits. -/
def vselBody (g : Guard) (inv : Bool) (sel : BitVec 3) (d a b : Reg) : Strand → State → Out :=
  lanesOp g 1 d [a, b] fun st i =>
    (if (st.p sel).getLsbD i ^^ inv then lane (st.v a) i else lane (st.v b) i, 0)

/-- The bitwise and integer group (R156): no flag. -/
def vintBody (f : BitVec 32 → BitVec 32 → BitVec 32) (g : Guard) (d a b : Reg) : Strand → State → Out :=
  lanesOp g 1 d [a, b] fun st i => (f (lane (st.v a) i) (lane (st.v b) i), 0)

/-! ### Lane movement (R157) -/

/-- VPERM: lanes of A are read whatever the guard says about them. -/
def vpermBody (g : Guard) (d a b : Reg) : Strand → State → Out :=
  lanesOp g 1 d [a, b] fun st i => (lane (st.v a) ((lane (st.v b) i).toNat % 16), 0)

/-- VBCAST. -/
def vbcastBody (g : Guard) (d a : Reg) : Strand → State → Out :=
  vectorBody g 1 [d] [a] none fun mask vs st s =>
    let x := (src vs 0).setWidth 32
    .ok (s.setMe ((st.setV d (mergeLanes mask (st.v d) fun _ => x)).advance 1))

/-- VEXTR: guarded by bit 0. -/
def vextrBody (g : Guard) (d a b : Reg) : Strand → State → Out :=
  guarded g 1 fun st s =>
    if outsideAllot st [a] then .trap regBound
    else
      (readSources st s [b] (some d) [a]).andThen s fun r =>
        .ok (writeDest (st.advance 1) r.2 d ((lane (st.v a) ((src r.1 0).toNat % 16)).setWidth 64))

/-- VINS: guarded by bit 0; it reads its destination. -/
def vinsBody (g : Guard) (d a b : Reg) : Strand → State → Out :=
  guarded g 1 fun st s =>
    if outsideAllot st [d] then .trap regBound
    else
      (readSources st s [a, b] none [d]).andThen s fun r =>
        let k := (src r.1 1).toNat % 16
        let v := ofLanes fun i => if i = k then (src r.1 0).setWidth 32 else lane (st.v d) i
        .ok (r.2.setMe ((st.setV d v).advance 1))

/-! ### Reductions and dot products (R158, R159) -/

/-- An exact sum with its special values (R90, R158): NaN for a NaN or for infinities of both signs (with NV), else the
infinity, else the rational sum; an exact zero is negative when every term is -0 or toward −∞. -/
def fvSum (mode : RM) (xs : List FV) : FV × Flags :=
  let pinf := xs.any fun x => x.isInf && !x.neg
  let ninf := xs.any fun x => x.isInf && x.neg
  if xs.any FV.isNaN || (pinf && ninf) then (.nan false, flagIf (xs.any FV.isSignalling || (pinf && ninf)) flagNV)
  else if pinf || ninf then (.inf ninf, 0)
  else
    let t := xs.foldl (fun a x => a + x.toRat) 0
    (FV.ofRat t (xs.all (fun x => x.isZero && x.neg) || mode = .rdn), 0)

/-- An accumulator plus a group (R90): the group's own special values come first, then acc + S. -/
def fvAccumulate (mode : RM) (acc : FV) (group : List FV) : FV × Flags :=
  let (t, f) := fvSum mode group
  if t.isNaN then (t, f ||| flagIf acc.isSignalling flagNV) else fvSum mode (acc :: group)

/-- The floating reductions. -/
inductive VRedF where
  | fadd | fmin | fmax
  deriving DecidableEq, Repr

/-- The reduction of a list of elements. -/
def VRedF.eval (f : VRedF) (mode : RM) (xs : List FV) : FV × Flags :=
  match f with
  | .fadd => fvSum mode xs
  | .fmin => (xs.tail.foldl (fun a x => (fvMinMax false a x).1) (xs.headD (.nan false)), flagIf (xs.any FV.isSignalling) flagNV)
  | .fmax => (xs.tail.foldl (fun a x => (fvMinMax true a x).1) (xs.headD (.nan false)), flagIf (xs.any FV.isSignalling) flagNV)

/-- VRED on a floating format: both elements of a lane for a 16-bit format. -/
def vredFloat (f : VRedF) (g : Guard) (words : Nat) (d a : Reg) (fa : BitVec 5) : Strand → State → Out :=
  vectorBody g words [a] [] (some d) fun mask _ st s =>
    let xs := (actingLanes mask).flatMap fun i => (elems fa (lane (st.v a) i)).map (readElem fa st.ftz)
    let (c, fl) := finishElem fa st.mode st.ftz (f.eval st.mode xs)
    .ok (writeDest ((st.orFlags fl).advance words) s d (BitVec.ofNat 64 c))

/-- VRED on integer lanes. -/
def vredInt (f : BitVec 32 → BitVec 32 → BitVec 32) (g : Guard) (d a : Reg) : Strand → State → Out :=
  vectorBody g 1 [a] [] (some d) fun mask _ st s =>
    let xs := (actingLanes mask).map fun i => lane (st.v a) i
    let r := xs.tail.foldl f (xs.headD 0)
    .ok (writeDest (st.advance 1) s d (r.signExtend 64))

/-- VDOT on bytes: A signed or unsigned, B signed; the sum wraps. -/
def vdotInt (unsignedA : Bool) (g : Guard) (d a b : Reg) : Strand → State → Out :=
  lanesOp g 1 d [a, b] fun st i =>
    let x := lane (st.v a) i
    let y := lane (st.v b) i
    let term (j : Nat) : Int :=
      let p := x.toNat / 256 ^ j % 256
      let q := y.toNat / 256 ^ j % 256
      (if unsignedA then (p : Int) else signedOf 8 p) * signedOf 8 q
    (lane (st.v d) i + BitVec.ofInt 32 (term 0 + term 1 + term 2 + term 3), 0)

/-- VDOT on halves: exact, one rounding to FP32, FTZ on every input and the result; the products are one group (R90, R159). -/
def vdotFloat (fa : BitVec 5) (g : Guard) (d a b : Reg) : Strand → State → Out :=
  lanesOp g 1 d [a, b] fun st i =>
    let x := elems fa (lane (st.v a) i)
    let y := elems fa (lane (st.v b) i)
    let mul (k : Nat) := fvMul (readElem fa st.ftz (x.getD k 0)) (readElem fa st.ftz (y.getD k 0))
    let (p0, f0) := mul 0
    let (p1, f1) := mul 1
    let (t, f2) := fvAccumulate st.mode (readElem 19 st.ftz (lane (st.v d) i).toNat) [p0, p1]
    let (c, fl) := finishElem 19 st.mode st.ftz (t, f0 ||| f1 ||| f2)
    (BitVec.ofNat 32 c, fl)

/-! ### Vector memory (R160 to R162) -/

/-- The checks of one address: ALIGN to `align` bytes, then the local range, then the mailboxes for a store (R161, R271). -/
def vectorCheck (sp : BitVec 3) (va : BitVec 64) (align : Nat) (store : Bool) : Res Unit :=
  if va.toNat % align != 0 then .trap (alignTrap 0 va)
  else if spaceSize sp < va.toNat + align then .trap (translation 1 va)
  else if store && sp = 5 && decide (0xFF000 ≤ va.toNat) then .trap (permission 12 va)
  else .ok ()

/-- Check every acting lane's address in ascending order. -/
def lanesCheck (sp : BitVec 3) (store : Bool) (addr : Nat → BitVec 64) : List Nat → Res Unit
  | [] => .ok ()
  | i :: r => (vectorCheck sp (addr i) 4 store).bind fun _ => lanesCheck sp store addr r

/-- Perform a vector load's acting lanes, or a vector store's, in ascending order. -/
def vectorLoad (s : State) (flat : Nat → Nat) (mask : BitVec 16) (old : BitVec 512) : BitVec 512 :=
  mergeLanes mask old fun i => BitVec.ofNat 32 (leNat (s.bytes (flat i) 4))

/-- The stores of a vector store, lane by lane. -/
def vectorStore (s : State) (flat : Nat → Nat) (mask : BitVec 16) (data : BitVec 512) : State :=
  (actingLanes mask).foldl (fun t i => t.storeHome (flat i) (leBytes (lane data i).toNat 4)) s

/-- The acting strand's instruction has issued and is performed by a later turn. -/
def Strand.isLate (st : Strand) : Bool :=
  match st.wait with
  | some w => w.kind == .late
  | none => false

/-- A vector access once its addresses are checked: `d` is the register loaded or stored. A plain VGATH or VSCAT that issues late goes
into the window and is performed lane by lane while its strand waits (R161). DEDUCED: log 38. -/
def vectorAccess (store whole : Bool) (st : Strand) (s s0 : State) (words : Nat) (mask : BitVec 16) (d : Reg) (sp : BitVec 3)
    (addr : Nat → BitVec 64) (first : BitVec 64) (q : BitVec 4) (named : Bool) : Out :=
  let base := localBase sp (cellOf s.actor)
  let flat (i : Nat) : Nat := base + (addr i).toNat
  let act := actingLanes mask
  let plain := !qRelaxed q || named
  let s1 := s.drainWc s.actor
  match s1.me? with
  | none => .ok s1
  | some st1 =>
    let x : Access :=
      { id := s1.serial, store := store, width := 4, whole := whole,
        parts := act.map fun i => (flat i, i, if store then leBytes (lane (st.v d) i).toNat 4 else []),
        va := first, acquire := false, release := false, memType := 0, dest := if store then .none else .vec d mask, got := [] }
    if !plain then
      match enqueue st1 s1 words x with
      | .wait k _ => .wait k s0
      | o => o
    else if st.heldBack true false [] then .wait .poll s0
    else
      st1.reportAll.andThen s0 fun _ =>
        match act.find? fun i => s1.isPoisoned (lineOf (flat i)) with
        | some i => .trap (translation 4 (if whole then first else addr i))
        | none =>
          if !whole && st.isLate then .wait .lanes (({ s1 with serial := s1.serial + 1 }).setMe { st1 with window := [x] })
          else if store then .ok (retire (vectorStore s1 flat mask (st.v d)) words)
          else .ok (s1.setMe ((st1.setV d (vectorLoad s1 flat mask (st.v d))).advance words))

/-- VLD and VST (R160, R161): one access of 64 bytes. -/
def vmemBody (store : Bool) (g : Guard) (words : Nat) (d a b : Reg) (sp : BitVec 3) (q : BitVec 4) (disp : BitVec 64) :
    Strand → State → Out :=
  laneGuarded g words fun mask st s =>
    if outsideAllot st [d] then .trap regBound
    else
      (readSources st s [a, b] none [d]).andThen s fun r =>
        let va := src r.1 0 + src r.1 1 + disp
        (vectorCheck sp va 64 store).andThen s fun _ =>
          vectorAccess store true st r.2 s words mask d sp (fun i => va + BitVec.ofNat 64 (4 * i)) va q ([a, b].any isPort)

/-- VGATH and VSCAT (R160, R161): one access whose lanes are performed one by one; poison met by a relaxed one is reported with the
address of its first acting lane. DEDUCED: log 38. -/
def vindexBody (store : Bool) (g : Guard) (words : Nat) (d a b : Reg) (sp : BitVec 3) (q : BitVec 4) : Strand → State → Out :=
  laneGuarded g words fun mask st s =>
    if outsideAllot st [d, b] then .trap regBound
    else
      (readSources st s [a] none [d, b]).andThen s fun r =>
        let addr (i : Nat) : BitVec 64 := src r.1 0 + (lane (st.v b) i).setWidth 64
        (lanesCheck sp store addr (actingLanes mask)).andThen s fun _ =>
          vectorAccess store false st r.2 s words mask d sp addr (addr ((actingLanes mask).headD 0)) q (isPort a)

/-! ### The allotment (R163) -/

/-- The first allotments of a cell's strands that are placed and wait for their crew's images (R17, R292). -/
def State.bootPool (s : State) (cell : Nat) : Nat :=
  s.parts.foldl (fun a p => p.2.launches.foldl (fun b l => l.2.crews.foldl (fun c k =>
    if !k.2.boot.isEmpty && k.2.cells.any (fun w => w.1 == cell) then c + l.2.nSlots * l.2.allot else c) b) a) 0

/-- The allotments of a cell's slots, together: those of its strands, and of those that are about to start (R17). DEDUCED: log 38. -/
def State.poolUsed (s : State) (cell : Nat) : Nat :=
  s.slots.foldl (fun n x => if cellOf x.1 = cell then n + x.2.allot else n) (s.bootPool cell)

/-- VALLOC. -/
def vallocBody (g : Guard) (d a : Reg) : Strand → State → Out :=
  guarded g 1 fun st s =>
    (readSources st s [a] (some d)).andThen s fun r =>
      let n := (src r.1 0).toNat
      if n ≤ 32 - st.allot && s.poolUsed (cellOf s.actor) + n ≤ 256 then
        let st1 := { st with vregs := (indexRange' st.allot n).foldl NMap.erase st.vregs, allot := st.allot + n }
        .ok (writeDest (st1.advance 1) r.2 d (BitVec.ofNat 64 (st.allot + n)))
      else .ok (writeDest (st.advance 1) r.2 d (BitVec.allOnes 64))
where
  /-- The n register numbers from one on. -/
  indexRange' (lo n : Nat) : List Nat := (List.range n).map (lo + ·)

/-- VFREE: the registers it releases are destroyed. -/
def vfreeBody (g : Guard) (a : Reg) : Strand → State → Out :=
  guarded g 1 fun st s =>
    (readSources st s [a] none).andThen s fun r =>
      if st.window.any fun x => match x.dest with
        | .none => false
        | _ => true
      then .wait .poll s
      else
        let k := min (src r.1 0).toNat st.allot
        let st1 := { st with vregs := ((List.range k).map fun i => st.allot - k + i).foldl NMap.erase st.vregs, allot := st.allot - k }
        .ok (r.2.setMe (st1.advance 1))

/-! ### The instructions -/

/-- VADD on FP32 (R151). -/
def execVadd (g : Guard) (d a b : Reg) (s : State) : Host.Outcome State Fault Refusal :=
  runBody (vbinBody .add g 1 d a b 19) s

/-- VADD on a named format (R151). -/
def execVaddExtended (g : Guard) (d a b : Reg) (fa : BitVec 5) (s : State) : Host.Outcome State Fault Refusal :=
  runBody (vbinBody .add g 3 d a b fa) s

/-- VSUB on FP32 (R151). -/
def execVsub (g : Guard) (d a b : Reg) (s : State) : Host.Outcome State Fault Refusal :=
  runBody (vbinBody .sub g 1 d a b 19) s

/-- VSUB on a named format (R151). -/
def execVsubExtended (g : Guard) (d a b : Reg) (fa : BitVec 5) (s : State) : Host.Outcome State Fault Refusal :=
  runBody (vbinBody .sub g 3 d a b fa) s

/-- VMUL on FP32 (R151). -/
def execVmul (g : Guard) (d a b : Reg) (s : State) : Host.Outcome State Fault Refusal :=
  runBody (vbinBody .mul g 1 d a b 19) s

/-- VMUL on a named format (R151). -/
def execVmulExtended (g : Guard) (d a b : Reg) (fa : BitVec 5) (s : State) : Host.Outcome State Fault Refusal :=
  runBody (vbinBody .mul g 3 d a b fa) s

/-- VMIN on FP32 (R151). -/
def execVmin (g : Guard) (d a b : Reg) (s : State) : Host.Outcome State Fault Refusal :=
  runBody (vbinBody .min g 1 d a b 19) s

/-- VMIN on a named format (R151). -/
def execVminExtended (g : Guard) (d a b : Reg) (fa : BitVec 5) (s : State) : Host.Outcome State Fault Refusal :=
  runBody (vbinBody .min g 3 d a b fa) s

/-- VMAX on FP32 (R151). -/
def execVmax (g : Guard) (d a b : Reg) (s : State) : Host.Outcome State Fault Refusal :=
  runBody (vbinBody .max g 1 d a b 19) s

/-- VMAX on a named format (R151). -/
def execVmaxExtended (g : Guard) (d a b : Reg) (fa : BitVec 5) (s : State) : Host.Outcome State Fault Refusal :=
  runBody (vbinBody .max g 3 d a b fa) s

/-- VABS on FP32 (R151). -/
def execVabs (g : Guard) (d a : Reg) (s : State) : Host.Outcome State Fault Refusal :=
  runBody (vunBody .abs g 1 d a 19) s

/-- VABS on a named format (R151). -/
def execVabsExtended (g : Guard) (d a : Reg) (fa : BitVec 5) (s : State) : Host.Outcome State Fault Refusal :=
  runBody (vunBody .abs g 3 d a fa) s

/-- VNEG on FP32 (R151). -/
def execVneg (g : Guard) (d a : Reg) (s : State) : Host.Outcome State Fault Refusal :=
  runBody (vunBody .neg g 1 d a 19) s

/-- VNEG on a named format (R151). -/
def execVnegExtended (g : Guard) (d a : Reg) (fa : BitVec 5) (s : State) : Host.Outcome State Fault Refusal :=
  runBody (vunBody .neg g 3 d a fa) s

/-- VRCP on FP32 (R151). -/
def execVrcp (g : Guard) (d a : Reg) (s : State) : Host.Outcome State Fault Refusal :=
  runBody (vunBody .rcp g 1 d a 19) s

/-- VRCP on a named format (R151). -/
def execVrcpExtended (g : Guard) (d a : Reg) (fa : BitVec 5) (s : State) : Host.Outcome State Fault Refusal :=
  runBody (vunBody .rcp g 3 d a fa) s

/-- VRSQ on FP32 (R151). -/
def execVrsq (g : Guard) (d a : Reg) (s : State) : Host.Outcome State Fault Refusal :=
  runBody (vunBody .rsq g 1 d a 19) s

/-- VRSQ on a named format (R151). -/
def execVrsqExtended (g : Guard) (d a : Reg) (fa : BitVec 5) (s : State) : Host.Outcome State Fault Refusal :=
  runBody (vunBody .rsq g 3 d a fa) s

/-- VEX2 on FP32 (R151). -/
def execVex2 (g : Guard) (d a : Reg) (s : State) : Host.Outcome State Fault Refusal :=
  runBody (vunBody .ex2 g 1 d a 19) s

/-- VEX2 on a named format (R151). -/
def execVex2Extended (g : Guard) (d a : Reg) (fa : BitVec 5) (s : State) : Host.Outcome State Fault Refusal :=
  runBody (vunBody .ex2 g 3 d a fa) s

/-- VLG2 on FP32 (R151). -/
def execVlg2 (g : Guard) (d a : Reg) (s : State) : Host.Outcome State Fault Refusal :=
  runBody (vunBody .lg2 g 1 d a 19) s

/-- VLG2 on a named format (R151). -/
def execVlg2Extended (g : Guard) (d a : Reg) (fa : BitVec 5) (s : State) : Host.Outcome State Fault Refusal :=
  runBody (vunBody .lg2 g 3 d a fa) s

/-- VSQRT on FP32 (R151). -/
def execVsqrt (g : Guard) (d a : Reg) (s : State) : Host.Outcome State Fault Refusal :=
  runBody (vunBody .sqrt g 1 d a 19) s

/-- VSQRT on a named format (R151). -/
def execVsqrtExtended (g : Guard) (d a : Reg) (fa : BitVec 5) (s : State) : Host.Outcome State Fault Refusal :=
  runBody (vunBody .sqrt g 3 d a fa) s

/-- VFMA on FP32 (R152). -/
def execVfma (g : Guard) (d a b : Reg) (s : State) : Host.Outcome State Fault Refusal :=
  runBody (vfmaBody false g 1 d a b 19) s

/-- VFMA on a named format (R152). -/
def execVfmaExtended (g : Guard) (d a b : Reg) (fa : BitVec 5) (s : State) : Host.Outcome State Fault Refusal :=
  runBody (vfmaBody false g 3 d a b fa) s

/-- VFMS on FP32 (R152). -/
def execVfms (g : Guard) (d a b : Reg) (s : State) : Host.Outcome State Fault Refusal :=
  runBody (vfmaBody true g 1 d a b 19) s

/-- VFMS on a named format (R152). -/
def execVfmsExtended (g : Guard) (d a b : Reg) (fa : BitVec 5) (s : State) : Host.Outcome State Fault Refusal :=
  runBody (vfmaBody true g 3 d a b fa) s

/-- VCVT (R153). -/
def execVcvt (g : Guard) (d a : Reg) (fa fb : BitVec 5) (hs hd : BitVec 3) (s : State) : Host.Outcome State Fault Refusal :=
  runBody (vcvtBody g d a fa fb hs hd) s

/-- VCMP.feq on FP32 (R154). -/
def execVcmpFeq (g : Guard) (d : BitVec 3) (a b : Reg) (s : State) : Host.Outcome State Fault Refusal :=
  runBody (vcmpFloat .feq g 1 d a b 19 false) s

/-- VCMP.feq on a named format (R154). -/
def execVcmpFeqExtended (g : Guard) (d : BitVec 3) (a b : Reg) (fa : BitVec 5) (half : Bool) (s : State) : Host.Outcome State Fault Refusal :=
  runBody (vcmpFloat .feq g 3 d a b fa half) s

/-- VCMP.fne on FP32 (R154). -/
def execVcmpFne (g : Guard) (d : BitVec 3) (a b : Reg) (s : State) : Host.Outcome State Fault Refusal :=
  runBody (vcmpFloat .fne g 1 d a b 19 false) s

/-- VCMP.fne on a named format (R154). -/
def execVcmpFneExtended (g : Guard) (d : BitVec 3) (a b : Reg) (fa : BitVec 5) (half : Bool) (s : State) : Host.Outcome State Fault Refusal :=
  runBody (vcmpFloat .fne g 3 d a b fa half) s

/-- VCMP.flt on FP32 (R154). -/
def execVcmpFlt (g : Guard) (d : BitVec 3) (a b : Reg) (s : State) : Host.Outcome State Fault Refusal :=
  runBody (vcmpFloat .flt g 1 d a b 19 false) s

/-- VCMP.flt on a named format (R154). -/
def execVcmpFltExtended (g : Guard) (d : BitVec 3) (a b : Reg) (fa : BitVec 5) (half : Bool) (s : State) : Host.Outcome State Fault Refusal :=
  runBody (vcmpFloat .flt g 3 d a b fa half) s

/-- VCMP.fle on FP32 (R154). -/
def execVcmpFle (g : Guard) (d : BitVec 3) (a b : Reg) (s : State) : Host.Outcome State Fault Refusal :=
  runBody (vcmpFloat .fle g 1 d a b 19 false) s

/-- VCMP.fle on a named format (R154). -/
def execVcmpFleExtended (g : Guard) (d : BitVec 3) (a b : Reg) (fa : BitVec 5) (half : Bool) (s : State) : Host.Outcome State Fault Refusal :=
  runBody (vcmpFloat .fle g 3 d a b fa half) s

/-- VCMP.funord on FP32 (R154). -/
def execVcmpFunord (g : Guard) (d : BitVec 3) (a b : Reg) (s : State) : Host.Outcome State Fault Refusal :=
  runBody (vcmpFloat .funord g 1 d a b 19 false) s

/-- VCMP.funord on a named format (R154). -/
def execVcmpFunordExtended (g : Guard) (d : BitVec 3) (a b : Reg) (fa : BitVec 5) (half : Bool) (s : State) : Host.Outcome State Fault Refusal :=
  runBody (vcmpFloat .funord g 3 d a b fa half) s

/-- VCMP.ieq (R154). -/
def execVcmpIeq (g : Guard) (d : BitVec 3) (a b : Reg) (s : State) : Host.Outcome State Fault Refusal :=
  runBody (vcmpInt .ieq g d a b) s

/-- VCMP.ine (R154). -/
def execVcmpIne (g : Guard) (d : BitVec 3) (a b : Reg) (s : State) : Host.Outcome State Fault Refusal :=
  runBody (vcmpInt .ine g d a b) s

/-- VCMP.ilt (R154). -/
def execVcmpIlt (g : Guard) (d : BitVec 3) (a b : Reg) (s : State) : Host.Outcome State Fault Refusal :=
  runBody (vcmpInt .ilt g d a b) s

/-- VCMP.ile (R154). -/
def execVcmpIle (g : Guard) (d : BitVec 3) (a b : Reg) (s : State) : Host.Outcome State Fault Refusal :=
  runBody (vcmpInt .ile g d a b) s

/-- VCMP.iltu (R154). -/
def execVcmpIltu (g : Guard) (d : BitVec 3) (a b : Reg) (s : State) : Host.Outcome State Fault Refusal :=
  runBody (vcmpInt .iltu g d a b) s

/-- VCMP.ileu (R154). -/
def execVcmpIleu (g : Guard) (d : BitVec 3) (a b : Reg) (s : State) : Host.Outcome State Fault Refusal :=
  runBody (vcmpInt .ileu g d a b) s

/-- VSEL (R155). -/
def execVsel (g : Guard) (inv : Bool) (sel : BitVec 3) (d a b : Reg) (s : State) : Host.Outcome State Fault Refusal :=
  runBody (vselBody g inv sel d a b) s

/-- VAND (R156). -/
def execVand (g : Guard) (d a b : Reg) (s : State) : Host.Outcome State Fault Refusal :=
  runBody (vintBody (fun x y => x &&& y) g d a b) s

/-- VOR (R156). -/
def execVor (g : Guard) (d a b : Reg) (s : State) : Host.Outcome State Fault Refusal :=
  runBody (vintBody (fun x y => x ||| y) g d a b) s

/-- VXOR (R156). -/
def execVxor (g : Guard) (d a b : Reg) (s : State) : Host.Outcome State Fault Refusal :=
  runBody (vintBody (fun x y => x ^^^ y) g d a b) s

/-- VSHL (R156). -/
def execVshl (g : Guard) (d a b : Reg) (s : State) : Host.Outcome State Fault Refusal :=
  runBody (vintBody (fun x y => x <<< (y.toNat % 32)) g d a b) s

/-- VSHR (R156). -/
def execVshr (g : Guard) (d a b : Reg) (s : State) : Host.Outcome State Fault Refusal :=
  runBody (vintBody (fun x y => x >>> (y.toNat % 32)) g d a b) s

/-- VIADD (R156). -/
def execViadd (g : Guard) (d a b : Reg) (s : State) : Host.Outcome State Fault Refusal :=
  runBody (vintBody (fun x y => x + y) g d a b) s

/-- VIMUL (R156). -/
def execVimul (g : Guard) (d a b : Reg) (s : State) : Host.Outcome State Fault Refusal :=
  runBody (vintBody (fun x y => x * y) g d a b) s

/-- VPERM (R157). -/
def execVperm (g : Guard) (d a b : Reg) (s : State) : Host.Outcome State Fault Refusal :=
  runBody (vpermBody g d a b) s

/-- VBCAST (R157). -/
def execVbcast (g : Guard) (d a : Reg) (s : State) : Host.Outcome State Fault Refusal :=
  runBody (vbcastBody g d a) s

/-- VEXTR (R157). -/
def execVextr (g : Guard) (d a b : Reg) (s : State) : Host.Outcome State Fault Refusal :=
  runBody (vextrBody g d a b) s

/-- VINS (R157). -/
def execVins (g : Guard) (d a b : Reg) (s : State) : Host.Outcome State Fault Refusal :=
  runBody (vinsBody g d a b) s

/-- VRED.fadd on FP32 (R158). -/
def execVredFadd (g : Guard) (d a : Reg) (s : State) : Host.Outcome State Fault Refusal :=
  runBody (vredFloat .fadd g 1 d a 19) s

/-- VRED.fadd on a named format (R158). -/
def execVredFaddExtended (g : Guard) (d a : Reg) (fa : BitVec 5) (s : State) : Host.Outcome State Fault Refusal :=
  runBody (vredFloat .fadd g 3 d a fa) s

/-- VRED.fmin on FP32 (R158). -/
def execVredFmin (g : Guard) (d a : Reg) (s : State) : Host.Outcome State Fault Refusal :=
  runBody (vredFloat .fmin g 1 d a 19) s

/-- VRED.fmin on a named format (R158). -/
def execVredFminExtended (g : Guard) (d a : Reg) (fa : BitVec 5) (s : State) : Host.Outcome State Fault Refusal :=
  runBody (vredFloat .fmin g 3 d a fa) s

/-- VRED.fmax on FP32 (R158). -/
def execVredFmax (g : Guard) (d a : Reg) (s : State) : Host.Outcome State Fault Refusal :=
  runBody (vredFloat .fmax g 1 d a 19) s

/-- VRED.fmax on a named format (R158). -/
def execVredFmaxExtended (g : Guard) (d a : Reg) (fa : BitVec 5) (s : State) : Host.Outcome State Fault Refusal :=
  runBody (vredFloat .fmax g 3 d a fa) s

/-- VRED.iadd (R158). -/
def execVredIadd (g : Guard) (d a : Reg) (s : State) : Host.Outcome State Fault Refusal :=
  runBody (vredInt (fun x y => x + y) g d a) s

/-- VRED.imin (R158). -/
def execVredImin (g : Guard) (d a : Reg) (s : State) : Host.Outcome State Fault Refusal :=
  runBody (vredInt (fun x y => if y.slt x then y else x) g d a) s

/-- VRED.imax (R158). -/
def execVredImax (g : Guard) (d a : Reg) (s : State) : Host.Outcome State Fault Refusal :=
  runBody (vredInt (fun x y => if x.slt y then y else x) g d a) s

/-- VDOT.s8 (R159). -/
def execVdotS8 (g : Guard) (d a b : Reg) (s : State) : Host.Outcome State Fault Refusal :=
  runBody (vdotInt false g d a b) s

/-- VDOT.u8s8 (R159). -/
def execVdotU8s8 (g : Guard) (d a b : Reg) (s : State) : Host.Outcome State Fault Refusal :=
  runBody (vdotInt true g d a b) s

/-- VDOT.f16 (R159). -/
def execVdotF16 (g : Guard) (d a b : Reg) (s : State) : Host.Outcome State Fault Refusal :=
  runBody (vdotFloat 18 g d a b) s

/-- VDOT.bf16 (R159). -/
def execVdotBf16 (g : Guard) (d a b : Reg) (s : State) : Host.Outcome State Fault Refusal :=
  runBody (vdotFloat 17 g d a b) s

/-- VLD in lmem (R160). -/
def execVld (g : Guard) (d a b : Reg) (s : State) : Host.Outcome State Fault Refusal :=
  runBody (vmemBody false g 1 d a b 1 0 0) s

/-- VLD with a space, a qualifier and a displacement (R160). -/
def execVldExtended (g : Guard) (d a b : Reg) (sp : BitVec 3) (q : BitVec 4) (disp : Option (BitVec 64)) (s : State) : Host.Outcome State Fault Refusal :=
  runBody (vmemBody false g (if disp.isSome then 5 else 3) d a b sp q (disp.getD 0)) s

/-- VST in lmem (R160). -/
def execVst (g : Guard) (d a b : Reg) (s : State) : Host.Outcome State Fault Refusal :=
  runBody (vmemBody true g 1 d a b 1 0 0) s

/-- VST with a space, a qualifier and a displacement (R160). -/
def execVstExtended (g : Guard) (d a b : Reg) (sp : BitVec 3) (q : BitVec 4) (disp : Option (BitVec 64)) (s : State) : Host.Outcome State Fault Refusal :=
  runBody (vmemBody true g (if disp.isSome then 5 else 3) d a b sp q (disp.getD 0)) s

/-- VGATH in lmem (R160). -/
def execVgath (g : Guard) (d a b : Reg) (s : State) : Host.Outcome State Fault Refusal :=
  runBody (vindexBody false g 1 d a b 1 0) s

/-- VGATH with a space and a qualifier (R160). -/
def execVgathExtended (g : Guard) (d a b : Reg) (sp : BitVec 3) (q : BitVec 4) (s : State) : Host.Outcome State Fault Refusal :=
  runBody (vindexBody false g 3 d a b sp q) s

/-- VSCAT in lmem (R160). -/
def execVscat (g : Guard) (d a b : Reg) (s : State) : Host.Outcome State Fault Refusal :=
  runBody (vindexBody true g 1 d a b 1 0) s

/-- VSCAT with a space and a qualifier (R160). -/
def execVscatExtended (g : Guard) (d a b : Reg) (sp : BitVec 3) (q : BitVec 4) (s : State) : Host.Outcome State Fault Refusal :=
  runBody (vindexBody true g 3 d a b sp q) s

/-- VALLOC (R163). -/
def execValloc (g : Guard) (d a : Reg) (s : State) : Host.Outcome State Fault Refusal :=
  runBody (vallocBody g d a) s

/-- VFREE (R163). -/
def execVfree (g : Guard) (a : Reg) (s : State) : Host.Outcome State Fault Refusal :=
  runBody (vfreeBody g a) s

end Sys2Proof.Machine
end

