-- ==== Sys2Proof/Machine/Schedule.lean ====
section
/-! DEFINITION. From launch to issue slot (R291 to R303): the hinge and its sources, the placement of crews and their images, the
end of a launch, the saving of contexts, partition-wide pre-emption and the watchdogs (R310 to R319). -/
namespace Sys2Proof.Machine

/-- Insert by rising key, behind equals. -/
def insertBy {α : Type} (k : α → Nat) (x : α) : List α → List α
  | [] => [x]
  | y :: r => if k x < k y then x :: y :: r else y :: insertBy k x r

/-- Sort by rising key. -/
def sortBy {α : Type} (k : α → Nat) (l : List α) : List α := l.foldl (fun r x => insertBy k x r) []

/-! ### Windows -/

/-- A crew's window that covers a slot: partition, launch, crew, slot base and tile base. -/
structure Window where
  part : Nat
  id : Nat
  launch : Launch
  crew : Nat
  slotBase : Nat
  tileBase : Nat
  deriving DecidableEq, Repr

/-- The windows on a cell. -/
def State.windowsOn (s : State) (cell : Nat) : List Window :=
  match (s.cluster (cell / 8)).owner with
  | none => []
  | some (p, _) =>
    match s.part? p with
    | none => []
    | some x => x.launches.filterMap fun l => (l.2.windowOn cell).map fun w => ⟨p, l.1, l.2, w.1, w.2.1, w.2.2⟩

/-- A physical slot lies in a window. -/
def Window.covers (w : Window) (slot : Nat) : Bool := decide (w.slotBase ≤ slot) && decide (slot < w.slotBase + w.launch.nSlots)

/-- The window that covers a slot. -/
def State.windowAt (s : State) (n : Nat) : Option Window := (s.windowsOn (cellOf n)).find? fun w => w.covers (slotOf n)

/-- The first tile of a slot's grant (R291). -/
def Window.firstTile (w : Window) (slot : Nat) : Nat := w.tileBase + (slot - w.slotBase) * w.launch.tiles

/-- BIND of a slot of a window. -/
def Window.bind (w : Window) (slot : Nat) : Nat := w.launch.bindOf (slot - w.slotBase)

/-- The vector registers that the strands of a cell hold, in some of its slots. -/
def State.poolOf (s : State) (cell : Nat) (slots : List Nat) : Nat :=
  slots.foldl (fun m j => m + ((s.strand? (cell * 16 + j)).map Strand.allot).getD 0) 0

/-- A partition-wide pre-emption keeps a slot from being filled (R316). -/
def State.blocked (s : State) (p n : Nat) : Bool :=
  match s.part? p with
  | some x => x.preempting.any fun e => e.slots.contains n
  | none => false

/-! ### Candidates (Table 15-2) -/

/-- What the hinge may bind to a slot. -/
inductive Work where
  | context (x : Ctx)
  | packet (st : Strand)
  | ring (r : CodeletRef)
  | spawned (id : Nat) (bs : List (BitVec 8))
  | codelet (r : CodeletRef)
  deriving DecidableEq, Repr

/-- A candidate: its source, the number that names it, and the allotment it needs. -/
structure Cand where
  source : Nat
  key : Nat
  allot : Nat
  work : Work
  deriving DecidableEq, Repr

/-- The saved contexts of a launch that a cluster can restore: those of its cache and those of the partition's area. -/
def State.savedFor (s : State) (k p l : Nat) : List Ctx :=
  ((s.cluster k).ctxs.map Prod.snd ++ ((s.part? p).map fun x => x.area.map Prod.snd).getD []).filter fun x =>
    x.strand.part == p && x.strand.launch == l

/-- A context as a candidate. -/
def ctxCand (source : Nat) (x : Ctx) : Cand := ⟨source, x.order, x.strand.allot, .context x⟩

/-- A run-queue entry as a candidate on a cell. -/
def runCand (saved : List Ctx) (cell allot : Nat) (e : RunEntry) : Option Cand :=
  if !e.runnable then none
  else match e.ctx, e.codelet with
    | some o, _ => (saved.find? fun x => x.order == o).map (ctxCand 6)
    | none, some r => if r.cell = cell then some ⟨6, r.id, allot, .codelet r⟩ else none
    | none, none => none

/-- A lower-numbered cell of the cluster has a slot that can take a migrant of the window's launch. -/
def State.lowerTakes (s : State) (w : Window) (cell : Nat) : Bool :=
  (List.range (cell % 8)).any fun i =>
    let c := cell / 8 * 8 + i
    (s.windowsOn c).any fun v => v.part == w.part && v.id == w.id
      && decide (s.poolUsed c + w.launch.allot ≤ 256)
      && (List.range 16).any fun j => v.covers j && (s.strand? (c * 16 + j)).isNone && !s.blocked w.part (c * 16 + j)

/-- The candidates for a cell's slots in a window, highest source first, each source in its own order. DEDUCED: log 30. -/
def State.candidates (s : State) (w : Window) (cell : Nat) : List Cand :=
  let k := cell / 8
  let c := s.cell cell
  let saved := s.savedFor k w.part w.id
  let here := saved.filter fun x => x.pcn == s.pcn cell
  let s1 := (sortBy (fun x => x.arrival.getD 0) (here.filter fun x => x.source == 1 && x.arrival.isSome)).map (ctxCand 1)
  let s2 := (sortBy Ctx.order (here.filter fun x => x.source == 2)).map (ctxCand 2)
  let s3 := if s.lowerTakes w cell then []
    else ((s.cluster k).migrants.filter fun m => m.1 && m.2.part == w.part && m.2.launch == w.id).map fun m =>
      (⟨3, m.2.uid, w.launch.allot, .packet m.2⟩ : Cand)
  let s4 := (c.ring.filter fun r => r.launch == w.id).map fun r => (⟨4, r.id, w.launch.allot, .ring r⟩ : Cand)
  let s5 := (c.runq.filter fun r => recLaunch r.2 == w.id).map fun r => (⟨5, r.1, w.launch.allot, .spawned r.1 r.2⟩ : Cand)
  let s6 := (((NMap.get? w.launch.crews w.crew).map Crew.runq).getD []).filterMap (runCand saved cell w.launch.allot)
  s1 ++ s2 ++ s3 ++ s4 ++ s5 ++ s6

/-- A context may resume in a slot of a window (R315). -/
def Window.takesCtx (w : Window) (slot : Nat) (x : Ctx) : Bool :=
  (x.strand.tcount == 0 && x.strand.paused.isEmpty)
    || (x.slot == slot && x.strand.tfirst == w.firstTile slot && x.strand.tcount == w.launch.tiles)

/-- The contexts that a T1 watchdog saved resume only after the other queues have dispatched (R318). -/
def State.heldBack (s : State) (w : Window) (x : Ctx) : Bool :=
  x.reason == 2 && match s.part? w.part with
    | some p => p.heldBack.any fun h => h.1 == w.launch.queue && h.2.any s.eligible
    | none => false

/-- The migrant packets that a partition-wide pre-emption still has to deliver (R316). -/
def State.owedPackets (s : State) (p : Nat) : List Nat := ((s.part? p).map fun x => x.preempting.flatMap Preempting.packets).getD []

/-- A candidate qualifies for a slot (R295). -/
def State.qualifies (s : State) (w : Window) (n : Nat) (c : Cand) : Bool :=
  decide (s.poolUsed (cellOf n) + c.allot ≤ 256)
    && (match c.work with
      | .context x => w.takesCtx (slotOf n) x && !s.heldBack w x
      | _ => true)
    && (!s.blocked w.part n || (match c.work with
      | .packet st => (s.owedPackets w.part).contains st.uid
      | _ => false))

/-! ### Taking a candidate -/

/-- Take a candidate away from its source. -/
def State.takeCand (s : State) (w : Window) (cell : Nat) (c : Cand) : State :=
  let k := cell / 8
  let x := s.cell cell
  match c.work with
  | .context y =>
    let kl := s.cluster k
    let s1 := s.setCluster k { kl with ctxs := kl.ctxs.filter fun e => e.2.order != y.order }
    (s1.modPart w.part fun p => { p with area := p.area.filter fun e => e.2.order != y.order }).unqueue y
  | .packet st =>
    let kl := s.cluster k
    s.setCluster k { kl with migrants := dropFirst (fun m => m.2.uid == st.uid) kl.migrants }
  | .ring r => s.setCell cell { x with ring := dropFirst (fun y => y.id == r.id) x.ring }
  | .spawned id _ => s.setCell cell { x with runq := dropFirst (fun y => y.1 == id) x.runq }
  | .codelet r => s.modCrew w.part w.id w.crew fun y =>
      { y with runq := dropFirst (fun e => e.codelet.map CodeletRef.id == some r.id) y.runq }.refill

/-- What the slot gives a strand that starts in it (R30). -/
def Window.dress (w : Window) (slot uid : Nat) (st : Strand) : Strand :=
  { st with part := w.part, launch := w.id, allot := w.launch.allot, tfirst := w.firstTile slot, tcount := w.launch.tiles,
            carveBase := w.launch.fld 10 2, carveSize := w.launch.fld 12 2, msgb := w.bind slot != 0, uid := uid }

/-- FLAGS.PRIV. -/
def Launch.priv (l : Launch) : Bool := l.fld 9 1 / 2 % 2 == 1

/-- Start a record in a slot (R30, R298). -/
def State.startRecord (s : State) (w : Window) (n : Nat) (codelet : Bool) (bs : List (BitVec 8)) : State :=
  let st := Strand.ofRecord codelet bs
  let st1 := { w.dress (slotOf n) s.serial st with priv := w.launch.priv, crew := if codelet then w.crew else st.crew }
  { s.seat n st1 with serial := s.serial + 1 }

/-- Requeue a paused command at the head of a hart of the cluster, for the strand's new slot (R312). -/
def State.requeue (s : State) (n : Nat) (t : Nat) (c : Command) : State :=
  let (h, s1) := s.choose 2
  let hn := clusterOf n * 2 + h
  let x := s1.hart hn
  let cell := s1.cell (cellOf n)
  let c1 := { c with id := s1.serial, cell := cellOf n, slot := slotOf n }
  let s2 := (s1.setHart hn { x with queue := c1 :: x.queue }).setCell (cellOf n)
    { cell.setReady t false with tagSlot := NMap.set cell.tagSlot t (slotOf n) }
  { s2 with serial := s1.serial + 1 }

/-- Restore a context in a slot (R315). -/
def State.restore (s : State) (w : Window) (n : Nat) (x : Ctx) : State :=
  let cell := cellOf n
  let c := s.cell cell
  let st := { x.strand with
    carveBase := w.launch.fld 10 2, carveSize := w.launch.fld 12 2, msgb := w.bind (slotOf n) != 0, paused := []
    wait := if x.waitCode = 1 then some ⟨.bar x.phase, s.clock⟩ else none }
  let grant := x.strand.grant
  let s1 := s.setCell cell { c with tileCfg := (List.zip grant x.tileCfg).foldl (fun m t => NMap.set m t.1 t.2) c.tileCfg }
  let s2 := (List.zip grant x.tiles).foldl (fun t y => t.setBytes (tileBase cell y.1) y.2) s1
  x.strand.paused.reverse.foldl (fun t p => t.requeue n p.1 p.2) (s2.seat n st)

/-- A packet that a partition-wide pre-emption has delivered is pre-empted at once (R316). -/
def State.preemptArrival (s : State) (p n uid : Nat) : State :=
  match s.part? p with
  | none => s
  | some x =>
    match x.preempting.find? fun e => e.packets.contains uid with
    | none => s
    | some e =>
      let took (f : Preempting) : Preempting :=
        if f.packets.contains uid then { f with packets := f.packets.filter (· != uid), slots := n :: f.slots } else f
      (s.modPart p fun y => { y with preempting := y.preempting.map took }).requestPreempt n e.reason

/-- Bind a candidate to a slot. -/
def State.bindCand (s : State) (w : Window) (n : Nat) (c : Cand) : State :=
  let s1 := s.takeCand w (cellOf n) c
  match c.work with
  | .context x => s1.restore w n x
  | .packet st => (s1.seat n (w.dress (slotOf n) st.uid st)).preemptArrival w.part n st.uid
  | .ring r => s1.startRecord w n true (s1.codeletRecord r.cell r.off)
  | .spawned _ bs => s1.startRecord w n false bs
  | .codelet r => s1.startRecord w n true (s1.codeletRecord r.cell r.off)

/-! ### Filling a slot (R295, R296) -/

/-- The candidate that a fill takes, of those that qualify: the first one passed over 16 times, else the first of all. -/
def chooseCand (passed : NMap Nat) (cs : List Cand) : Option Cand :=
  match cs.find? fun c => decide (16 ≤ NMap.getD passed c.key 0) with
  | some c => some c
  | none => cs.head?

/-- Count the passing over of each other candidate that qualified: all of another source, and those before the chosen one in its
own. -/
def countPassed (passed : NMap Nat) (cs : List Cand) (c : Cand) : NMap Nat :=
  let before := cs.takeWhile fun d => d.key != c.key
  let skipped := (cs.filter fun d => d.source != c.source) ++ before.filter fun d => d.source == c.source
  skipped.foldl (fun m d => NMap.set m d.key (NMap.getD m d.key 0 + 1)) (NMap.erase passed c.key)

/-- A codelet on a cell whose launch holds no window there (R298). -/
def State.stray (s : State) (cell : Nat) (r : CodeletRef) : Bool := r.cell == cell && !(s.windowsOn cell).any fun w => w.id == r.launch

/-- The stray codelets in the crews' memory run queues, and the crews without them. -/
def State.queuedStrays (s : State) (cell : Nat) (x : Partition) : List CodeletRef :=
  x.launches.flatMap fun l => l.2.crews.flatMap fun c => (c.2.runq.filterMap RunEntry.codelet).filter (s.stray cell)

/-- A crew without the stray codelets in its memory run queue. -/
def State.sweep (s : State) (cell : Nat) (c : Crew) : Crew :=
  { c with runq := c.runq.filter fun e => !(e.codelet.map (s.stray cell)).getD false }.refill

/-- Drop the codelets of a cell whose launch holds no window there, from its ring and from the memory run queues (R298). -/
def State.dropOrphans (s : State) (cell : Nat) : State :=
  let c := s.cell cell
  match (s.cluster (cell / 8)).owner with
  | none => s
  | some (p, _) =>
    let gone := c.ring.filter (s.stray cell) ++ ((s.part? p).map (s.queuedStrays cell)).getD []
    let s1 := (s.setCell cell { c with ring := c.ring.filter fun r => !s.stray cell r }).modPart p fun x => { x with
      launches := x.launches.map fun l => (l.1, { l.2 with crews := l.2.crews.map fun k => (k.1, s.sweep cell k.2) }) }
    gone.foldl (fun t r =>
      let b := s.codeletRecord r.cell r.off
      (t.crewShrink p r.launch r.crew).postError p (errRecord 0 r.launch r.crew (field b 116 1) (field b 115 1 % 4) 0x0F07 0 1 (s.pcn cell))) s1

/-- HINGE_FILL: fill a free slot of a started crew's window. DEDUCED: log 30. -/
def State.hingeFill (s : State) (n : Nat) : State :=
  let s0 := s.dropOrphans (cellOf n)
  if (s0.strand? n).isSome then s
  else match s0.windowAt n with
    | none => s0
    | some w =>
      if !((NMap.get? w.launch.crews w.crew).map Crew.started).getD false then s0
      else
        let s1 := s0.endPreempts w.part
        let cs := (s1.candidates w (cellOf n)).filter (s1.qualifies w n)
        let c := s1.cell (cellOf n)
        match chooseCand c.passed cs with
        | none => s1
        | some d => (s1.setCell (cellOf n) { c with passed := countPassed c.passed cs d }).bindCand w n d

/-- MIGRANT_ARRIVAL (R208): a packet on its way arrives behind those that have. -/
def State.migrantArrive (s : State) (k : Nat) : State :=
  let c := s.cluster k
  let away := c.migrants.filter fun m => !m.1
  let (i, s1) := s.choose away.length
  match away[i]? with
  | none => s
  | some m => s1.setCluster k { c with migrants := (c.migrants.filter fun x => x.1) ++ [(true, m.2)] ++ away.eraseIdx i }

/-! ### Predecessors (R301) -/

/-- FLAGS.EARLY. -/
def Launch.early (l : Launch) : Bool := l.fld 9 1 / 4 % 2 == 1

/-- Every strand of a launch that is on a cluster has hinted, and none of its records waits there. -/
def State.hintedOn (s : State) (p k id : Nat) (l : Launch) : Bool :=
  let mine (st : Strand) : Bool := st.part == p && st.launch == id
  l.crews.all (fun c => c.2.cluster.isSome && (c.2.cluster != some k || (c.2.started
      && (c.2.runq ++ c.2.chain).all fun e => e.codelet.isNone && (match e.ctx with
        | some o => (s.contexts.filter fun x => x.order == o).all fun x => x.strand.hinted
        | none => true))))
    && s.slots.all (fun n => clusterOf n.1 != k || !mine n.2 || n.2.hinted)
    && (s.cluster k).ctxs.all (fun x => !mine x.2.strand || x.2.strand.hinted)
    && (((s.part? p).map Partition.area).getD []).all (fun x =>
      !mine x.2.strand || x.2.source == 6 || (s.cellAt p x.2.pcn).map (· / 8) != some k || x.2.strand.hinted)
    && (s.cluster k).migrants.all (fun m => !m.1 || !mine m.2 || m.2.hinted)
    && (List.range 8).all fun c => !(s.cell (k * 8 + c)).holdsRecord id

/-- The predecessors of a launch let it be placed on a cluster. -/
def State.predsAllow (s : State) (p k : Nat) (l : Launch) : Bool :=
  l.preds.all fun e =>
    if l.early then
      match s.pred? p e with
      | some x => s.hintedOn p k x.1 x.2
      | none => !s.predLive p e
    else !s.predLive p e

/-! ### Placement (R291) -/

/-- A slot window is free: no window meets it and no pre-emption blocks it. -/
def State.slotsFree (s : State) (p cell sb n : Nat) : Bool :=
  (List.range n).all fun j => !(s.windowsOn cell).any (fun w => w.covers (sb + j)) && !s.blocked p (cell * 16 + sb + j)

/-- A tile window is free. -/
def State.tilesFree (s : State) (cell tb n : Nat) : Bool :=
  decide (tb + n ≤ 16) && (s.windowsOn cell).all fun w =>
    let m := w.launch.nSlots * w.launch.tiles
    n == 0 || m == 0 || decide (tb + n ≤ w.tileBase) || decide (w.tileBase + m ≤ tb)

/-- The vector registers that the windows of a cell keep: what each was placed with, or what its strands now hold. -/
def State.poolKept (s : State) (cell : Nat) : Nat :=
  (s.windowsOn cell).foldl (fun m w =>
    m + max (w.launch.nSlots * w.launch.allot) (s.poolOf cell ((List.range 16).filter w.covers))) 0

/-- QOWN of a receive queue: the owner launch slot of a bound one. -/
def Launch.qown (l : Launch) (q : Nat) : Option Nat := if 128 ≤ l.fld (20 + q) 1 then some (l.fld (20 + q) 1 % 16) else none

/-- No other launch binds a receive queue that this one binds. -/
def State.portsFree (s : State) (cell : Nat) (l : Launch) : Bool :=
  (List.range 4).all fun q => (l.qown q).isNone || ((s.cell cell).port q).owner.isNone

/-- No launch on the cell declares another table for an algebra slot (R23). -/
def State.algsAgree (s : State) (p cell kslot : Nat) : Bool :=
  let mine := ((s.container p kslot).map kliAlgs).getD []
  (s.windowsOn cell).all fun w =>
    let theirs := ((s.container p w.launch.kslot).map kliAlgs).getD []
    mine.all fun a => theirs.all fun b => a.1 != b.1 || a.2 == b.2

/-- TBASE: the tile bases a launch may take. -/
def Launch.tileBases (l : Launch) : List Nat := if 128 ≤ l.fld 14 1 then List.range 16 else [l.fld 14 1 % 16]

/-- The windows a crew of a launch could take on a cell: slot bases and tile bases. DEDUCED: log 29. -/
def State.fits (s : State) (p cell : Nat) (l : Launch) : List Nat × List Nat :=
  if s.portsFree cell l && s.algsAgree p cell l.kslot && decide (s.poolKept cell + l.nSlots * l.allot ≤ 256) then
    ((List.range (17 - l.nSlots)).filter fun sb => s.slotsFree p cell sb l.nSlots,
     l.tileBases.filter fun tb => s.tilesFree cell tb (l.nSlots * l.tiles))
  else ([], [])

/-- The cells of a cluster on which a crew's windows are free. -/
def State.cellsFor (s : State) (p k : Nat) (l : Launch) : List Nat :=
  ((List.range 8).map (k * 8 + ·)).filter fun c => !(s.fits p c l).1.isEmpty && !(s.fits p c l).2.isEmpty

/-- The clusters on which a crew of a launch can be placed now. -/
def State.clustersFor (s : State) (p : Nat) (l : Launch) : List Nat :=
  (((s.part? p).map Partition.clusters).getD []).filter fun k =>
    !(l.crews.any fun c => c.2.cluster == some k) && decide (l.nCells ≤ (s.cellsFor p k l).length) && s.predsAllow p k l

/-- Choose n elements of a list, in its order. -/
def chooseSome (s : State) (l : List Nat) : Nat → List Nat × State
  | 0 => ([], s)
  | n + 1 =>
    let (i, s1) := s.choose l.length
    match l[i]? with
    | none => ([], s1)
    | some x =>
      let (r, s2) := chooseSome s1 (l.eraseIdx i) n
      (x :: r, s2)

/-- Choose the windows of a crew on some cells: cell, slot base, tile base. -/
def chooseWindows (p : Nat) (l : Launch) (s : State) : List Nat → List (Nat × Nat × Nat) × State
  | [] => ([], s)
  | c :: rest =>
    let f := s.fits p c l
    let (i, s1) := s.choose f.1.length
    let (j, s2) := s1.choose f.2.length
    let (r, s3) := chooseWindows p l s2 rest
    ((c, f.1.getD i 0, f.2.getD j 0) :: r, s3)

/-- g2 to g6 of a launch's strands: ARG, or for a task-graph node the words at PARAMOFF in the bound bank (R292, R300). -/
def State.argWords (s : State) (l : Launch) : List (BitVec 64) :=
  match l.node with
  | some (graph, _, bank) =>
    let base := field (s.bytes (graph + 8 + 8 * bank) 8) 0 8 + l.fld 140 4
    (List.range 5).map fun i => BitVec.ofNat 64 (field (s.bytes (base + 8 * i) 8) 0 8)
  | none => (List.range 5).map fun i => BitVec.ofNat 64 (l.fld (32 + 8 * i) 8)

/-- The strand that starts in launch slot j of crew cell i (R292). -/
def startStrand (w : Window) (args : List (BitVec 64)) (i j uid : Nat) : Strand :=
  let l := w.launch
  let stage := l.stageOf j
  let nmax : BitVec 2 := BitVec.ofNat 2 (l.fld 5 1)
  w.dress (w.slotBase + j) uid { Strand.zero with
    pc := BitVec.ofNat 64 (l.fld (80 + 8 * stage) 8)
    fixed := (List.range 5).foldl (fun m a => NMap.set m (a + 2) (args.getD a 0)) [(1, BitVec.ofNat 64 (l.fld 24 8))]
    eps := BitVec.ofNat 16 (l.fld 6 2), cdrop := BitVec.ofNat 8 (l.fld 8 1), nmax := nmax, ncap := nmax
    ftz := l.fld 9 1 % 2 == 1, priv := l.priv, crew := w.crew, index := i * l.nSlots + j, stage := stage }

/-- Every strand of a crew starts at once (R292). -/
def State.startCrew (s : State) (p id k : Nat) : State :=
  match s.launch? p id with
  | none => s
  | some l =>
    match NMap.get? l.crews k with
    | none => s
    | some c =>
      let args := s.argWords l
      let spots := (List.zip (List.range c.cells.length) c.cells).flatMap fun ic => (List.range l.nSlots).map fun j => (ic.1, ic.2, j)
      let s1 := spots.foldl (fun t x =>
        let (i, (cell, sb, tb), j) := x
        { t.seat (cell * 16 + sb + j) (startStrand ⟨p, id, l, k, sb, tb⟩ args i j t.serial) with serial := t.serial + 1 }) s
      s1.modCrew p id k fun y => { y with m := spots.length }

/-- Write the images of launch cells into the cells they are placed on. -/
def State.loadCells (s : State) (b : List (BitVec 8)) (l : Launch) (c : Crew) (k : Nat) (lcs : List Nat) : State :=
  lcs.foldl (fun t lc =>
    match kliImageOf b lc, c.cells[lc - k * l.nCells]? with
    | some img, some w => t.loadCell b img w.1
    | _, _ => t) s

/-- What placement makes of a chosen cell: the receive queues' owner, the tags' owners (R50) and the algebra tables (R23), of two for one
slot the later. DESIGN CHOICE: log 66. -/
def prepareCell (l : Launch) (p id sb : Nat) (algs : List (Nat × AlgTable)) (c : Cell) : Cell :=
  let ports := (List.range 4).foldl (fun m q => match l.qown q with
    | some o => NMap.set m q { NMap.getD m q ⟨[], [], none⟩ with owner := some (p, id, sb + o) }
    | none => m) c.ports
  let owners := (List.range l.nSlots).foldl (fun m j => (List.range 4).foldl (fun m2 t =>
    NMap.set m2 (4 * (sb + j) + t) (BitVec.ofNat 16 (2 ^ (sb + j)))) m) c.tagOwner
  { c with ports := ports, tagOwner := owners, algs := algs.foldl (fun m a => NMap.set m a.1 a.2) c.algs }

/-- Place a crew on a cluster with chosen windows: the images of the boot tree's roots are written from device memory, the others
are forwarded, and with no other left the strands start (R291, R292, R361). Of several CMEM sections the last in launch-cell order stays.
DESIGN CHOICE: log 66. -/
def State.placeCrew (s : State) (p id k cluster : Nat) (l : Launch) (ws : List (Nat × Nat × Nat)) : State :=
  let b := (s.container p l.kslot).getD []
  let parents := kliParents b
  let lcs := (List.range l.nCells).map (k * l.nCells + ·)
  let isRoot (lc : Nat) : Bool :=
    let q := parents.getD lc 0xFFFF
    q == 0xFFFF || q / l.nCells != k
  let boot := lcs.filter fun lc => !isRoot lc
  let c : Crew := { Crew.fresh with cluster := some cluster, cells := ws, bound := (s.argWords l).headD 0, boot := boot }
  let s1 := s.modLaunch p id fun y => { y with crews := NMap.set y.crews k c }
  let s2 := ws.foldl (fun t w => t.setCell w.1 (prepareCell l p id w.2.1 (kliAlgs b) (t.cell w.1))) s1
  let s3 := lcs.foldl (fun t lc => match kliImageOf b lc with
    | some img => t.loadSpace b img (cluster * 8) 7 5
    | none => t) s2
  let s4 := s3.loadCells b l c k (lcs.filter isRoot)
  if boot.isEmpty then s4.startCrew p id k else s4

/-- The lowest crew of a launch that is not placed. -/
def Launch.nextCrew (l : Launch) : Option Nat := (l.crews.find? fun c => c.2.cluster.isNone).map Prod.fst

/-- A launch waits for a crew to be placed and some cluster could take it. -/
def State.placeable (s : State) (p : Nat) (l : Launch) : Bool := l.nextCrew.isSome && !(s.clustersFor p l).isEmpty

/-- The placer has found whether it can place the next crew of a launch now: one with no room is held, and its queue is then not eligible
(R287, R288). -/
def State.setHeld (s : State) (p id : Nat) (l : Launch) (held : Bool) : State :=
  let s1 := s.modLaunch p id fun y => { y with held := held }
  if held then s1.endVisit l.queue else s1

/-- CREW_PLACEMENT: held crews are placed in dispatch order (R288, R291). DEDUCED: log 29. -/
def State.crewPlacement (s : State) (p id : Nat) : State :=
  match s.part? p with
  | none => s
  | some x =>
    match NMap.get? x.launches id with
    | none => s
    | some l =>
      let ks := s.clustersFor p l
      match l.nextCrew with
      | none => s
      | some k =>
        if ks.isEmpty then s.setHeld p id l true
        else if x.launches.any fun y => decide (y.2.order < l.order) && s.placeable p y.2 then s
        else
          let (i, s1) := (s.setHeld p id l false).choose ks.length
          let cluster := ks.getD i 0
          let (cs, s2) := chooseSome s1 (s1.cellsFor p cluster l) l.nCells
          let (ws, s3) := chooseWindows p l s2 (sortBy id' cs)
          s3.placeCrew p id k cluster l ws
where
  /-- A number as its own key. -/
  id' (x : Nat) : Nat := x

/-- A pre-emption keeps a slot of a crew's windows from being filled (R316, R348). -/
def State.crewBlocked (s : State) (p : Nat) (l : Launch) (c : Crew) : Bool :=
  c.cells.any fun w => (List.range l.nSlots).any fun j => s.blocked p (w.1 * 16 + w.2.1 + j)

/-- BOOT_FORWARD (R361): a launch cell whose image is complete forwards it to its children. -/
def State.bootForward (s : State) (p id lc : Nat) : State :=
  match s.launch? p id with
  | none => s
  | some l =>
    let k := lc / l.nCells
    match NMap.get? l.crews k with
    | none => s
    | some c =>
      let b := (s.container p l.kslot).getD []
      let parents := kliParents b
      let kids := c.boot.filter fun x => parents.getD x 0xFFFF == lc
      if c.cluster.isNone || c.boot.contains lc || kids.isEmpty || s.crewBlocked p l c then s
      else
        let rest := c.boot.filter fun x => !kids.contains x
        let s1 := (s.loadCells b l c k kids).modCrew p id k fun y => { y with boot := rest }
        if rest.isEmpty then s1.startCrew p id k else s1

/-! ### The end of a launch (R293) -/

/-- Release the receive queues of a launch. -/
def State.freePorts (s : State) (p id : Nat) : State :=
  { s with cells := s.cells.map fun c => (c.1, { c.2 with ports := c.2.ports.map fun q =>
      (q.1, match q.2.owner with
        | some (a, b, _) => if a = p && b = id then { q.2 with owner := none } else q.2
        | none => q.2) }) }

/-- Remove a launch, and complete the command it came from: a LAUNCH at once, a REPLAY with its last node. -/
def State.dropLaunch (s : State) (p id status : Nat) : State :=
  match s.part? p with
  | none => s
  | some x =>
    match NMap.get? x.launches id with
    | none => s
    | some l =>
      let s1 := ((s.freePorts p id).forgetStacks p id).modPart p fun y => { y with launches := NMap.erase y.launches id }
      match l.node with
      | none => s1.finish l.queue l.cmd status
      | some (g, _, _) =>
        if x.launches.any fun y => y.1 != id && y.2.node.isSome && y.2.queue == l.queue && y.2.cmd == l.cmd then s1
        else
          (s1.modPart p fun y => { y with graphs := NMap.modify y.graphs g ⟨0, []⟩ fun z =>
            { z with replays := z.replays.filter fun r => !(r.1 == l.queue && r.2.1 == l.cmd) } }).finish l.queue l.cmd status

/-- Some store of a launch's strands or commands is not yet acknowledged by its home (R241). -/
def State.launchOwes (s : State) (p id : Nat) : Bool := s.outbound.any fun o => o.who.ofLaunch p id

/-- LAUNCH_END: the completion is a release at system scope, which waits for every store of the launch (R249, R293). -/
def State.launchEnd (s : State) (p id : Nat) : State :=
  match s.launch? p id with
  | none => s
  | some l => if s.launchBusy p (id, l) || s.launchOwes p id then s else (s.progressed p id).dropLaunch p id 0

/-! ### Saving contexts (R310, R313, R316) -/

/-- CONTEXT_SAVE: a requested strand whose fates are met leaves its slot. DEDUCED: log 50. -/
def State.contextSave (s : State) (n : Nat) : State :=
  match (s.strand? n).bind Strand.preReq with
  | none => s
  | some r =>
    let s1 := s.drainWc n
    match s1.strand? n with
    | some st => if s1.canSave n st then (s1.saveContext n r.reason r.line r.woken).endPreempts st.part else s1
    | none => s1

/-- CONTEXT_CACHE_SPILL. -/
def State.cacheSpill (s : State) (k : Nat) : State := if (freeEntry (s.cluster k).ctxs).isNone then s.spillOldest k else s

/-- Request a partition-wide pre-emption of some slots, with the migrant packets that are in transit to be pre-empted (R316). -/
def State.preemptSlots (s : State) (p reason : Nat) (slots packets : List Nat) (report : Option (Nat × Nat)) : State :=
  let s1 := slots.foldl (fun t n => t.requestPreempt n reason) s
  s1.modPart p fun x => { x with preempting := x.preempting ++ [⟨reason, slots, packets, report⟩] }

/-- An evicted context no longer waits on its line. -/
def RunEntry.release (e : RunEntry) : RunEntry := { e with line := none, runnable := true }
/-- Nor do those of a crew. -/
def Crew.release (c : Crew) : Crew := { c with runq := c.runq.map RunEntry.release, chain := c.chain.map RunEntry.release }
/-- A context that was evicted executes its staged instruction again. -/
def Ctx.release (x : Ctx) : Ctx := if x.waitCode = 2 then { x with waitCode := 0 } else x

/-- Change the saved contexts of some launches. -/
def State.mapContexts (s : State) (p : Nat) (is : Nat → Bool) (f : Ctx → Ctx) : State :=
  let g (x : Ctx) : Ctx := if x.strand.part == p && is x.strand.launch then f x else x
  { s with
    clusters := s.clusters.map fun k => (k.1, { k.2 with ctxs := k.2.ctxs.map fun x => (x.1, g x.2) })
    parts := s.parts.map fun y => (y.1, { y.2 with area := y.2.area.map fun x => (x.1, g x.2) }) }

/-- The evicted strands of some launches that are pre-empted: their run-queue entries' waits are withdrawn (R265, R316). -/
def State.releaseEvicted (s : State) (p : Nat) (is : Nat → Bool) : State :=
  (s.mapContexts p is Ctx.release).modPart p fun x => { x with launches := x.launches.map fun l =>
    (l.1, if is l.1 then { l.2 with crews := l.2.crews.map fun c => (c.1, c.2.release) } else l.2) }

/-- The slots that hold strands of some launches, and the packets of those launches in transit. -/
def State.strandsOf (s : State) (p : Nat) (is : Nat → Bool) : List Nat × List Nat :=
  ((s.slots.filter fun n => n.2.part == p && is n.2.launch).map Prod.fst,
   s.clusters.flatMap fun k => (k.2.migrants.filter fun m => m.2.part == p && is m.2.launch).map fun m => m.2.uid)

/-- The live launches of a queue. -/
def State.launchesOf (s : State) (p q : Nat) : List Nat :=
  ((s.part? p).map fun x => (x.launches.filter fun l => l.2.queue == q).map Prod.fst).getD []

/-- A pre-emption by the watchdog takes over one that is under way for another reason, and an eviction. -/
def Strand.watched (st : Strand) : Strand := { st with preReq := st.preReq.map fun r => { r with reason := 2, line := none } }

/-- A context that the watchdog finds saved is marked as one it saves, which waits for no arrival (R318). -/
def State.watchedCtx (s : State) (x : Ctx) : Ctx :=
  if x.strand.hm || s.vectorOf x.strand == 0 then { x with reason := 2 }
  else { x with reason := 2, waitCode := 5, source := if x.source = 1 then 6 else x.source, strand := { x.strand with notice := true } }

/-- A context that waited for an arrival joins the memory run queue of the crew that holds the window it was saved in. -/
def State.joinQueue (s : State) (x : Ctx) : State :=
  let k := ((s.ctxSlot x).map fun n => s.hostCrew (cellOf n) x.strand).getD x.strand.crew
  s.modCrew x.strand.part x.strand.launch k fun y => y.pushEntry ⟨some x.order, none, none, true⟩

/-- The watchdog marks the saved contexts of some launches, those it takes from the wait for an arrival in the order they were saved. -/
def State.watchContexts (s : State) (p : Nat) (is : Nat → Bool) : State :=
  let waits := s.contexts.filter fun x => x.strand.part == p && is x.strand.launch && x.source == 1 && (s.watchedCtx x).source == 6
  (sortBy Ctx.order waits).foldl State.joinQueue (s.mapContexts p is s.watchedCtx)

/-- WATCHDOG_T1 (R318). DEDUCED: log 28. -/
def State.watchdog1 (s : State) (q : Nat) : State :=
  let x := s.hq q
  if x.t1 = 0 || x.t1Done || decide (s.stalledFor q < x.t1.toNat * cyclesPerUs) then s
  else
    let p := x.part
    let ls := s.launchesOf p q
    let (slots, packets) := s.strandsOf p ls.contains
    let others := (s.queuesOf p).filter fun r => r != q && s.eligible r && decide (s.rank p q ≤ s.rank p r)
    let s1 := (s.setHq q { x with t1Done := true }).preemptSlots p 2 slots packets none
    let s2 : State := { s1 with slots := s1.slots.map fun n => (n.1, if slots.contains n.1 then n.2.watched else n.2) }
    let s3 := (s2.releaseEvicted p ls.contains).watchContexts p ls.contains
    s3.modPart p fun y => { y with heldBack := (y.heldBack.filter fun h => h.1 != q) ++ [(q, others)] }

/-! ### Kills (R319) -/

/-- The members of a group whose COLL was abandoned start afresh together: the number of its next COLL is one for all of them. DEDUCED:
log 55. -/
def State.alignRuns (s : State) (p group : Nat) : State :=
  s.modPart p fun x =>
    let top := x.collRuns.foldl (fun m r => if r.1 / 16384 = group then max m r.2 else m) 0
    { x with collRuns := (List.range (field (NMap.getD x.groups group []) 0 4)).foldl (fun m i => NMap.set m (collKey group i) top) x.collRuns }

/-- A command of a hart is abandoned: what it waits on and what it has sent go, and its tag is READY (R319). -/
def State.abandonCmd (h : Nat) (s : State) (c : Command) : State :=
  let s1 := s.withdrawCmd h c
  let s2 : State := { s1 with sent := s1.sent.filter fun m => m.cmd != c.id }
  let s3 := if c.coll then s2.alignRuns c.part (field c.desc 8 4) else s2
  s3.setCell c.cell ((s3.cell c.cell).setReady c.eng.tag.toNat true)

/-- Remove the engine commands of a launch from a hart. -/
def State.abandonOn (s : State) (p id h : Nat) : State :=
  let x := s.hart h
  let mine (c : Command) : Bool := c.part == p && c.launch == id
  ((x.queue ++ x.running).filter mine).foldl (State.abandonCmd h)
    (s.setHart h ⟨x.queue.filter fun c => !mine c, x.running.filter fun c => !mine c⟩)

/-- Remove the strand of a launch from a slot without HALT's waits: its accesses are dropped, its tags are READY. -/
def State.killSlot (s : State) (n : Nat) : State :=
  let k := clusterOf n
  let cell := cellOf n
  let s0 := s.withdraw n
  let s1 := match s0.strand? n with
    | some st => s0.leaveStack n st
    | none => s0
  let kl := s1.cluster k
  let s2 := match kl.coproc with
    | some x => if x.slot = n then
        { s1.setCluster k { kl with coproc := none } with parked := s1.parked.filter fun y => y.who != Agent.coproc k } else s1
    | none => s1
  let c := s2.cell cell
  let s3 := s2.setCell cell ((c.outstanding (slotOf n)).foldl (fun d t => d.setReady t true) c)
  { s3 with slots := NMap.erase s3.slots n }

/-- The record of a killed crew: the spec gives no trapping instruction, strand, stage or cell for it. -/
def State.killRecord (s : State) (p id k : Nat) : State :=
  let w (i : Nat) : Nat := (Config.freeWord (s.fresh + i)).toNat
  let s1 : State := { s with fresh := s.fresh + 4 }
  s1.postError p
    (errRecord (w 0) id k (w 1 % 256) (w 2 % 4) 0x010E 0 3 (w 3 % 2 ^ 16))

/-- Kill a launch: everything that carries its identifier goes, one record is posted per crew, and it ends with a killed
completion. -/
def State.killLaunch (s : State) (p id : Nat) : State :=
  match s.launch? p id with
  | none => s
  | some l =>
    let mine (st : Strand) : Bool := st.part == p && st.launch == id
    let s1 := ((s.slots.filter fun n => mine n.2).map Prod.fst).foldl State.killSlot s
    let s2 := (s1.harts.map Prod.fst).foldl (fun t h => t.abandonOn p id h) s1
    let s3 : State := { s2 with
      clusters := s2.clusters.map fun k => (k.1, { k.2 with
        ctxs := k.2.ctxs.filter (fun x => !mine x.2.strand), migrants := k.2.migrants.filter fun m => !mine m.2 })
      cells := s2.cells.map fun c => (c.1, if s.cellIn p c.1 then
        { c.2 with ring := c.2.ring.filter (fun r => r.launch != id), runq := c.2.runq.filter fun r => recLaunch r.2 != id } else c.2)
      resv := s2.resv.filter fun r => !(r.part == p && r.launch == id) }
    let dead := s2.clusters.flatMap fun k => (k.2.migrants.filter fun m => mine m.2).map fun m => m.2.uid
    let s4 := s3.modPart p fun x => { x with
      area := x.area.filter fun y => !mine y.2.strand
      preempting := x.preempting.map fun e => { e with packets := e.packets.filter fun u => !dead.contains u } }
    let s5 := (l.crews.map Prod.fst).foldl (fun t k => t.killRecord p id k) s4
    s5.dropLaunch p id 2

/-- WATCHDOG_T2 (R319): the queue's work is killed and it stops dispatching; a pre-emption in progress is superseded. DEDUCED: log 28. -/
def State.watchdog2 (s : State) (q : Nat) : State :=
  let x := s.hq q
  if x.t1 = 0 || decide (s.stalledFor q < x.t2.toNat * cyclesPerUs) then s
  else
    let s1 := (s.launchesOf x.part q).foldl (fun t id => t.killLaunch x.part id) s
    let s2 := s1.setHq q { s1.hq q with state := 3, killed := true }
    (s2.modPart x.part fun y => { y with heldBack := y.heldBack.filter fun h => h.1 != q }).endPreempts x.part |>.endVisit q

/-! ### The events: a launch is named by partition · 65,536 + identifier -/

/-- MIGRANT_ARRIVAL. -/
def execMigrantArrival (cluster : Nat) (s : State) : Host.Outcome State Fault Refusal := .next (s.migrantArrive cluster)
/-- HINGE_FILL. -/
def execHingeFill (n : Nat) (s : State) : Host.Outcome State Fault Refusal := .next (s.hingeFill n)
/-- CREW_PLACEMENT. -/
def execCrewPlacement (launch : Nat) (s : State) : Host.Outcome State Fault Refusal :=
  .next (s.crewPlacement (launch / 2 ^ 16) (launch % 2 ^ 16))
/-- BOOT_FORWARD. -/
def execBootForward (launch cell : Nat) (s : State) : Host.Outcome State Fault Refusal :=
  .next (s.bootForward (launch / 2 ^ 16) (launch % 2 ^ 16) cell)
/-- LAUNCH_END. -/
def execLaunchEnd (launch : Nat) (s : State) : Host.Outcome State Fault Refusal := .next (s.launchEnd (launch / 2 ^ 16) (launch % 2 ^ 16))
/-- CONTEXT_SAVE. -/
def execContextSave (n : Nat) (s : State) : Host.Outcome State Fault Refusal := .next (s.contextSave n)
/-- CONTEXT_CACHE_SPILL. -/
def execContextCacheSpill (cluster : Nat) (s : State) : Host.Outcome State Fault Refusal := .next (s.cacheSpill cluster)
/-- WATCHDOG_T1. -/
def execWatchdogT1 (queue : Nat) (s : State) : Host.Outcome State Fault Refusal := .next (s.watchdog1 queue)
/-- WATCHDOG_T2. -/
def execWatchdogT2 (queue : Nat) (s : State) : Host.Outcome State Fault Refusal := .next (s.watchdog2 queue)

end Sys2Proof.Machine
end

