-- ==== Sys2Proof/Machine/Host.lean ====
section
/-! DEFINITION. What the host does to the module through its BARs (R335 to R340, R346, R354, R356, R365, R366, R368): doorbells and
the fetch of commands, the registers, and the window onto device memory. Before READY only reads have an effect (R367). -/
namespace Sys2Proof.Machine

/-- A host write has an effect only once the module is READY (R367). -/
def State.ifReady (s : State) (t : State) : State := if s.ready then t else s

/-! ### Doorbells and fetch (R338, R339) -/

/-- DOORBELL: a producer index that is newer replaces PROD; more commands than the ring holds are QUEUE_FAULT, in a queue stopped by a kill
too (R338). DEDUCED: log 19. -/
def State.doorbell (s : State) (q : Nat) (v : BitVec 32) : State :=
  let x := s.hq q
  if 16384 ≤ q || !x.enabled || decide (2 ^ 31 ≤ (v - x.prod).toNat) then s
  else
    let y := if v = x.prod then x else { x with prod := v, bells := (v, s.clock) :: x.bells }
    s.setHq q (if x.size < (y.prod - y.cons).toNat then { y with state := 2 } else y)

/-- A doorbell value covers the command with an index. -/
def bellCovers (n : BitVec 32) (v : BitVec 32) : Bool := decide ((v - n).toNat != 0 ∧ (v - n).toNat < 2 ^ 31)

/-- The bytes of the ring slot of the next command; none where they cannot be read. -/
def State.readSlot (s : State) (x : HostQueue) : Option (List (BitVec 8)) :=
  let a := x.flat 1 x.ring + 64 * (x.cons.toNat % x.size)
  if hostBase ≤ a then some (s.bytes a 64) else s.deviceBytes a 64

/-- The slot holds the command whose turn it is. -/
def HostQueue.seqOk (x : HostQueue) (c : Option (List (BitVec 8))) : Bool :=
  match c with
  | some b => field b 0 4 == seqWord x.cons.toNat
  | none => false

/-- Queue a command for the arbiter. -/
def State.queueCommand (s : State) (q : Nat) (x : HostQueue) (b : List (BitVec 8)) : State :=
  let at_ := ((x.bells.reverse.find? fun v => bellCovers x.cons v.1).map Prod.snd).getD s.clock
  s.setHq q { x with
    cmds := x.cmds ++ [⟨x.cons.toNat, b, s.clock, at_, false, false, 0, []⟩], cons := x.cons + 1, refetch := none
    bells := x.bells.filter fun v => bellCovers (x.cons + 1) v.1 }

/-- The queue may fetch: it runs, a command is due, and the completion ring has a slot for it (R339, R340). DEDUCED: log 18. -/
def HostQueue.mayFetch (x : HostQueue) : Bool := x.state == 1 && x.prod != x.cons && (x.cons - x.ccons).toNat != x.size

/-- COMMAND_FETCH. -/
def State.commandFetch (s : State) (q : Nat) : State :=
  let x := s.hq q
  if !x.mayFetch || x.refetch.isSome then s
  else
    let c := s.readSlot x
    if x.seqOk c then s.queueCommand q x (c.getD []) else s.setHq q { x with refetch := some (0, s.clock) }

/-- SEQ_REFETCH: a microsecond after the last read the slot is read again; the fourth miss is QUEUE_FAULT. DEDUCED: log 19. -/
def State.seqRefetch (s : State) (q : Nat) : State :=
  let x := s.hq q
  match x.refetch with
  | none => s
  | some (k, t) =>
    if !x.mayFetch || decide (s.clock < t + cyclesPerUs) then s
    else
      let c := s.readSlot x
      if x.seqOk c then s.queueCommand q x (c.getD [])
      else if k + 1 < 4 then s.setHq q { x with refetch := some (k + 1, s.clock) }
      else
        let b := c.getD []
        (s.setHq q { x with refetch := none, state := 2 }).postDone q x.cons.toNat 4 (field b 8 8) (field b 5 1 / 2 % 2 == 1)

/-! ### Registers -/

/-- A queue's fields allow ENABLE (R317, R336): they keep to Table 18-3, and PRIV agrees with the partition's PRIVQ. -/
def State.queueValid (s : State) (q : Nat) (x : HostQueue) : Bool :=
  x.ctrl.extractLsb' 28 4 == 0 && x.ctrl.extractLsb' 20 4 == 0 && decide (x.size ≤ 65536) && x.ctrl.extractLsb' 3 5 == 0
    && x.ring.toNat % 64 == 0 && x.cring.toNat % 16 == 0 && decide (x.vector.toNat < 2048)
    && (x.t1 == 0 || (decide (10 ≤ x.t1.toNat) && decide (x.t1.toNat < x.t2.toNat) && decide (x.t2.toNat ≤ 600000000)))
    && (if q = 0 then !x.privBit
        else match s.part? x.part with
          | some p => x.privBit == (p.privq == q)
          | none => false)

/-- QUEUE_ENABLE: ENABLE is set in a queue whose fields are valid, and it runs; otherwise the write is discarded. -/
def State.queueEnable (s : State) (q : Nat) : State :=
  let x := s.hq q
  if x.enabled || decide (16384 ≤ q) || !s.queueValid q x then s
  else s.setHq q { x with ctrl := x.ctrl ||| 1, state := 1, progressAt := s.clock, t1Done := false, killed := false }

/-- A write of CTRL: while ENABLE is 1 only ENABLE can be cleared, and the queue's visit ends (R287); else the fields are stored, and ENABLE
is set if they are valid. -/
def State.writeCtrl (s : State) (q : Nat) (v : BitVec 32) : State :=
  let x := s.hq q
  if x.enabled then
    if v.getLsbD 0 then s else (s.setHq q { x with ctrl := x.ctrl &&& 0xFFFFFFFE, state := 0, refetch := none }).endVisit q
  else
    let s1 := s.setHq q { x with ctrl := v &&& 0xFFFFFFFE }
    if v.getLsbD 0 then s1.queueEnable q else s1

/-- A write to a queue descriptor (Table 18-3). -/
def State.writeQueueReg (s : State) (q off : Nat) (v : BitVec 64) : State :=
  let x := s.hq q
  let idle (y : HostQueue) : State := if x.enabled then s else s.setHq q y
  match off with
  | 0 => idle { x with ring := v }
  | 8 => idle { x with cring := v }
  | 16 => s.writeCtrl q (v.setWidth 32)
  | 20 => idle { x with vector := v.setWidth 16 }
  | 28 => s.setHq q { x with ccons := v.setWidth 32 }
  | 32 => idle { x with t1 := v.setWidth 32 }
  | 36 => idle { x with t2 := v.setWidth 32 }
  | _ => s

/-- Write bytes of a register that is kept byte by byte. -/
def putBytes (m : NMap (BitVec 8)) (o : Nat) : List (BitVec 8) → NMap (BitVec 8)
  | [] => m
  | b :: r => putBytes (NMap.set m o b) (o + 1) r

/-- A write to a firmware-mailbox field (R365, Table 19-5): CMD sets the module to work unless it is at work. -/
def State.writeMailboxReg (s : State) (off : Nat) (v : BitVec 64) : State :=
  match off with
  | 0x00 => if s.fwStatus = 1 then s else { s with fwCmd := v.setWidth 32, fwStatus := 1 }
  | 0x08 => { s with fwAddr := v }
  | 0x10 => { s with fwLen := v }
  | 0x18 => { s with fwPart := v.extractLsb' 0 8, fwKeySlot := v.extractLsb' 8 8 }
  | 0x20 => { s with fwVector := v.setWidth 16 }
  | _ => s

/-- REGISTER_WRITE: the value goes to the field at a BAR0 offset; an offset that no field with this behaviour lies at ignores it. -/
def State.registerWrite (s : State) (off : Nat) (v : BitVec 64) : State :=
  if 0x10000 ≤ off && off < 0x18000 then
    ({ s with msixTable := putBytes s.msixTable (off - 0x10000) (leBytes v.toNat 4) } : State).unmask
  else if 0x100000 ≤ off && off < 0x200000 then s.writeQueueReg ((off - 0x100000) / 64) (off % 64) v
  else if 0x300000 ≤ off && off < 0x310000 then
    let e := (off - 0x300000) / 4096
    if off % 4096 = 0x28 then s.setView e { s.view e with vector := v.setWidth 16 } else s
  else if 0x310000 ≤ off && off < 0x31C000 then
    let l := (off - 0x310000) / 4096
    if off % 4096 = 0x20 then s.setLink l { s.link l with vector := v.setWidth 16 } else s
  else if 0x400000 ≤ off && off < 0x400038 && off % 8 = 0 then
    { s with nonce := s.nonce.take (off - 0x400000) ++ wordOf v ++ s.nonce.drop (off - 0x400000 + 8) }
  else if 0x700000 ≤ off && off < 0x701000 then s.writeMailboxReg (off - 0x700000) v
  else s

/-- QUEUE_CONSUMER_INDEX_WRITE (R346). -/
def State.consumerWrite (s : State) (p : Nat) (errq : Bool) (v : BitVec 32) : State :=
  s.modPart p fun x => if errq then { x with econs := v } else { x with fcons := v }

/-- The size of BAR4: a power of two from 1 GiB to 512 GiB (Table 18-1). -/
def State.bar4Size (s : State) : Nat := 2 ^ (30 + min s.bar4Code 9)

/-- WBASE_WRITE (R366): the window is aligned to its size. -/
def State.writeWbase (s : State) (v : BitVec 64) : State :=
  { s with wbase := BitVec.ofNat 64 (v.toNat / s.bar4Size * s.bar4Size) }

/-- The host resizes BAR4 (Table 18-1): the window is aligned to its new size. DESIGN CHOICE: log 17. -/
def State.resizeBar4 (s : State) (code : Nat) : State :=
  let t := { s with bar4Code := min code 9 }
  t.writeWbase t.wbase

/-- ERROR_COUNTER_CLEAR (R368): the host writes a counter, 0 to clear it. -/
def State.writeCounter (s : State) (k : Nat) (refetch : Bool) (v : BitVec 32) : State :=
  if 192 ≤ k then s
  else
    let c := s.cluster k
    s.setCluster k (if refetch then { c with refetch := v.toNat % 2 ^ 16 } else { c with corr := v.toNat })

/-! ### BAR4 (R335) -/

/-- BAR4_ACCESS: a write is performed at its home; a read returns eight bytes. Neither consults line state (R257). A poisoned line is
not written, and what a read of it returns is open (R285). DESIGN CHOICE: log 17. -/
def State.bar4 (s : State) (off : Nat) (write : Option (List (BitVec 8))) : State :=
  let a := s.wbase.toNat + off
  match write with
  | some bs =>
    if s.ready && decide (off + bs.length ≤ s.bar4Size) && decide (a + bs.length ≤ deviceEnd) && !s.poisonedRange a bs.length then
      s.storeHome a bs
    else s
  | none =>
    if !s.ready then { s with hostRead := zeros 8 }
    else if s.bar4Size < off + 8 || deviceEnd < a + 8 then { s with hostRead := zeros 8 }
    else if s.poisonedRange a 8 then
      { s with hostRead := (List.range 8).map (fun i => Config.freeByte (s.fresh + i)), fresh := s.fresh + 8 }
    else { s with hostRead := s.bytes a 8 }

/-! ### The events -/

/-- DOORBELL. -/
def execDoorbell (queue : Nat) (val : BitVec 32) (s : State) : Host.Outcome State Fault Refusal := .next (s.ifReady (s.doorbell queue val))
/-- COMMAND_FETCH. -/
def execCommandFetch (queue : Nat) (s : State) : Host.Outcome State Fault Refusal := .next (s.commandFetch queue)
/-- SEQ_REFETCH. -/
def execSeqRefetch (queue : Nat) (s : State) : Host.Outcome State Fault Refusal := .next (s.seqRefetch queue)
/-- QUEUE_ENABLE. -/
def execQueueEnable (queue : Nat) (s : State) : Host.Outcome State Fault Refusal := .next (s.ifReady (s.queueEnable queue))
/-- COMPLETION_CONSUMER_WRITE. -/
def execCompletionConsumerWrite (queue : Nat) (val : BitVec 32) (s : State) : Host.Outcome State Fault Refusal :=
  .next (s.ifReady (if queue < 16384 then s.setHq queue { s.hq queue with ccons := val } else s))
/-- VIEW_CONSUMER_WRITE. -/
def execViewConsumerWrite (engine : Nat) (val : BitVec 32) (s : State) : Host.Outcome State Fault Refusal :=
  .next (s.ifReady (if engine < 16 then s.setView engine { s.view engine with cons := val } else s))
/-- VIEW_FAULT_CLEAR: `val` is the word written at 0x08, FAULT its bit 1. -/
def execViewFaultClear (engine : Nat) (val : BitVec 32) (s : State) : Host.Outcome State Fault Refusal :=
  .next (s.ifReady (if engine < 16 && val.getLsbD 1 then s.setView engine { s.view engine with fault := false } else s))
/-- HASP_REPLAYS_CLEAR. -/
def execHaspReplaysClear (link : Nat) (val : BitVec 32) (s : State) : Host.Outcome State Fault Refusal :=
  .next (s.ifReady (if link < 12 then s.setLink link { s.link link with replays := val.setWidth 64 } else s))
/-- HASP_MODULE_WRITE: every link block has the one number. -/
def execHaspModuleWrite (link : Nat) (val : BitVec 32) (s : State) : Host.Outcome State Fault Refusal :=
  .next (s.ifReady (if link < 12 then { s with moduleNo := val.setWidth 13 } else s))
/-- WBASE_WRITE. -/
def execWbaseWrite (val : BitVec 64) (s : State) : Host.Outcome State Fault Refusal := .next (s.ifReady (s.writeWbase val))
/-- ERROR_COUNTER_CLEAR. -/
def execErrorCounterClear (cluster : Nat) (refetch : Bool) (val : BitVec 32) (s : State) : Host.Outcome State Fault Refusal :=
  .next (s.ifReady (s.writeCounter cluster refetch val))
/-- REGISTER_WRITE. -/
def execRegisterWrite (off : Nat) (val : BitVec 64) (s : State) : Host.Outcome State Fault Refusal := .next (s.ifReady (s.registerWrite off val))
/-- QUEUE_CONSUMER_INDEX_WRITE. -/
def execQueueConsumerIndexWrite (part : Nat) (errq : Bool) (val : BitVec 32) (s : State) : Host.Outcome State Fault Refusal :=
  .next (s.ifReady (s.consumerWrite part errq val))
/-- BAR4_ACCESS. -/
def execBar4Access (off : Nat) (write : Option (List (BitVec 8))) (s : State) : Host.Outcome State Fault Refusal := .next (s.bar4 off write)

end Sys2Proof.Machine
end

