-- ==== Sys2Proof/Machine/Commands.lean ====
section
/-! DEFINITION. The commands of a partition's queues (Table 18-6): LAUNCH, REPLAY and PATCH with the checks of R290 and R342, device
queues, fault answers, line resets, view engines, groups, windows, logs, pre-emption, restarts and KLI slots. A command ends with
its STATUS, or stays in its queue's way until a later step of the same command ends it. -/
namespace Sys2Proof.Machine

/-! ### Operands -/

/-- An operand of a command. DESIGN CHOICE: log 21. -/
def HostCmd.op (c : HostCmd) (o n : Nat) : Nat := field c.bytes o n

/-- Every operand byte outside some ranges is zero (R337, Table 18-4). DESIGN CHOICE: log 21. -/
def HostCmd.unused (c : HostCmd) (used : List (Nat × Nat)) : Bool :=
  (List.range 48).all fun i =>
    let o := 16 + i
    used.any (fun u => decide (u.1 ≤ o) && decide (o < u.1 + u.2)) || c.bytes.getD o 0 == 0

/-- Bytes at a global address of a partition, read line by line by the device; none where a line cannot be read. -/
def State.globalBytes (s : State) (p va : Nat) : Nat → Option (List (BitVec 8))
  | 0 => some []
  | n + 1 =>
    match s.translate p 0 true .read (BitVec.ofNat 64 va) with
    | .ok spot =>
      if spot.mt = 5 || s.isPoisoned (lineOf spot.flat) then none
      else (State.globalBytes s p (va + 64) n).map fun r => s.bytes spot.flat 64 ++ r
    | _ => none

/-- The launch descriptor at a global address (R289). -/
def State.descAt (s : State) (p va : Nat) : Option (List (BitVec 8)) := if va % 64 = 0 && va < 2 ^ 64 then s.globalBytes p va 3 else none

/-! ### Launch descriptors (Table 15-1, R290) -/

/-- The descriptor breaks a rule of Table 15-1 other than those of PRED. DEDUCED: log 23. -/
def descBad (d : List (BitVec 8)) : Bool :=
  let f (o n : Nat) : Nat := field d o n
  let cells := f 1 1
  let slots := f 2 1
  let tiles := slots * f 4 1
  let entry (n : Nat) : Nat := f (80 + 8 * n) 8
  let stage (n i : Nat) : Nat := f (112 + 4 * n + i) 1
  decide (191 < f 0 1) || cells == 0 || decide (8 < cells) || slots == 0 || decide (16 < slots) || decide (128 < cells * slots)
    || decide (32 < f 3 1) || decide (256 < slots * f 3 1) || decide (16 < f 4 1) || decide (16 < tiles) || decide (3 < f 5 1)
    || decide (7 < f 9 1) || decide (1536 < f 10 2 + f 12 2) || f 14 1 / 16 % 8 != 0
    || (if f 14 1 < 128 then decide (16 < f 14 1 % 16 + tiles) else f 14 1 % 16 != 0) || f 15 1 != 0 || f 16 4 == 0
    || ((List.range 4).any fun q => f (20 + q) 1 / 16 % 8 != 0 || decide (slots ≤ f (20 + q) 1 % 16))
    || f 72 8 % 4 != 0 || (f 9 1 / 2 % 2 == 1 && f 72 8 == 0)
    || ((List.range 4).any fun n => entry n % 4 != 0 || decide (3 < stage n 2) || (n != 0 && (entry n != 0) != (stage n 1 != 0)))
    || entry 0 == 0 || stage 3 3 != 0 || decide (2 ^ 32 < f 128 4 + f 132 4) || f 136 4 == 0 || f 140 4 % 8 != 0
    || decide (4 < f 144 1) || !zeroRange d 145 7 || !zeroRange d 184 8
    || !zeroRange d (152 + 8 * f 144 1) (32 - 8 * f 144 1)

/-- The PRED entries of a descriptor. -/
def descPreds (d : List (BitVec 8)) : List Nat := (List.range (field d 144 1)).map fun i => field d (152 + 8 * i) 8

/-- Two stages that cover slots overlap, a stage reaches past SLOTS, or none feeds a stage-bound one (R290). -/
def stagesBad (d : List (BitVec 8)) : Bool :=
  let st (n i : Nat) : Nat := field d (112 + 4 * n + i) 1
  (List.range 4).any fun n =>
    (st n 1 != 0 && decide (field d 2 1 < st n 0 + st n 1)) || (n != 0 && st n 2 == 1 && st (n - 1) 3 == 0)
      || (List.range n).any fun m => st n 1 != 0 && st m 1 != 0 && decide (st n 0 < st m 0 + st m 1) && decide (st m 0 < st n 0 + st n 1)

/-- A condition of R290 that does not concern PRED holds for a launch from a queue of a partition. -/
def State.launchBad (s : State) (p q kslot : Nat) (d : List (BitVec 8)) : Bool :=
  match s.part? p, s.container p kslot with
  | some x, some b =>
    stagesBad d || decide (x.clusters.length < field d 0 1 + 1) || (field d 9 1 / 2 % 2 == 1 && q != x.privq) || x.classConflict b
      || ((List.range 4).any fun n => field d (80 + 8 * n) 8 != 0 && !kliText b (field d (80 + 8 * n) 8))
      || (field d 72 8 != 0 && !kliText b (field d 72 8))
  | _, _ => true

/-- The pending predecessors that PRED entries name (R301): the command is covered by its queue's PROD and is, or may yet prove to
be, a LAUNCH that has not ended. -/
def State.pendingPreds (s : State) (entries : List Nat) : List (Nat × Nat) :=
  entries.filterMap fun e =>
    let q := e / 2 ^ 32 % 2 ^ 14
    let seq := e % 2 ^ 31
    let x := s.hq q
    let back := (x.prod.toNat + 2 ^ 31 - seq) % 2 ^ 31
    let live := x.cmds.any (fun c => c.n % 2 ^ 31 == seq && c.opc == 1) || decide (back ≤ (x.prod - x.cons).toNat)
    if e / 2 ^ 31 % 2 = 1 && back != 0 && back ≤ x.size && live then some (q, seq) else none

/-- A PRED entry names a queue of another partition, or breaks Table 15-1. -/
def State.predBad (s : State) (p e : Nat) : Bool :=
  let q := e / 2 ^ 32 % 2 ^ 14
  e / 2 ^ 46 != 0 || q == 0 || (s.hq q).part != p

/-- A free launch identifier of a partition, a choice of the device; none while all 65,536 are live (R292). -/
def freeId (x : Partition) (start : Nat) : Option Nat :=
  ((List.range (min (2 ^ 16) (x.launches.length + 1))).map fun i => (start + i) % 2 ^ 16).find? fun i => (NMap.get? x.launches i).isNone

/-- A partition has identifiers for some launches more (R292). -/
def Partition.idsFor (x : Partition) (n : Nat) : Bool := decide (x.launches.length + n ≤ 2 ^ 16)

/-- Dispatch a launch (R288, R292, R299): its identifier, its crews to place and its dispenser state, with the class tables of its
image. -/
def State.addLaunch (s : State) (p q n kslot queued : Nat) (node : Option (Nat × Nat × Nat)) (preds : List (Nat × Nat))
    (d : List (BitVec 8)) : State :=
  match s.part? p with
  | none => s
  | some x =>
    let (r, s1) := s.choose (2 ^ 16)
    let b := (s.container p kslot).getD []
    let l : Launch := {
      desc := d, kslot := kslot, queue := q, cmd := n, node := node, preds := preds, next := field d 128 4, remaining := field d 132 4
      order := s1.serial, queuedAt := queued, held := false, away := []
      crews := (List.range (field d 0 1 + 1)).foldl (fun m k => NMap.set m k Crew.fresh) [] }
    let s2 := if s1.hasLaunch q then s1 else s1.setHq q { s1.hq q with progressAt := s1.clock, t1Done := false }
    match freeId x r with
    | none => s
    | some id =>
      ({ s2 with serial := s2.serial + 1 } : State).modPart p fun y => ({ y with launches := NMap.set y.launches id l }).installClasses b

/-- LAUNCH: dispatch, or the launch-error completion. DEDUCED: log 23. -/
def State.cmdLaunch (s : State) (q p : Nat) (c : HostCmd) : State :=
  let kslot := c.op 24 2
  if !c.unused [(16, 8), (24, 2)] then s.finish q c.n 3
  else match s.descAt p (c.op 16 8) with
    | none => s.finish q c.n 1
    | some d =>
      if descBad d || s.launchBad p q kslot d || (descPreds d).any (s.predBad p) then s.finish q c.n 1
      else s.addLaunch p q c.n kslot c.queuedAt none (s.pendingPreds (descPreds d)) d

/-! ### Task graphs (R300, R342) -/

/-- The header of the graph at a device address, if it keeps to Table 18-10. -/
def State.graphHeader (s : State) (g : Nat) : Option (List (BitVec 8)) :=
  match s.deviceBytes g 64 with
  | none => none
  | some h =>
    let sz := field h 4 4
    let b0 := field h 8 8
    let b1 := field h 16 8
    if g % 64 != 0 || field h 0 4 == 0 || decide (4096 < field h 0 4) || sz % 8 != 0 || decide (sz < 40) || decide (1048576 < sz)
        || b0 % 64 != 0 || b1 % 64 != 0 || (decide (b0 < b1 + sz) && decide (b1 < b0 + sz)) || !inDevice b0 sz || !inDevice b1 sz
        || !zeroRange h 34 30 then none
    else some h

/-- The node descriptors of a graph, in node order. -/
def State.graphNodes (s : State) (p : Nat) (h : List (BitVec 8)) : Option (List (List (BitVec 8))) :=
  let n := field h 0 4
  match s.deviceBytes (field h 24 8) (8 * n) with
  | none => none
  | some list => allSome ((List.range n).map fun i => s.descAt p (field list (8 * i) 8))

/-- Nodes whose predecessors are all in a set that is already free of cycles join it; done often enough, every node that is on no
cycle and behind none has joined. -/
def acyclicFrom (preds : List (List Nat)) (done : List Nat) : Nat → List Nat
  | 0 => done
  | n + 1 =>
    let more := (List.range preds.length).filter fun i => !done.contains i && (preds.getD i []).all done.contains
    if more.isEmpty then done else acyclicFrom preds (done ++ more) n

/-- The nodes of a graph break R342. -/
def nodesBad (h : List (BitVec 8)) (nodes : List (List (BitVec 8))) : Bool :=
  let preds := nodes.map descPreds
  nodes.any (fun d => descBad d || decide (field h 4 4 < field d 140 4 + 40)) || preds.any (fun l => l.any fun e => decide (nodes.length ≤ e))
    || (acyclicFrom preds [] nodes.length).length != nodes.length

/-- The state the device keeps for a graph (R342). -/
def State.graph (s : State) (p g : Nat) : Graph := ((s.part? p).map fun x => NMap.getD x.graphs g ⟨0, []⟩).getD ⟨0, []⟩
/-- Change the state of a graph. -/
def State.modGraph (s : State) (p g : Nat) (f : Graph → Graph) : State :=
  s.modPart p fun x => { x with graphs := NMap.modify x.graphs g ⟨0, []⟩ f }

/-- Dispatch the nodes of a replay, all at once, each with its predecessors (R301). -/
def State.addNodes (s : State) (p q n kslot queued g bank : Nat) (nodes : List (List (BitVec 8))) : State :=
  (List.zip (List.range nodes.length) nodes).foldl (fun t x =>
    t.addLaunch p q n kslot queued (some (g, x.1, bank)) ((descPreds x.2).map fun e => ((n + 1) * 2 ^ 14 + q, e)) x.2) s

/-- REPLAY: bound to bank CUR, unless two replays of the graph are in flight or identifiers for its nodes are wanting; then it waits.
DEDUCED: log 24. -/
def State.cmdReplay (s : State) (q p : Nat) (c : HostCmd) : State :=
  let g := c.op 16 8
  if !c.unused [(16, 8)] then s.finish q c.n 3
  else match s.graphHeader g with
    | none => s.finish q c.n 3
    | some h =>
      match s.graphNodes p h with
      | none => s.finish q c.n 3
      | some nodes =>
        if nodesBad h nodes then s.finish q c.n 3
        else if nodes.any (s.launchBad p q (field h 32 2)) then s.finish q c.n 1
        else
          let gr := s.graph p g
          if 2 ≤ gr.replays.length || !((s.part? p).map fun x => x.idsFor nodes.length).getD false then s.keep q c.n
          else
            ((s.letRun q c.n).modGraph p g fun z => { z with replays := z.replays ++ [(q, c.n, z.cur)] }).addNodes p q c.n (field h 32 2)
              c.queuedAt g gr.cur nodes

/-- Apply a patch list to a bank. -/
def State.applyPairs (s : State) (bank : Nat) (list : List (BitVec 8)) : Nat → State
  | 0 => s
  | n + 1 => State.applyPairs (s.storeHome (bank + field list 0 8) ((list.drop 8).take 8)) bank (list.drop 16) n

/-- PATCH and PATCH_APPLY: the target bank is the one that is not CUR, and the patch waits while a replay is bound to it. DEDUCED: log 24. -/
def State.cmdPatch (s : State) (q p : Nat) (c : HostCmd) : State :=
  let g := c.op 16 8
  let n := c.op 32 4
  if !c.unused [(16, 8), (24, 8), (32, 4)] || n == 0 || decide (4096 < n) then s.finish q c.n 3
  else match s.graphHeader g, s.deviceBytes (c.op 24 8) (16 * n) with
    | some h, some list =>
      let sz := field h 4 4
      if (List.range n).any fun i => field list (16 * i) 8 % 8 != 0 || decide (sz ≤ field list (16 * i) 8) then s.finish q c.n 3
      else
        let gr := s.graph p g
        let x := 1 - gr.cur
        if gr.replays.any fun r => r.2.2 == x then s.keep q c.n
        else
          let bank (i : Nat) : Nat := field h (8 + 8 * i) 8
          let s1 := s.storeHome (bank x) (s.bytes (bank gr.cur) sz)
          ((s1.applyPairs (bank x) list n).modGraph p g fun z => { z with cur := x }).finish q c.n 0
    | _, _ => s.finish q c.n 3

/-! ### Device queues (R206, R344) -/

/-- QCREATE. -/
def State.cmdQcreate (s : State) (q p : Nat) (c : HostCmd) : State :=
  let i := c.op 16 2
  let cap := c.op 20 4
  let x := s.devq p i
  if !c.unused [(16, 2), (20, 4), (24, 2), (32, 8)] || decide (4095 < i) || cap == 0 || decide (65536 < cap)
      || (s.cellAt p (c.op 24 2)).isNone || !inDevice (c.op 32 8) (8 * cap) || x.live then s.finish q c.n 3
  else (s.setDevq p i { gen := x.gen + 1, live := true, cap := cap, home := c.op 24 2, back := BitVec.ofNat 64 (c.op 32 8), values := [] }).finish
    q c.n 0

/-- QDESTROY: a request that waits on the queue finds its handle stale when it is tried again. -/
def State.cmdQdestroy (s : State) (q p : Nat) (c : HostCmd) : State :=
  let i := c.op 16 2
  let x := s.devq p i
  if !c.unused [(16, 2)] || decide (4095 < i) || !x.live then s.finish q c.n 3
  else (s.setDevq p i { x with gen := x.gen + 1, live := false, values := [] }).finish q c.n 0

/-! ### Fault answers (R282) -/

/-- An agent waits on an open record. -/
def WaitKind.pending (k : WaitKind) (seq : Nat) : Bool :=
  match k with
  | .faultPending n _ => n == seq
  | _ => false

/-- Answer replay: every joined access of an agent walks afresh when it is tried again. -/
def State.replayAgent (seq : Nat) (s : State) (who : Agent) : State :=
  match who with
  | .slot n =>
    match s.strand? n with
    | some st => (match st.wait with
      | some w => if w.kind.pending seq then s.setStrand n { st with wait := some ⟨.replay, w.since⟩ } else s
      | none => s)
    | none => s
  | .hart h =>
    let x := s.hart h
    s.setHart h { x with running := x.running.map fun c => if c.hold.pending seq then { c with hold := .replay } else c }
  | .coproc k =>
    match (s.cluster k).coproc with
    | some x => if x.hold.pending seq then s.setXreq k { x with hold := .replay } else s
    | none => s
  | .view e => if (s.view e).hold.pending seq then s.setView e { s.view e with hold := .replay } else s

/-- Answer refuse: a joined strand access raises TRANSLATION, a command stops with XLATE_FAIL and a view engine abandons its
frame. -/
def State.refuseAgent (seq : Nat) (s : State) (who : Agent) : State :=
  match who with
  | .slot n =>
    match (s.strand? n).bind Strand.wait with
    | some ⟨.faultPending m va, _⟩ => if m = seq then s.deliver n (translation 0 va) else s
    | _ => s
  | .hart h =>
    let x := s.hart h
    s.setHart h { x with running := x.running.map fun c => if c.hold.pending seq then
      { c with status := 3, stopped := true, hold := .poll, progress := c.doneCount } else c }
  | .coproc k =>
    match (s.cluster k).coproc with
    | some x => if x.hold.pending seq then s.setXreq k { x with status := 3, stopped := true, hold := .poll } else s
    | none => s
  | .view e => if (s.view e).hold.pending seq then s.abandon e (s.view e) 0x06 0 else s

/-- FANSWER. -/
def State.cmdFanswer (s : State) (q p : Nat) (c : HostCmd) : State :=
  let seq := c.op 16 2
  let refuse := c.op 18 1
  match (s.part? p).bind fun x => x.faults.find? fun f => f.seq == seq with
  | none => s.finish q c.n 3
  | some f =>
    if !c.unused [(16, 2), (18, 1)] || decide (1 < refuse) then s.finish q c.n 3
    else
      let s1 := s.modPart p fun x => { x with faults := dropFirst (fun g => g.seq == seq) x.faults }
      (f.joined.foldl (if refuse = 0 then State.replayAgent seq else State.refuseAgent seq) s1).finish q c.n 0

/-! ### Line resets (R345) -/

/-- The leaf of a page maps device memory. -/
def State.mappedHere (s : State) (p va : Nat) : Bool :=
  match s.walk p va with
  | .leaf _ e => leafLoc e == 0
  | _ => false

/-- One line's reset: a state change to 0 with a wake pass, and with ZERO fresh zero data. DEDUCED: log 27. -/
def State.resetLine (s : State) (p va : Nat) (zero : Bool) : State :=
  match s.walk p va with
  | .leaf level e =>
    let line := lineOf (s.leafFlat p level e va)
    let s1 := if zero then s.freshStore (64 * line) (zeros 64) else s
    ((s1.setLineState line 0).loseLine line).wakeLine line
  | _ => s

/-- SRESET: checked when it is dispatched, then one line a step in ascending order. DEDUCED: log 27. -/
def State.cmdSreset (s : State) (q p : Nat) (c : HostCmd) : State :=
  let base := c.op 16 8
  let len := c.op 24 8
  let mapped : Bool := (List.range (len / 2 ^ 16)).all fun i => s.mappedHere p (base + 2 ^ 16 * i)
  if c.waiting then
    let s1 := s.resetLine p (base + 64 * c.progress) (c.op 32 1 == 1)
    if 64 * (c.progress + 1) < len then s1.modCmd q c.n fun d => { d with progress := c.progress + 1 } else s1.finish q c.n 0
  else if !c.unused [(16, 8), (24, 8), (32, 1)] || base % 2 ^ 16 != 0 || len % 2 ^ 16 != 0 || decide (2 ^ 56 < base + len)
      || decide (1 < c.op 32 1) || !mapped then s.finish q c.n 3
  else if len = 0 then s.finish q c.n 0
  else s.keep q c.n

/-! ### View engines, groups, windows and logs -/

/-- Take a view engine from its partition: its park entry and its place in fault records go. -/
def State.unbindView (s : State) (e : Nat) : State :=
  let v := s.view e
  let s1 : State := { s with
    parked := s.parked.filter fun (y : Parked) => y.who != Agent.view e
    passes := s.passes.map fun (w : WakePass) => { w with rest := w.rest.filter (· != Agent.view e) }
    parts := s.parts.map fun x => (x.1, { x.2 with faults := x.2.faults.map fun (f : FaultRec) => { f with joined := f.joined.filter (· != Agent.view e) } }) }
  s1.setView e { v with part := none, block := [], waitRing := false, phase := 0, lines := 0, picture := [], unit := [], hold := .poll }

/-- VBIND (R351, R354): a BLOCK of 0 unbinds. -/
def State.cmdVbind (s : State) (q p : Nat) (c : HostCmd) : State :=
  let e := c.op 16 1
  let a := c.op 24 8
  let v := s.view e
  if !c.unused [(16, 1), (24, 8)] || decide (15 < e) || (v.part.isSome && v.part != some p) then s.finish q c.n 3
  else if a = 0 then (s.unbindView e).finish q c.n 0
  else match s.deviceBytes a 64 with
    | none => s.finish q c.n 3
    | some b =>
      if bindBad b then s.finish q c.n 3
      else
        let s1 := s.unbindView e
        (s1.setView e { s1.view e with part := some p, block := b, prod := 0, cons := 0, frames := 0, fault := false, frame := 0, seq := [] }).finish
          q c.n 0

/-- A group block breaks Table 18-13, or names another partition of this module (R359). -/
def groupBad (module p : Nat) (b : List (BitVec 8)) : Bool :=
  !zeroRange b 4 12 || (List.range (field b 0 4)).any fun i =>
    let o := 16 + 32 * i
    decide (8191 < field b o 2) || decide (15 < field b (o + 2) 1) || decide (1 < field b (o + 3) 1) || !zeroRange b (o + 4) 4
      || !zeroRange b (o + 16) 16 || (field b o 2 == module && field b (o + 2) 1 != p)

/-- GROUP (R357, R359): the number of the next COLL is one for all its members. -/
def State.cmdGroup (s : State) (q p : Nat) (c : HostCmd) : State :=
  let a := c.op 24 8
  match s.deviceBytes a 16 with
  | none => s.finish q c.n 3
  | some h =>
    let n := field h 0 4
    if !c.unused [(16, 4), (24, 8)] || a % 64 != 0 || decide (n < 2) || decide (16384 < n) then s.finish q c.n 3
    else match s.deviceBytes a (16 + 32 * n) with
      | none => s.finish q c.n 3
      | some b =>
        if groupBad s.moduleNo.toNat p b then s.finish q c.n 3
        else ((s.modPart p fun x => { x with groups := NMap.set x.groups (c.op 16 4) b }).alignRuns p (c.op 16 4)).finish q c.n 0

/-- HWIN (R277, R341): window, peer module, peer partition and size. -/
def State.cmdHwin (s : State) (q p : Nat) (c : HostCmd) : State :=
  if !c.unused [(16, 1), (18, 2), (20, 1), (24, 8)] || decide (63 < c.op 16 1) || decide (8191 < c.op 18 2) || decide (15 < c.op 20 1) then
    s.finish q c.n 3
  else (s.modPart p fun x => { x with hwins := NMap.set x.hwins (c.op 16 1) (c.op 18 2, c.op 20 1, c.op 24 8) }).finish q c.n 0

/-- LOGSET (R331, R341): HEAD and TAIL at BASE. -/
def State.cmdLogset (s : State) (q p : Nat) (c : HostCmd) : State :=
  let base := c.op 24 8
  let size := c.op 32 8
  if !c.unused [(16, 1), (24, 8), (32, 8)] || decide (63 < c.op 16 1) || size % 2 ^ 16 != 0 || base % 64 != 0 || !inDevice base size then
    s.finish q c.n 3
  else (s.modPart p fun x => { x with logs := NMap.set x.logs (c.op 16 1) ⟨base, size, base, [], none, false⟩ }).finish q c.n 0

/-! ### Pre-emption and restart (R316, R341) -/

/-- The queues whose bits a mask sets. -/
def maskQueues (b : List (BitVec 8)) : List Nat := (List.range 16384).filter fun q => (b.getD (q / 8) 0).getLsbD (q % 8)

/-- PPREEMPT: it ends when every strand it pre-empts is saved, and the slots it affected are then filled again. -/
def State.cmdPpreempt (s : State) (q p : Nat) (c : HostCmd) : State :=
  if c.waiting then
    match (s.part? p).bind fun x => x.preempting.find? fun e => e.report == some (q, c.n) with
    | none => s.finish q c.n 0
    | some e =>
      if s.preemptDone e then
        (s.modPart p fun x => { x with preempting := dropFirst (fun f => f.report == some (q, c.n)) x.preempting }).finish q c.n 0
      else s
  else match if c.op 16 8 % 64 = 0 then s.deviceBytes (c.op 16 8) 2048 else none with
    | none => s.finish q c.n 3
    | some b =>
      let qs := maskQueues b
      if !c.unused [(16, 8)] || qs.any fun r => r == 0 || (s.hq r).part != p then s.finish q c.n 3
      else
        let ls := qs.flatMap (s.launchesOf p)
        let (slots, packets) := s.strandsOf p ls.contains
        ((s.preemptSlots p 1 slots packets (some (q, c.n))).releaseEvicted p ls.contains).keep q c.n

/-- RESTART: a queue in QUEUE_FAULT, or stopped by a kill, runs again at CONS. -/
def State.cmdRestart (s : State) (q p : Nat) (c : HostCmd) : State :=
  let r := c.op 16 2
  let x := s.hq r
  if !c.unused [(16, 2)] || r == 0 || decide (16384 ≤ r) || x.part != p then s.finish q c.n 3
  else if x.state = 2 || x.state = 3 then
    (s.setHq r { x with state := 1, refetch := none, progressAt := s.clock, t1Done := false, killed := false }).finish q c.n 0
  else s.finish q c.n 0

/-! ### KLI slots (R343, R362) -/

/-- KLOAD. -/
def State.cmdKload (s : State) (q p : Nat) (c : HostCmd) : State :=
  let k := c.op 16 2
  let a := c.op 24 8
  let n := c.op 32 8
  match s.part? p with
  | none => s.finish q c.n 3
  | some x =>
    if !c.unused [(16, 2), (24, 8), (32, 8)] || decide (255 < k) || a % 64 != 0 || (NMap.get? x.klis k).isSome then s.finish q c.n 3
    else match s.deviceBytes a n with
      | none => s.finish q c.n 6
      | some b =>
        if kliBad b || !kliSigned (x.keys.map Prod.snd) b then s.finish q c.n 6
        else (s.modPart p fun y => { y with klis := NMap.set y.klis k ⟨a, n, sha3 b⟩ }).finish q c.n 0

/-- KUNLOAD: it waits until no live launch runs from the slot. -/
def State.cmdKunload (s : State) (q p : Nat) (c : HostCmd) : State :=
  let k := c.op 16 2
  match s.part? p with
  | none => s.finish q c.n 3
  | some x =>
    if !c.unused [(16, 2)] || decide (255 < k) || (NMap.get? x.klis k).isNone then s.finish q c.n 3
    else if x.launches.any fun l => l.2.kslot == k then s.keep q c.n
    else (s.modPart p fun y => { y with klis := NMap.erase y.klis k }).finish q c.n 0

end Sys2Proof.Machine
end

