-- ==== Sys2Proof/Machine/Partitions.lean ====
section
/-! DEFINITION. Partitions and the dispatch of commands: PCREATE, PRESIZE and PDESTROY (R346 to R350), the decoding of a command
and its queue (R336, R341), and the arbiter's dispatch (R287). -/
namespace Sys2Proof.Machine

/-! ### Clusters -/

/-- The address ranges of the local spaces of a cluster: first address and length (R269). -/
def localRanges (k : Nat) : List (Nat × Nat) :=
  [(lmemBase (8 * k), 2 ^ 20), (wbufBase (8 * k), 2 ^ 20), (abufBase (8 * k), 2 ^ 20), (cbufBase (8 * k), 2 ^ 20), (cmemBase k, 2 ^ 20)]

/-- The address ranges that move with a cluster: its local spaces and its tile file (R348). -/
def movedRanges (k : Nat) : List (Nat × Nat) := localRanges k ++ [(tileBase (8 * k) 0, 8 * 16 * 4096)]

/-- An address lies in one of several ranges. -/
def inRanges (rs : List (Nat × Nat)) (a : Nat) : Bool := rs.any fun r => decide (r.1 ≤ a) && decide (a < r.1 + r.2)

/-- Zero the local spaces of a cluster, with fresh ECC (R272). -/
def State.zeroLocal (s : State) (k : Nat) : State :=
  let out (a : Nat) : Bool := !inRanges (localRanges k) a
  { s with mem := s.mem.filter (fun c => out c.1), unk := s.unk.filter (fun c => out c.1), poisoned := s.poisoned.filter fun c => out (64 * c.1) }

/-- A cell as its assignment to a partition leaves it (R346): what the rule does not name keeps its contents. -/
def Cell.assign (c : Cell) : Cell :=
  { c with hregs := [], algs := [], tagReady := BitVec.allOnes 64, tagOwner := [], tagSlot := [], passed := [] }

/-- Assign a cluster to a partition at an ordinal (R346). -/
def State.assign (s : State) (p o k : Nat) : State :=
  let c := s.cluster k
  let s1 := (s.zeroLocal k).setCluster k { Cluster.fresh with owner := some (p, o), corr := c.corr, refetch := c.refetch }
  ((List.range 8).map (8 * k + ·)).foldl (fun t i => t.setCell i (t.cell i).assign) s1

/-- Free a cluster. -/
def State.free (s : State) (k : Nat) : State :=
  let c := s.cluster k
  s.setCluster k { Cluster.fresh with corr := c.corr, refetch := c.refetch }

/-! ### PCREATE (R346) -/

/-- The clusters a create block selects, by rising number. -/
def blockClusters (b : List (BitVec 8)) : List Nat := (List.range 192).filter fun k => (b.getD (k / 8) 0).getLsbD (k % 8)

/-- A create block breaks Table 18-7 or R313. DEDUCED: log 26. -/
def createBad (b : List (BitVec 8)) : Bool :=
  let f (o n : Nat) : Nat := field b o n
  let outside (x : Nat) : Bool := x == 0 || decide (1000 < x)
  f 24 8 % 65536 != 0 || decide (deviceEnd ≤ f 24 8) || f 40 8 % 2 ^ 17 != 0 || decide (f 40 8 < 2 ^ 24 * (blockClusters b).length)
    || outside (f 64 4) || outside (f 68 4) || f 72 2 == 0 || decide (16384 ≤ f 72 2) || decide (15 < f 74 1) || f 75 1 != 0
    || decide (2047 < f 76 2) || decide (2047 < f 78 2) || !zeroRange b 80 48

/-- The partition a create block describes. -/
def Partition.ofBlock (b : List (BitVec 8)) : Partition :=
  let f (o n : Nat) : Nat := field b o n
  { clusters := blockClusters b, root := f 24 8, ctxArea := f 32 8, ctxSize := f 40 8, fq := f 48 8, eq := f 56 8, age := f 64 4
    deadline := f 68 4, privq := f 72 2, fvec := f 76 2, evec := f 78 2, fprod := 0, fcons := 0, eprod := 0, econs := 0, fseq := 0
    faults := [], errs := [], tables := [], queues := [], klis := [], keys := [], launches := [], graphs := [], groups := [], collRuns := []
    hwins := [], logs := [], area := [], visit := [], preempting := [], heldBack := [] }

/-- PCREATE. DEDUCED: log 26. -/
def State.cmdPcreate (s : State) (q : Nat) (c : HostCmd) : State :=
  match s.deviceBytes (c.op 16 8) 128 with
  | none => s.finish q c.n 3
  | some b =>
    let p := field b 74 1
    let ks := blockClusters b
    if !c.unused [(16, 8)] || createBad b || (s.part? p).isSome || ks.any fun k => (s.cluster k).owner.isSome then s.finish q c.n 3
    else
      let s1 : State := { s with parts := NMap.set s.parts p (Partition.ofBlock b) }
      ((List.zip (List.range ks.length) ks).foldl (fun t x => t.assign p x.1 x.2) s1).finish q c.n 0

/-! ### PRESIZE (R347 to R349) -/

/-- The new clusters by ordinal: the map's bytes before the first 0xFF. -/
def resizeMap (b : List (BitVec 8)) : List Nat := (b.takeWhile (· != 0xFF)).map BitVec.toNat

/-- A cluster holds a crew, context, run-queue entry or parked access of a live launch of a partition (R347). -/
def State.clusterBusy (s : State) (p k : Nat) : Bool :=
  ((s.part? p).map fun x => x.launches.any fun l => l.2.crews.any fun c => c.2.cluster == some k).getD false
    || !(s.cluster k).ctxs.isEmpty || !(s.cluster k).migrants.isEmpty
    || (List.range 8).any (fun i => let c := s.cell (8 * k + i); !c.ring.isEmpty || !c.runq.isEmpty)
    || s.parked.any fun y => match y.who with
      | .slot n => clusterOf n == k
      | .hart h => h / 2 == k
      | .coproc j => j == k
      | .view _ => false

/-- No number occurs twice. -/
def allDiffer : List Nat → Bool
  | [] => true
  | x :: r => !r.contains x && allDiffer r

/-- The ordinals of a resize all meet a condition of R347. -/
def State.resizeOk (s : State) (p : Nat) (x : Partition) (m : List Nat) : Bool :=
  m.all (fun k => decide (k < 192)) && allDiffer m && decide (2 ^ 24 * m.length ≤ x.ctxSize)
    && (List.range m.length).all (fun o => x.clusters[o]? == m[o]? || (s.cluster (m.getD o 0)).owner.isNone)
    && (x.clusters.drop m.length).all fun k => !s.clusterBusy p k

/-- Where an address of a cluster's moved spaces goes. -/
def moveAddr (k k' a : Nat) : Nat :=
  match (List.zip (movedRanges k) (movedRanges k')).find? fun r => decide (r.1.1 ≤ a) && decide (a < r.1.1 + r.1.2) with
  | some r => a - r.1.1 + r.2.1
  | none => a

/-- Move the listed bytes of a cluster to another. -/
def moveMem (k k' : Nat) (m : List Host.Cell) : List Host.Cell :=
  let here := m.filter fun c => inRanges (movedRanges k) c.1
  let rest := m.filter fun c => !inRanges (movedRanges k) c.1 && !inRanges (movedRanges k') c.1
  here.foldl (fun r c => Mem.set r (moveAddr k k' c.1) c.2) rest

/-- Move a map that is keyed by address, or by line. -/
def moveMap {α : Type} (unit k k' : Nat) (m : NMap α) : NMap α :=
  let here := m.filter fun c => inRanges (movedRanges k) (unit * c.1)
  let rest := m.filter fun c => !inRanges (movedRanges k) (unit * c.1) && !inRanges (movedRanges k') (unit * c.1)
  here.foldl (fun r c => NMap.set r (moveAddr k k' (unit * c.1) / unit) c.2) rest

/-- A codelet record follows its cell. -/
def CodeletRef.move (k k' : Nat) (r : CodeletRef) : CodeletRef :=
  if r.cell / 8 = k then { r with cell := 8 * k' + r.cell % 8 } else r

/-- A crew follows its cluster. -/
def Crew.move (k k' : Nat) (c : Crew) : Crew :=
  let here := c.cluster == some k
  let queued (e : RunEntry) : RunEntry :=
    let e1 := if here && e.ctx.isSome then e.release else e
    { e1 with codelet := e.codelet.map (CodeletRef.move k k') }
  { c with
    cluster := if c.cluster = some k then some k' else c.cluster
    cells := c.cells.map fun w => if w.1 / 8 = k then (8 * k' + w.1 % 8, w.2) else w
    runq := c.runq.map queued, chain := c.chain.map queued }

/-- An outstanding access to a moved space is performed on the new cluster (R348). -/
def Access.move (k k' : Nat) (x : Access) : Access := { x with parts := x.parts.map fun y => (moveAddr k k' y.1, y.2) }

/-- Move a replaced cluster's state and work to the cluster that takes its ordinal (R348). -/
def State.moveCluster (s : State) (p o k k' : Nat) : State :=
  let c := s.cluster k
  let d := s.cluster k'
  let s1 : State := { s with
    mem := moveMem k k' s.mem, unk := moveMap 1 k k' s.unk, poisoned := moveMap 64 k k' s.poisoned
    resv := s.resv.map fun r => { r with line := moveAddr k k' (64 * r.line) / 64, addr := moveAddr k k' r.addr }
    slots := s.slots.map fun n => (n.1, { n.2 with window := n.2.window.map (Access.move k k') }) }
  let s2 := (List.range 8).foldl (fun t i =>
    let x := t.cell (8 * k + i)
    (t.setCell (8 * k' + i) { x with ring := x.ring.map (CodeletRef.move k k') }).setCell (8 * k + i) Cell.fresh) s1
  let s3 := (s2.setCluster k' { Cluster.fresh with
    owner := some (p, o), sems := c.sems, semWaiters := c.semWaiters, ctxs := c.ctxs.map fun x => (x.1, x.2.release), migrants := c.migrants, corr := d.corr
    refetch := d.refetch }).free k
  s3.modPart p fun x => { x with
    clusters := x.clusters.set o k'
    launches := x.launches.map fun l => (l.1, { l.2 with crews := l.2.crews.map fun y => (y.1, y.2.move k k') }) }

/-- The clusters a resize replaces: ordinal, old, new. -/
def replaced (old new : List Nat) : List (Nat × Nat × Nat) :=
  ((List.zip (List.range new.length) (List.zip old new)).filter fun x => x.2.1 != x.2.2)

/-- The moves of a resize, its added and removed clusters, and the time it took given back to the watchdogs (R348). -/
def State.resizeNow (s : State) (p : Nat) (x : Partition) (m : List Nat) (started : Nat) : State :=
  let s1 := (replaced x.clusters m).foldl (fun t r => t.moveCluster p r.1 r.2.1 r.2.2) s
  let s2 := (x.clusters.drop m.length).foldl State.free s1
  let s3 := ((List.range m.length).drop x.clusters.length).foldl (fun t o => t.assign p o (m.getD o 0)) s2
  let s4 := s3.modPart p fun y => { y with clusters := m }
  { s4 with hqs := s4.hqs.map fun h =>
      (h.1, if h.1 != 0 && h.2.part = p then { h.2 with progressAt := h.2.progressAt + (s.clock - max started h.2.progressAt) } else h.2) }

/-- PRESIZE: its map is read and checked once, and no slot of a replaced or removed cluster is filled from then on; the replaced
clusters are pre-empted, then everything moves in one step. -/
def State.cmdPresize (s : State) (q : Nat) (c : HostCmd) : State :=
  let p := c.op 16 1
  match s.part? p, if c.waiting then some c.block else s.deviceBytes (c.op 24 8) 192 with
  | some x, some b =>
    let m := resizeMap b
    let out := x.clusters.drop m.length
    if c.waiting then
      match x.preempting.find? fun e => e.report == some (q, c.n) with
      | none => s.finish q c.n 0
      | some e =>
        if s.preemptDone e && out.all (fun k => !s.clusterBusy p k) then
          ((s.modPart p fun y => { y with preempting := dropFirst (fun f => f.report == some (q, c.n)) y.preempting }).resizeNow p x m
            c.progress).finish q c.n 0
        else s
    else
      if !c.unused [(16, 1), (24, 8)] || !s.resizeOk p x m then s.finish q c.n 3
      else
        let rs := replaced x.clusters m
        if rs.isEmpty then (s.resizeNow p x m s.clock).finish q c.n 0
        else
          let slots := (rs.map (fun r => r.2.1) ++ out).flatMap fun k => (List.range 128).map (128 * k + ·)
          ((s.preemptSlots p 1 slots [] (some (q, c.n))).modCmd q c.n fun d => { d with progress := s.clock, block := b }).keep q c.n
  | _, _ => s.finish q c.n 3

/-! ### PDESTROY (R350) -/

/-- Disable a queue: what it has fetched is dropped. -/
def HostQueue.disable (x : HostQueue) : HostQueue :=
  { x with ctrl := x.ctrl &&& 0xFFFFFFFE, state := 0, cmds := [], refetch := none, killed := false }

/-- The work of a partition ends: its launches are killed, its queues disabled and its view engines unbound (R350). -/
def State.silence (s : State) (p : Nat) (x : Partition) : State :=
  let s1 := (x.launches.map Prod.fst).foldl (fun t id => t.killLaunch p id) s
  let s2 : State := { s1 with hqs := s1.hqs.map fun h => (h.1, if h.1 != 0 && h.2.part = p then h.2.disable else h.2) }
  ((s2.views.filter fun v => v.2.part == some p).map Prod.fst).foldl State.unbindView s2

/-- PDESTROY: once the crew error records of the kills are in the partition's error queue (R309, R319), the partition goes. DEDUCED: log 26. -/
def State.cmdPdestroy (s : State) (q : Nat) (c : HostCmd) : State :=
  let p := c.op 16 1
  match s.part? p with
  | none => s.finish q c.n 3
  | some x =>
    if !c.unused [(16, 1)] then s.finish q c.n 3
    else
      let s1 := s.silence p x
      if !(((s1.part? p).map Partition.errs).getD []).isEmpty then s1.keep q c.n
      else
        let s2 := x.clusters.foldl State.free s1
        ({ s2 with parts := NMap.erase s2.parts p } : State).finish q c.n 0

/-! ### Dispatch (R287, R336, R341) -/

/-- Which queues accept a command: any of a partition, its privileged queue, or queue 0. -/
inductive QueueCode where
  | any | privileged | module
  deriving DecidableEq, Repr

/-- The queue column of Table 18-6; none for an OPC it does not list. -/
def queueCode (opc : Nat) : Option QueueCode :=
  if 1 ≤ opc && opc ≤ 3 then some .any
  else if 4 ≤ opc && opc ≤ 0x0F then some .privileged
  else if 0x20 ≤ opc && opc ≤ 0x22 then some .module
  else none

/-- A queue accepts a command. DEDUCED: log 22. -/
def State.acceptsOn (s : State) (q : Nat) : QueueCode → Bool
  | .any => true
  | .privileged => q != 0 && (match s.part? (s.hq q).part with
    | some x => x.privq == q
    | none => false)
  | .module => q == 0

/-- Carry out a command of a queue by its OPC. -/
def State.carryOut (s : State) (q : Nat) (c : HostCmd) : State :=
  let p := (s.hq q).part
  match c.opc with
  | 0x01 => s.cmdLaunch q p c
  | 0x02 => s.cmdReplay q p c
  | 0x03 => s.cmdPatch q p c
  | 0x04 => s.cmdQcreate q p c
  | 0x05 => s.cmdQdestroy q p c
  | 0x06 => s.cmdFanswer q p c
  | 0x07 => s.cmdSreset q p c
  | 0x08 => s.cmdVbind q p c
  | 0x09 => s.cmdGroup q p c
  | 0x0A => s.cmdHwin q p c
  | 0x0B => s.cmdLogset q p c
  | 0x0C => s.cmdPpreempt q p c
  | 0x0D => s.cmdRestart q p c
  | 0x0E => s.cmdKload q p c
  | 0x0F => s.cmdKunload q p c
  | 0x20 => s.cmdPcreate q c
  | 0x21 => s.cmdPresize q c
  | 0x22 => s.cmdPdestroy q c
  | _ => s.finish q c.n 3

/-- Run a dispatched command: an unlisted OPC or a nonzero reserved bit is a bad command, and the wrong queue refuses it. DEDUCED: log 22. -/
def State.runCommand (s : State) (q : Nat) (c : HostCmd) : State :=
  match queueCode c.opc with
  | none => s.finish q c.n 3
  | some code =>
    if !s.acceptsOn q code then s.finish q c.n 5
    else if 3 < c.flags || field c.bytes 6 2 != 0 then s.finish q c.n 3
    else s.carryOut q c

/-- Dispatch a queue's head command; queues that are then not eligible lose the rest of their visits (R287). -/
def State.dispatchHead (s : State) (q : Nat) : State :=
  match (s.hq q).head? with
  | none => s
  | some c =>
    let s1 := (s.modCmd q c.n fun d => { d with dispatched := true }).modPart (s.hq q).part (Partition.dispatched q)
    let s2 := s1.runCommand q { c with dispatched := true }
    (s2.queuesOf (s.hq q).part).foldl State.endVisit s2

/-- ARBITER_DISPATCH: the next command of a partition; 16 stands for the module queue. -/
def State.arbiterDispatch (s : State) (p : Nat) : State :=
  if p = 16 then (if s.eligible 0 then s.dispatchHead 0 else s)
  else match s.pickQueue p with
    | none => s
    | some (q, v) => (s.modPart p fun x => { x with visit := v }).dispatchHead q

/-- A command of a queue, by OPC: it is dispatched if it is the head command and its queue the arbiter's choice, or goes on if it
waits. -/
def State.hostCommand (s : State) (opc q : Nat) : State :=
  match (s.hq q).cmds.find? fun c => c.waiting && c.opc == opc with
  | some c => s.carryOut q c
  | none =>
    if ((s.hq q).head?.map HostCmd.opc) != some opc then s
    else if q = 0 then s.arbiterDispatch 16
    else if (s.pickQueue (s.hq q).part).map Prod.fst = some q then s.arbiterDispatch (s.hq q).part
    else s

/-! ### The events -/

/-- ARBITER_DISPATCH. -/
def execArbiterDispatch (part : Nat) (s : State) : Host.Outcome State Fault Refusal := .next (s.arbiterDispatch part)
/-- LAUNCH. -/
def execLaunch (queue : Nat) (s : State) : Host.Outcome State Fault Refusal := .next (s.hostCommand 0x01 queue)
/-- REPLAY. -/
def execReplay (queue : Nat) (s : State) : Host.Outcome State Fault Refusal := .next (s.hostCommand 0x02 queue)
/-- PATCH. -/
def execPatch (queue : Nat) (s : State) : Host.Outcome State Fault Refusal := .next (s.hostCommand 0x03 queue)
/-- PATCH_APPLY: a PATCH that waits for its bank goes on. -/
def execPatchApply (queue : Nat) (s : State) : Host.Outcome State Fault Refusal :=
  .next (match (s.hq queue).cmds.find? fun c => c.waiting && c.opc == 0x03 with
    | some c => s.cmdPatch queue (s.hq queue).part c
    | none => s)
/-- QCREATE. -/
def execQcreate (queue : Nat) (s : State) : Host.Outcome State Fault Refusal := .next (s.hostCommand 0x04 queue)
/-- QDESTROY. -/
def execQdestroy (queue : Nat) (s : State) : Host.Outcome State Fault Refusal := .next (s.hostCommand 0x05 queue)
/-- FANSWER. -/
def execFanswer (queue : Nat) (s : State) : Host.Outcome State Fault Refusal := .next (s.hostCommand 0x06 queue)
/-- SRESET. -/
def execSreset (queue : Nat) (s : State) : Host.Outcome State Fault Refusal := .next (s.hostCommand 0x07 queue)
/-- VBIND. -/
def execVbind (queue : Nat) (s : State) : Host.Outcome State Fault Refusal := .next (s.hostCommand 0x08 queue)
/-- GROUP. -/
def execGroup (queue : Nat) (s : State) : Host.Outcome State Fault Refusal := .next (s.hostCommand 0x09 queue)
/-- HWIN. -/
def execHwin (queue : Nat) (s : State) : Host.Outcome State Fault Refusal := .next (s.hostCommand 0x0A queue)
/-- LOGSET. -/
def execLogset (queue : Nat) (s : State) : Host.Outcome State Fault Refusal := .next (s.hostCommand 0x0B queue)
/-- PPREEMPT. -/
def execPpreempt (queue : Nat) (s : State) : Host.Outcome State Fault Refusal := .next (s.hostCommand 0x0C queue)
/-- RESTART. -/
def execRestart (queue : Nat) (s : State) : Host.Outcome State Fault Refusal := .next (s.hostCommand 0x0D queue)
/-- KLOAD. -/
def execKload (queue : Nat) (s : State) : Host.Outcome State Fault Refusal := .next (s.hostCommand 0x0E queue)
/-- KUNLOAD. -/
def execKunload (queue : Nat) (s : State) : Host.Outcome State Fault Refusal := .next (s.hostCommand 0x0F queue)
/-- PCREATE. -/
def execPcreate (queue : Nat) (s : State) : Host.Outcome State Fault Refusal := .next (s.hostCommand 0x20 queue)
/-- PRESIZE. -/
def execPresize (queue : Nat) (s : State) : Host.Outcome State Fault Refusal := .next (s.hostCommand 0x21 queue)
/-- PDESTROY. -/
def execPdestroy (queue : Nat) (s : State) : Host.Outcome State Fault Refusal := .next (s.hostCommand 0x22 queue)

end Sys2Proof.Machine
end

