-- ==== Sys2Proof/Machine/Bringup.lean ====
section
/-! DEFINITION. Bring-up and reset (R364, R366, R367), the firmware mailbox (R365), attestation (R369), and what the host reads in
BAR0 (Tables 18-2, 18-3, 18-11, 18-12, 19-3 to 19-5, R346). -/
namespace Sys2Proof.Machine

/-! ### Reset (R367) -/

/-- The firmware a reset runs: a verified staged image replaces the running one (R364). -/
def State.nextFirmware (s : State) : List (BitVec 8) := s.staged.getD s.firmware

/-- Link n after calibration (Table 18-12). -/
def trainedLink (hasp : BitVec 12) (peers : List (BitVec 16)) (n : Nat) : Link :=
  if hasp.getLsbD n then { Link.fresh with peer := peers.getD n 0, up := true, trained := true } else Link.fresh

/-- Everything at its reset value but what outlives a reset: the memories outside the module, and the device memory with its line states
and poison unless the reset reaches memory initialisation (`init`; R254); the firmware store, what the host has yet to see, and the
model's own counters and agenda. DESIGN CHOICE: log 14. -/
def State.afterReset (s : State) (init : Bool) : State :=
  let keeps (a : Nat) : Bool := decide (hostBase ≤ a) || (!init && decide (a < deviceEnd))
  { State.reset with
    mem := s.mem.filter fun x => keeps x.1, unk := s.unk.filter fun x => keeps x.1
    lines := if init then [] else s.lines, poisoned := s.poisoned.filter fun x => !init && decide (64 * x.1 < deviceEnd)
    firmware := s.nextFirmware, irqs := s.irqs, hostRead := s.hostRead, fresh := s.fresh, serial := s.serial, agenda := s.agenda }

/-- MODULE_RESET: firmware verification, calibration, memory initialisation, READY. `ok` says whether the firmware verifies, `hbm`
and `hasp` which stacks and links train, `peers` the module at the far end of each link. DESIGN CHOICE: log 14. -/
def State.moduleReset (s : State) (ok : Bool) (hbm : BitVec 8) (hasp : BitVec 12) (peers : List (BitVec 16)) : State :=
  let s1 := s.afterReset (ok && hbm == 0xFF)
  if !ok then { s1 with fwfail := true, phase := 15 }
  else
    let s2 := { s1 with hbmok := hbm, haspup := hasp, links := (List.range 12).map fun n => (n, trainedLink hasp peers n) }
    if hbm = 0xFF then { s2 with ready := true, phase := 3 } else { s2 with phase := 15 }

/-! ### The firmware mailbox (R365) -/

/-- The mailbox is at work on a command. -/
def State.mailboxAt (s : State) (cmd : BitVec 32) : Bool := s.ready && s.fwStatus == 1 && s.fwCmd == cmd

/-- The module's work ends: STATUS takes the outcome and VECTOR is raised. -/
def State.mailboxEnd (s : State) (status : BitVec 32) : State := { s with fwStatus := status }.raise s.fwVector.toNat

/-- CMD 1: an image that verifies is staged; after one that does not, nothing is. DESIGN CHOICE: log 15. -/
def State.stageImage (s : State) (ok : Bool) : State :=
  if !s.mailboxAt 1 then s
  else
    match s.deviceBytes s.fwAddr.toNat s.fwLen.toNat with
    | some b => if ok then { s with staged := some b }.mailboxEnd 2 else { s with staged := none }.mailboxEnd 3
    | none => { s with staged := none }.mailboxEnd 3

/-- PART and KEYSLOT name a key slot of a live partition. -/
def State.keySlotOk (s : State) : Bool := decide (s.fwKeySlot.toNat < 8) && (s.part? s.fwPart.toNat).isSome

/-- CMD 2: the key at ADDR goes into the slot. DESIGN CHOICE: log 15. -/
def State.installKey (s : State) : State :=
  if !s.mailboxAt 2 then s
  else
    match s.keySlotOk, s.deviceBytes s.fwAddr.toNat 2592 with
    | true, some k => (s.modPart s.fwPart.toNat fun x => { x with keys := NMap.set x.keys s.fwKeySlot.toNat k }).mailboxEnd 2
    | _, _ => s.mailboxEnd 4

/-- CMD 3: the slot is emptied. -/
def State.removeKey (s : State) : State :=
  if !s.mailboxAt 3 then s
  else if s.keySlotOk then (s.modPart s.fwPart.toNat fun x => { x with keys := NMap.erase x.keys s.fwKeySlot.toNat }).mailboxEnd 2
  else s.mailboxEnd 4

/-- Any other CMD. -/
def State.badMailbox (s : State) : State :=
  if s.ready && s.fwStatus == 1 && s.fwCmd != 1 && s.fwCmd != 2 && s.fwCmd != 3 then s.mailboxEnd 4 else s

/-! ### Attestation (R369) -/

/-- The write of nonce bytes 56 to 63 asks for the nonce that now stands there. DEDUCED: log 16. -/
def State.askReport (s : State) (v : BitVec 64) : State :=
  let n := s.nonce.take 56 ++ wordOf v
  { s with nonce := n, asked := n, astat := 1 }

/-- The entries of the report, by partition and KLI slot. -/
def State.reportEntries (s : State) : List (BitVec 8) :=
  s.parts.flatMap fun p => p.2.klis.flatMap fun k => [BitVec.ofNat 8 p.1, BitVec.ofNat 8 k.1] ++ zeros 6 ++ k.2.digest

/-- The report's bytes before its signature (Table 19-4). -/
def State.reportBody (s : State) : List (BitVec 8) :=
  let e := s.reportEntries
  let n := e.length / 72
  s.asked ++ wordOf Config.serialNo ++ wordOf (Config.firmwareVersion s.firmware) ++ sha3 s.firmware ++ leBytes n 4
    ++ leBytes (160 + 72 * n + 4627) 4 ++ zeros 8 ++ e

/-- ATTESTATION_REPORT: the report is written, and then ASTAT is 2. DEDUCED: log 16. -/
def State.writeReport (s : State) : State :=
  if s.astat = 1 then
    let b := s.reportBody
    { s with report := b ++ (List.range 4627).map (Config.mldsaSign (sha3 b)), astat := 2 }
  else s

/-! ### What the host reads in BAR0 -/

/-- A word from two halves of 32 bits, the lower first. -/
def halves (lo hi : Nat) : BitVec 64 := BitVec.ofNat 64 (lo % 2 ^ 32 + hi % 2 ^ 32 * 2 ^ 32)

/-- Module status (Table 19-3): the word at an offset that is a multiple of 8. -/
def State.statusWord (s : State) (off : Nat) : BitVec 64 :=
  if off = 0 then
    BitVec.ofNat 64 (s.ready.toNat + s.fwfail.toNat * 8 + s.phase * 16 + s.hbmok.toNat * 2 ^ 28 + s.haspup.toNat * 2 ^ 36)
  else if off = 0x08 then s.wbase
  else if off = 0x10 then Config.serialNo
  else if off = 0x18 then Config.firmwareVersion s.firmware
  else if 0x40 ≤ off && off < 0x80 then wordAt Config.idKey (off - 0x40)
  else if 0x1000 ≤ off && off < 0x1000 + 8 * 192 then
    let c := s.cluster ((off - 0x1000) / 8)
    halves c.corr c.refetch
  else 0

/-- A queue descriptor (Table 18-3). -/
def State.queueWord (s : State) (q off : Nat) : BitVec 64 :=
  let x := s.hq q
  match off with
  | 0 => x.ring
  | 8 => x.cring
  | 16 => halves x.ctrl.toNat (x.vector.toNat + x.state * 2 ^ 16)
  | 24 => halves x.cons.toNat x.ccons.toNat
  | 32 => halves x.t1.toNat x.t2.toNat
  | 40 => halves x.prod.toNat 0
  | _ => 0

/-- A partition block (R346). -/
def State.partitionWord (s : State) (p off : Nat) : BitVec 64 :=
  match s.part? p, off with
  | some x, 0 => halves x.fprod.toNat x.fcons.toNat
  | some x, 8 => halves x.eprod.toNat x.econs.toNat
  | _, _ => 0

/-- A view-engine block (Table 18-11). -/
def State.viewWord (s : State) (e off : Nat) : BitVec 64 :=
  let v := s.view e
  match off with
  | 0x00 => halves v.prod.toNat v.cons.toNat
  | 0x08 => BitVec.ofNat 64 (v.part.isSome.toNat + v.fault.toNat * 2 + v.waitRing.toNat * 4 + v.part.getD 0 * 2 ^ 16)
  | 0x10 => v.frames
  | 0x18 => v.fframe
  | 0x20 => BitVec.ofNat 64 (v.fcause.toNat + v.fphase * 2 ^ 16)
  | 0x28 => v.vector.setWidth 64
  | _ => 0

/-- A Hasp link block (Table 18-12): a link to a module of this one's own number carries no traffic, so UP reads 0 (R356). -/
def State.linkWord (s : State) (n off : Nat) : BitVec 64 :=
  let l := s.link n
  match off with
  | 0x00 => BitVec.ofNat 64 (l.trained.toNat + (s.carries l l.peer.toNat).toNat * 2 + l.peer.toNat * 2 ^ 32)
  | 0x08 => l.replays
  | 0x10 => l.downs
  | 0x18 => l.flits
  | 0x20 => l.vector.setWidth 64
  | 0x28 => s.moduleNo.setWidth 64
  | _ => 0

/-- The firmware mailbox (Table 19-5). -/
def State.mailboxWord (s : State) (off : Nat) : BitVec 64 :=
  match off with
  | 0x00 => halves s.fwCmd.toNat s.fwStatus.toNat
  | 0x08 => s.fwAddr
  | 0x10 => s.fwLen
  | 0x18 => BitVec.ofNat 64 (s.fwPart.toNat + s.fwKeySlot.toNat * 256)
  | 0x20 => s.fwVector.setWidth 64
  | _ => 0

/-- 64 bits of the MSI-X pending-bit array from a vector on. PRESUMED: log 67. -/
def State.pendingBits (s : State) (v : Nat) : BitVec 64 :=
  BitVec.ofNat 64 ((List.range 64).foldl (fun m i => if s.msixPending.contains (v + i) then m + 2 ^ i else m) 0)

/-- The eight bytes a host reads at a BAR0 offset that is a multiple of 8 (R335): an unlisted offset reads 0. DESIGN CHOICE: log 17. -/
def State.bar0Read (s : State) (off : Nat) : BitVec 64 :=
  if off < 0x10000 then s.statusWord off
  else if off < 0x18000 then BitVec.ofNat 64 (leNat ((List.range 8).map fun i => NMap.getD s.msixTable (off - 0x10000 + i) 0))
  else if off < 0x18100 then s.pendingBits ((off - 0x18000) * 8)
  else if 0x100000 ≤ off && off < 0x200000 then s.queueWord ((off - 0x100000) / 64) (off % 64)
  else if 0x200000 ≤ off && off < 0x300000 then s.partitionWord ((off - 0x200000) / 65536) (off % 65536)
  else if 0x300000 ≤ off && off < 0x310000 then s.viewWord ((off - 0x300000) / 4096) (off % 4096)
  else if 0x310000 ≤ off && off < 0x31C000 then s.linkWord ((off - 0x310000) / 4096) (off % 4096)
  else if 0x400000 ≤ off && off < 0x400040 then wordAt s.nonce (off - 0x400000)
  else if off = 0x400040 then s.astat.setWidth 64
  else if 0x401000 ≤ off && off < 0x700000 then wordAt s.report (off - 0x401000)
  else if 0x700000 ≤ off && off < 0x701000 then s.mailboxWord (off - 0x700000)
  else 0

/-! ### The events -/

/-- MODULE_RESET. -/
def execModuleReset (ok : Bool) (hbm : BitVec 8) (hasp : BitVec 12) (peers : List (BitVec 16)) (s : State) :
    Host.Outcome State Fault Refusal := .next (s.moduleReset ok hbm hasp peers)
/-- FIRMWARE_STAGE_IMAGE: `ok` says whether the image verifies. -/
def execFirmwareStageImage (ok : Bool) (s : State) : Host.Outcome State Fault Refusal := .next (s.stageImage ok)
/-- INSTALL_IMAGE_KEY. -/
def execInstallImageKey (s : State) : Host.Outcome State Fault Refusal := .next s.installKey
/-- REMOVE_IMAGE_KEY. -/
def execRemoveImageKey (s : State) : Host.Outcome State Fault Refusal := .next s.removeKey
/-- FIRMWARE_BAD_COMMAND. -/
def execFirmwareBadCommand (s : State) : Host.Outcome State Fault Refusal := .next s.badMailbox
/-- ATTESTATION_REQUEST: `val` is what the host writes to bytes 56 to 63. -/
def execAttestationRequest (val : BitVec 64) (s : State) : Host.Outcome State Fault Refusal := .next (s.ifReady (s.askReport val))
/-- ATTESTATION_REPORT. -/
def execAttestationReport (s : State) : Host.Outcome State Fault Refusal := .next s.writeReport

end Sys2Proof.Machine
end

