-- ==== Sys2Proof/Machine/Scalar.lean ====
section
/-! DEFINITION. Scalar, predicate and control instructions (05_scalar_and_control_instructions), but for CALL, CALLX and
RET, which move register-stack entries (Machine/Calls.lean). -/
namespace Sys2Proof.Machine

/-! ### Arithmetic (R99, R104) -/

/-- div_s: signed quotient and remainder, truncating toward zero (R99). -/
def divS {n : Nat} (a b : BitVec n) : BitVec n × BitVec n :=
  if b = 0 then (BitVec.allOnes n, a)
  else if a = BitVec.intMin n ∧ b = BitVec.allOnes n then (a, 0)
  else
    let q := BitVec.ofInt n (a.toInt.tdiv b.toInt)
    (q, a - q * b)

/-- The twelve functions of Table 5-3 at width n. -/
inductive AluFn where
  | add | sub | mul | mulh | div | rem | and | or | xor | andn | min | max
  deriving DecidableEq, Repr

/-- r of Table 5-3. -/
def AluFn.eval {n : Nat} (f : AluFn) (x y : BitVec n) : BitVec n :=
  match f with
  | .add => x + y
  | .sub => x - y
  | .mul => x * y
  | .mulh => BitVec.ofInt n ((x.toInt * y.toInt) / 2 ^ n)
  | .div => (divS x y).1
  | .rem => (divS x y).2
  | .and => x &&& y
  | .or => x ||| y
  | .xor => x ^^^ y
  | .andn => x &&& ~~~y
  | .min => if y.slt x then y else x
  | .max => if x.slt y then y else x

/-- The .d form (R104). -/
def AluFn.d (f : AluFn) (x y : BitVec 64) : BitVec 64 := f.eval x y
/-- The .w form: 32 bits, sign-extended (R104). -/
def AluFn.w (f : AluFn) (x y : BitVec 64) : BitVec 64 := (f.eval (x.setWidth 32) (y.setWidth 32)).signExtend 64

/-- The shift functions at width n (R106). -/
inductive ShiftFn where
  | shl | shr | sar | rol
  deriving DecidableEq, Repr

/-- r of R106 for a shift by c. -/
def ShiftFn.eval {n : Nat} (f : ShiftFn) (x : BitVec n) (c : Nat) : BitVec n :=
  match f with
  | .shl => x <<< c
  | .shr => x >>> c
  | .sar => x.sshiftRight c
  | .rol => x.rotateLeft c

/-- A shift of either width: the count is the low 6 or 5 bits (R105, R106). -/
def ShiftFn.at (f : ShiftFn) (w : Bool) (x b : BitVec 64) : BitVec 64 :=
  if w then (f.eval (x.setWidth 32) (b.toNat % 32)).signExtend 64 else f.eval x (b.toNat % 64)

/-- The number of leading zero bits of the low n bits (R106). -/
def clzN (n x : Nat) : Nat := if x = 0 then n else n - 1 - Nat.log2 x
/-- The number of trailing zero bits among the low n bits (R106). -/
def ctzN (x : BitVec 64) : Nat → Nat → Nat
  | 0, i => i
  | k + 1, i => if x.getLsbD i then i else ctzN x k (i + 1)
/-- The number of one bits among the low n bits (R106). -/
def popN (x : BitVec 64) : Nat → Nat
  | 0 => 0
  | k + 1 => (if x.getLsbD k then 1 else 0) + popN x k

/-- CLZ, CTZ, POPC of either width (R106). -/
def countOf (w : Bool) (f : Nat → BitVec 64 → Nat) (x : BitVec 64) : BitVec 64 :=
  let n := if w then 32 else 64
  BitVec.ofNat 64 (f n (if w then (x.setWidth 32).setWidth 64 else x))

/-- BREV of either width (R106). -/
def brev (w : Bool) (x : BitVec 64) : BitVec 64 :=
  if w then ((x.setWidth 32).reverse).signExtend 64 else x.reverse

/-- RNG (R114): four rounds from round key k. -/
def rngRounds : Nat → BitVec 64 → BitVec 64 → BitVec 64
  | 0, _, x => x
  | n + 1, k, x =>
    let y := (x ^^^ k) * 0xE35A7B1D4C960F2B#64
    rngRounds n (k + 0x5C2F91D83A67E40B#64) (y ^^^ (y >>> 32))

/-- rng(key, ctr) (R114). -/
def rng (key ctr : BitVec 64) : BitVec 64 := rngRounds 4 key ctr

/-- The conditions of CMP (R110). -/
inductive CmpFn where
  | eq | ne | lt | ge | ltu | geu
  deriving DecidableEq, Repr

/-- The truth of a condition on operands already cut to the width (R110). -/
def CmpFn.holds {n : Nat} (f : CmpFn) (x y : BitVec n) : Bool :=
  match f with
  | .eq => x == y
  | .ne => x != y
  | .lt => x.slt y
  | .ge => y.sle x
  | .ltu => x.ult y
  | .geu => y.ule x

/-- The mask CMP writes (R110). -/
def CmpFn.mask (f : CmpFn) (w : Bool) (x y : BitVec 64) : BitVec 16 :=
  if (if w then f.holds (x.setWidth 32) (y.setWidth 32) else f.holds x y) then BitVec.allOnes 16 else 0

/-- EXT (R109). -/
def extField (pos len : BitVec 6) (a : BitVec 64) : BitVec 64 :=
  (a >>> pos.toNat) &&& BitVec.ofNat 64 (2 ^ (len.toNat + 1) - 1)

/-- INS (R109). -/
def insField (pos len : BitVec 6) (a old : BitVec 64) : BitVec 64 :=
  let m := BitVec.ofNat 64 (2 ^ (len.toNat + 1) - 1)
  (old &&& ~~~(m <<< pos.toNat)) ||| ((a &&& m) <<< pos.toNat)

/-! ### Shared registers (R16) -/

/-- A shared register of a cell. -/
def Cell.hreg (c : Cell) (k : BitVec 3) : HReg := NMap.getD c.hregs k.toNat ⟨0, []⟩

/-- The values a read may return, the certain one last: the writes of other strands in the last 8 cycles, then the latest
write that is older or the reader's own, or else the value when last zeroed (R16). -/
def HReg.candidates (now uid : Nat) (base : BitVec 64) : List (Nat × Nat × BitVec 64) → List (BitVec 64)
  | [] => [base]
  | (at_, who, v) :: r => if at_ + 8 ≤ now || who == uid then [v] else v :: HReg.candidates now uid base r

/-- The writes still needed: up to the latest one that every reader is certain to see (R16). -/
def HReg.keep (now : Nat) : List (Nat × Nat × BitVec 64) → List (Nat × Nat × BitVec 64)
  | [] => []
  | w :: r => if w.1 + 8 ≤ now then [w] else w :: HReg.keep now r

/-- MOVH from a shared register (R113). -/
def movhFrom (g : Guard) (d : Reg) (a : BitVec 3) : Strand → State → Out :=
  guarded g 1 fun st s =>
    (readSources st s [] (some d)).andThen s fun r =>
      let h := (r.2.cell (cellOf s.actor)).hreg a
      match HReg.candidates s.clock st.uid h.base h.writes with
      | [v] => .ok (writeDest (st.advance 1) r.2 d v)
      | vs =>
        let (k, s') := r.2.choose vs.length
        .ok (writeDest (st.advance 1) s' d (vs.getD k 0))

/-- MOVH to a shared register (R113); one that waited for its port word writes in the cycle of the retry that pops it. DEDUCED: log 10. -/
def movhTo (g : Guard) (d : BitVec 3) (a : Reg) : Strand → State → Out :=
  guarded g 1 fun st s =>
    (readSources st s [a] none).andThen s fun r =>
      let cell := cellOf s.actor
      let c := r.2.cell cell
      let h := c.hreg d
      let h' : HReg := ⟨h.base, (s.clock, st.uid, src r.1 0) :: HReg.keep s.clock h.writes⟩
      .ok ((r.2.setCell cell { c with hregs := NMap.set c.hregs d.toNat h' }).setMe (st.advance 1))

/-! ### Control transfer (R115 to R120) -/

/-- A word offset as bytes, modulo 2^64 (R63). -/
def wordOffset {n : Nat} (off : BitVec n) : BitVec 64 := off.signExtend 64 <<< 2

/-- BR (R115): to the target when the guard allows, else past the branch. -/
def branch (g : Guard) (off : BitVec 19) (st : Strand) (s : State) : Out :=
  .ok (s.setMe (if st.allows g then st.jump (st.pc + wordOffset off) else st.advance 1))

/-- LOOP (R120). -/
def loopBody (d : Reg) (imm : BitVec 13) (st : Strand) (s : State) : Out :=
  (readSources st s [d] (some d)).andThen s fun r =>
    let t := src r.1 0 - 1
    let st' := st.setG d t
    .ok (r.2.setMe (if t = 0 then st'.advance 1 else st'.jump (st.pc + wordOffset imm)))

/-- JMPX (R117). -/
def jmpxBody (g : Guard) (a : Reg) : Strand → State → Out :=
  guarded g 1 fun st s =>
    (readSources st s [a] none).andThen s fun r =>
      let t := src r.1 0
      if t.extractLsb' 0 2 = 0 then .ok (r.2.setMe (st.jump t)) else .trap (alignTrap 1 t)

/-- HALT: a strand that has poison to report traps instead (R123, R130). -/
def haltBody (g : Guard) : Strand → State → Out :=
  guarded g 1 fun st s =>
    match st.poison with
    | p :: _ => if st.drained then .trap (translation 4 p.2) else .wait .poll s
    | [] => .ok ((s.setMe { st with held := some (.halt g) }).haltStrand s.actor)

/-- PLOG (R111): bit by bit over all 16 bits. -/
def plogBody (g : Guard) (d a b : BitVec 3) (f : BitVec 16 → BitVec 16 → BitVec 16) : Strand → State → Out :=
  guarded g 1 fun st s => .ok (s.setMe ((st.setP d (f (st.p a) (st.p b))).advance 1))

/-- SEL (R112): both sources are read whichever is chosen. -/
def selBody (g : Guard) (inv : Bool) (sel : BitVec 3) (d a b : Reg) : Strand → State → Out :=
  guarded g 1 fun st s =>
    (readSources st s [a, b] (some d)).andThen s fun r =>
      let c := (st.p sel).getLsbD 0 ^^ inv
      .ok (writeDest (st.advance 1) r.2 d (if c then src r.1 0 else src r.1 1))

/-- YIELD (R122): the slot stays ready, but its turn is given up from this cycle on. -/
def yieldBody (g : Guard) : Strand → State → Out :=
  guarded g 1 fun st s => .ok (s.setMe ((({ st with yielded := some (s.clock, []) } : Strand)).advance 1))

/-! ### The instructions -/

/-- NOP (R121): only the PC advances, whatever the guard fields. -/
def execNop (_g : Guard) (s : State) : Host.Outcome State Fault Refusal :=
  runBody (fun st s => .ok (s.setMe (st.advance 1))) s

/-- YIELD (R122). -/
def execYield (g : Guard) (s : State) : Host.Outcome State Fault Refusal :=
  runBody (yieldBody g) s

/-- HALT (R123). -/
def execHalt (g : Guard) (s : State) : Host.Outcome State Fault Refusal :=
  runBody (haltBody g) s

/-- MOVH gD, hA (R113). -/
def execMovhFromShared (g : Guard) (d : Reg) (a : BitVec 3) (s : State) : Host.Outcome State Fault Refusal :=
  runBody (movhFrom g d a) s

/-- MOVH hD, gA (R113). -/
def execMovhToShared (g : Guard) (d : BitVec 3) (a : Reg) (s : State) : Host.Outcome State Fault Refusal :=
  runBody (movhTo g d a) s

/-- RNG (R114). -/
def execRng (g : Guard) (d a b : Reg) (s : State) : Host.Outcome State Fault Refusal :=
  runBody (regReg g d a b rng) s

/-- JMPX (R117). -/
def execJmpx (g : Guard) (a : Reg) (s : State) : Host.Outcome State Fault Refusal :=
  runBody (jmpxBody g a) s

/-- ADD gD, gA, gB (R104). -/
def execAdd (g : Guard) (d a b : Reg) (s : State) : Host.Outcome State Fault Refusal :=
  runBody (regReg g d a b (AluFn.d .add)) s

/-- ADD gD, gA, imm (R104). -/
def execAddLiteral (g : Guard) (d a : Reg) (lit : BitVec 64) (s : State) : Host.Outcome State Fault Refusal :=
  runBody (regLit g d a lit (AluFn.d .add)) s

/-- SUB gD, gA, gB (R104). -/
def execSub (g : Guard) (d a b : Reg) (s : State) : Host.Outcome State Fault Refusal :=
  runBody (regReg g d a b (AluFn.d .sub)) s

/-- SUB gD, gA, imm (R104). -/
def execSubLiteral (g : Guard) (d a : Reg) (lit : BitVec 64) (s : State) : Host.Outcome State Fault Refusal :=
  runBody (regLit g d a lit (AluFn.d .sub)) s

/-- MUL gD, gA, gB (R104). -/
def execMul (g : Guard) (d a b : Reg) (s : State) : Host.Outcome State Fault Refusal :=
  runBody (regReg g d a b (AluFn.d .mul)) s

/-- MUL gD, gA, imm (R104). -/
def execMulLiteral (g : Guard) (d a : Reg) (lit : BitVec 64) (s : State) : Host.Outcome State Fault Refusal :=
  runBody (regLit g d a lit (AluFn.d .mul)) s

/-- MULH gD, gA, gB (R104). -/
def execMulh (g : Guard) (d a b : Reg) (s : State) : Host.Outcome State Fault Refusal :=
  runBody (regReg g d a b (AluFn.d .mulh)) s

/-- MULH gD, gA, imm (R104). -/
def execMulhLiteral (g : Guard) (d a : Reg) (lit : BitVec 64) (s : State) : Host.Outcome State Fault Refusal :=
  runBody (regLit g d a lit (AluFn.d .mulh)) s

/-- DIV gD, gA, gB (R104). -/
def execDiv (g : Guard) (d a b : Reg) (s : State) : Host.Outcome State Fault Refusal :=
  runBody (regReg g d a b (AluFn.d .div)) s

/-- DIV gD, gA, imm (R104). -/
def execDivLiteral (g : Guard) (d a : Reg) (lit : BitVec 64) (s : State) : Host.Outcome State Fault Refusal :=
  runBody (regLit g d a lit (AluFn.d .div)) s

/-- REM gD, gA, gB (R104). -/
def execRem (g : Guard) (d a b : Reg) (s : State) : Host.Outcome State Fault Refusal :=
  runBody (regReg g d a b (AluFn.d .rem)) s

/-- REM gD, gA, imm (R104). -/
def execRemLiteral (g : Guard) (d a : Reg) (lit : BitVec 64) (s : State) : Host.Outcome State Fault Refusal :=
  runBody (regLit g d a lit (AluFn.d .rem)) s

/-- AND gD, gA, gB (R104). -/
def execAnd (g : Guard) (d a b : Reg) (s : State) : Host.Outcome State Fault Refusal :=
  runBody (regReg g d a b (AluFn.d .and)) s

/-- AND gD, gA, imm (R104). -/
def execAndLiteral (g : Guard) (d a : Reg) (lit : BitVec 64) (s : State) : Host.Outcome State Fault Refusal :=
  runBody (regLit g d a lit (AluFn.d .and)) s

/-- OR gD, gA, gB (R104). -/
def execOr (g : Guard) (d a b : Reg) (s : State) : Host.Outcome State Fault Refusal :=
  runBody (regReg g d a b (AluFn.d .or)) s

/-- OR gD, gA, imm (R104). -/
def execOrLiteral (g : Guard) (d a : Reg) (lit : BitVec 64) (s : State) : Host.Outcome State Fault Refusal :=
  runBody (regLit g d a lit (AluFn.d .or)) s

/-- XOR gD, gA, gB (R104). -/
def execXor (g : Guard) (d a b : Reg) (s : State) : Host.Outcome State Fault Refusal :=
  runBody (regReg g d a b (AluFn.d .xor)) s

/-- XOR gD, gA, imm (R104). -/
def execXorLiteral (g : Guard) (d a : Reg) (lit : BitVec 64) (s : State) : Host.Outcome State Fault Refusal :=
  runBody (regLit g d a lit (AluFn.d .xor)) s

/-- ANDN gD, gA, gB (R104). -/
def execAndn (g : Guard) (d a b : Reg) (s : State) : Host.Outcome State Fault Refusal :=
  runBody (regReg g d a b (AluFn.d .andn)) s

/-- ANDN gD, gA, imm (R104). -/
def execAndnLiteral (g : Guard) (d a : Reg) (lit : BitVec 64) (s : State) : Host.Outcome State Fault Refusal :=
  runBody (regLit g d a lit (AluFn.d .andn)) s

/-- MIN gD, gA, gB (R104). -/
def execMin (g : Guard) (d a b : Reg) (s : State) : Host.Outcome State Fault Refusal :=
  runBody (regReg g d a b (AluFn.d .min)) s

/-- MIN gD, gA, imm (R104). -/
def execMinLiteral (g : Guard) (d a : Reg) (lit : BitVec 64) (s : State) : Host.Outcome State Fault Refusal :=
  runBody (regLit g d a lit (AluFn.d .min)) s

/-- MAX gD, gA, gB (R104). -/
def execMax (g : Guard) (d a b : Reg) (s : State) : Host.Outcome State Fault Refusal :=
  runBody (regReg g d a b (AluFn.d .max)) s

/-- MAX gD, gA, imm (R104). -/
def execMaxLiteral (g : Guard) (d a : Reg) (lit : BitVec 64) (s : State) : Host.Outcome State Fault Refusal :=
  runBody (regLit g d a lit (AluFn.d .max)) s

/-- ADD.w gD, gA, gB (R104). -/
def execAddW (g : Guard) (d a b : Reg) (s : State) : Host.Outcome State Fault Refusal :=
  runBody (regReg g d a b (AluFn.w .add)) s

/-- ADD.w gD, gA, imm (R104). -/
def execAddWLiteral (g : Guard) (d a : Reg) (lit : BitVec 64) (s : State) : Host.Outcome State Fault Refusal :=
  runBody (regLit g d a lit (AluFn.w .add)) s

/-- SUB.w gD, gA, gB (R104). -/
def execSubW (g : Guard) (d a b : Reg) (s : State) : Host.Outcome State Fault Refusal :=
  runBody (regReg g d a b (AluFn.w .sub)) s

/-- SUB.w gD, gA, imm (R104). -/
def execSubWLiteral (g : Guard) (d a : Reg) (lit : BitVec 64) (s : State) : Host.Outcome State Fault Refusal :=
  runBody (regLit g d a lit (AluFn.w .sub)) s

/-- MUL.w gD, gA, gB (R104). -/
def execMulW (g : Guard) (d a b : Reg) (s : State) : Host.Outcome State Fault Refusal :=
  runBody (regReg g d a b (AluFn.w .mul)) s

/-- MUL.w gD, gA, imm (R104). -/
def execMulWLiteral (g : Guard) (d a : Reg) (lit : BitVec 64) (s : State) : Host.Outcome State Fault Refusal :=
  runBody (regLit g d a lit (AluFn.w .mul)) s

/-- MULH.w gD, gA, gB (R104). -/
def execMulhW (g : Guard) (d a b : Reg) (s : State) : Host.Outcome State Fault Refusal :=
  runBody (regReg g d a b (AluFn.w .mulh)) s

/-- MULH.w gD, gA, imm (R104). -/
def execMulhWLiteral (g : Guard) (d a : Reg) (lit : BitVec 64) (s : State) : Host.Outcome State Fault Refusal :=
  runBody (regLit g d a lit (AluFn.w .mulh)) s

/-- DIV.w gD, gA, gB (R104). -/
def execDivW (g : Guard) (d a b : Reg) (s : State) : Host.Outcome State Fault Refusal :=
  runBody (regReg g d a b (AluFn.w .div)) s

/-- DIV.w gD, gA, imm (R104). -/
def execDivWLiteral (g : Guard) (d a : Reg) (lit : BitVec 64) (s : State) : Host.Outcome State Fault Refusal :=
  runBody (regLit g d a lit (AluFn.w .div)) s

/-- REM.w gD, gA, gB (R104). -/
def execRemW (g : Guard) (d a b : Reg) (s : State) : Host.Outcome State Fault Refusal :=
  runBody (regReg g d a b (AluFn.w .rem)) s

/-- REM.w gD, gA, imm (R104). -/
def execRemWLiteral (g : Guard) (d a : Reg) (lit : BitVec 64) (s : State) : Host.Outcome State Fault Refusal :=
  runBody (regLit g d a lit (AluFn.w .rem)) s

/-- AND.w gD, gA, gB (R104). -/
def execAndW (g : Guard) (d a b : Reg) (s : State) : Host.Outcome State Fault Refusal :=
  runBody (regReg g d a b (AluFn.w .and)) s

/-- AND.w gD, gA, imm (R104). -/
def execAndWLiteral (g : Guard) (d a : Reg) (lit : BitVec 64) (s : State) : Host.Outcome State Fault Refusal :=
  runBody (regLit g d a lit (AluFn.w .and)) s

/-- OR.w gD, gA, gB (R104). -/
def execOrW (g : Guard) (d a b : Reg) (s : State) : Host.Outcome State Fault Refusal :=
  runBody (regReg g d a b (AluFn.w .or)) s

/-- OR.w gD, gA, imm (R104). -/
def execOrWLiteral (g : Guard) (d a : Reg) (lit : BitVec 64) (s : State) : Host.Outcome State Fault Refusal :=
  runBody (regLit g d a lit (AluFn.w .or)) s

/-- XOR.w gD, gA, gB (R104). -/
def execXorW (g : Guard) (d a b : Reg) (s : State) : Host.Outcome State Fault Refusal :=
  runBody (regReg g d a b (AluFn.w .xor)) s

/-- XOR.w gD, gA, imm (R104). -/
def execXorWLiteral (g : Guard) (d a : Reg) (lit : BitVec 64) (s : State) : Host.Outcome State Fault Refusal :=
  runBody (regLit g d a lit (AluFn.w .xor)) s

/-- ANDN.w gD, gA, gB (R104). -/
def execAndnW (g : Guard) (d a b : Reg) (s : State) : Host.Outcome State Fault Refusal :=
  runBody (regReg g d a b (AluFn.w .andn)) s

/-- ANDN.w gD, gA, imm (R104). -/
def execAndnWLiteral (g : Guard) (d a : Reg) (lit : BitVec 64) (s : State) : Host.Outcome State Fault Refusal :=
  runBody (regLit g d a lit (AluFn.w .andn)) s

/-- MIN.w gD, gA, gB (R104). -/
def execMinW (g : Guard) (d a b : Reg) (s : State) : Host.Outcome State Fault Refusal :=
  runBody (regReg g d a b (AluFn.w .min)) s

/-- MIN.w gD, gA, imm (R104). -/
def execMinWLiteral (g : Guard) (d a : Reg) (lit : BitVec 64) (s : State) : Host.Outcome State Fault Refusal :=
  runBody (regLit g d a lit (AluFn.w .min)) s

/-- MAX.w gD, gA, gB (R104). -/
def execMaxW (g : Guard) (d a b : Reg) (s : State) : Host.Outcome State Fault Refusal :=
  runBody (regReg g d a b (AluFn.w .max)) s

/-- MAX.w gD, gA, imm (R104). -/
def execMaxWLiteral (g : Guard) (d a : Reg) (lit : BitVec 64) (s : State) : Host.Outcome State Fault Refusal :=
  runBody (regLit g d a lit (AluFn.w .max)) s

/-- SHL of either width by a register (R105, R106). -/
def execShl (g : Guard) (w : Bool) (d a b : Reg) (s : State) : Host.Outcome State Fault Refusal :=
  runBody (regReg g d a b (ShiftFn.at .shl w)) s

/-- SHL of either width by a literal (R105, R106). -/
def execShlLiteral (g : Guard) (w : Bool) (d a : Reg) (lit : BitVec 64) (s : State) : Host.Outcome State Fault Refusal :=
  runBody (regLit g d a lit (ShiftFn.at .shl w)) s

/-- SHR of either width by a register (R105, R106). -/
def execShr (g : Guard) (w : Bool) (d a b : Reg) (s : State) : Host.Outcome State Fault Refusal :=
  runBody (regReg g d a b (ShiftFn.at .shr w)) s

/-- SHR of either width by a literal (R105, R106). -/
def execShrLiteral (g : Guard) (w : Bool) (d a : Reg) (lit : BitVec 64) (s : State) : Host.Outcome State Fault Refusal :=
  runBody (regLit g d a lit (ShiftFn.at .shr w)) s

/-- SAR of either width by a register (R105, R106). -/
def execSar (g : Guard) (w : Bool) (d a b : Reg) (s : State) : Host.Outcome State Fault Refusal :=
  runBody (regReg g d a b (ShiftFn.at .sar w)) s

/-- SAR of either width by a literal (R105, R106). -/
def execSarLiteral (g : Guard) (w : Bool) (d a : Reg) (lit : BitVec 64) (s : State) : Host.Outcome State Fault Refusal :=
  runBody (regLit g d a lit (ShiftFn.at .sar w)) s

/-- ROL of either width by a register (R105, R106). -/
def execRol (g : Guard) (w : Bool) (d a b : Reg) (s : State) : Host.Outcome State Fault Refusal :=
  runBody (regReg g d a b (ShiftFn.at .rol w)) s

/-- ROL of either width by a literal (R105, R106). -/
def execRolLiteral (g : Guard) (w : Bool) (d a : Reg) (lit : BitVec 64) (s : State) : Host.Outcome State Fault Refusal :=
  runBody (regLit g d a lit (ShiftFn.at .rol w)) s

/-- CLZ of either width (R106). -/
def execClz (g : Guard) (w : Bool) (d a : Reg) (s : State) : Host.Outcome State Fault Refusal :=
  runBody (regOnly g d a (countOf w fun n x => clzN n x.toNat)) s

/-- CTZ of either width (R106). -/
def execCtz (g : Guard) (w : Bool) (d a : Reg) (s : State) : Host.Outcome State Fault Refusal :=
  runBody (regOnly g d a (countOf w fun n x => ctzN x n 0)) s

/-- POPC of either width (R106). -/
def execPopc (g : Guard) (w : Bool) (d a : Reg) (s : State) : Host.Outcome State Fault Refusal :=
  runBody (regOnly g d a (countOf w fun n x => popN x n)) s

/-- BREV of either width (R106). -/
def execBrev (g : Guard) (w : Bool) (d a : Reg) (s : State) : Host.Outcome State Fault Refusal :=
  runBody (regOnly g d a (brev w)) s

/-- ADDI with a 13-bit immediate (R107). -/
def execAddi (d a : Reg) (imm : BitVec 13) (s : State) : Host.Outcome State Fault Refusal :=
  runBody (regOnly Guard.always d a fun x => x + imm.signExtend 64) s

/-- ADDI with a literal (R107). -/
def execAddiLiteral (d a : Reg) (lit : BitVec 64) (s : State) : Host.Outcome State Fault Refusal :=
  runBody (regLit Guard.always d a lit fun x y => x + y) s

/-- MOVI with a 13-bit immediate (R107). -/
def execMovi (d : Reg) (imm : BitVec 13) (s : State) : Host.Outcome State Fault Refusal :=
  runBody (scalarOp Guard.always 1 d [] fun _ => imm.signExtend 64) s

/-- MOVI with a literal (R107). -/
def execMoviLiteral (d : Reg) (lit : BitVec 64) (s : State) : Host.Outcome State Fault Refusal :=
  runBody (scalarOp Guard.always 3 d [] fun _ => lit) s

/-- LEA (R108). -/
def execLea (g : Guard) (sh : BitVec 2) (d a b : Reg) (s : State) : Host.Outcome State Fault Refusal :=
  runBody (regReg g d a b fun x y => x + (y <<< sh.toNat)) s

/-- LEA with a third addend (R108). -/
def execLeaLiteral (g : Guard) (sh : BitVec 2) (d a b : Reg) (lit : BitVec 64) (s : State) : Host.Outcome State Fault Refusal :=
  runBody (scalarOp g 3 d [a, b] fun vs => src vs 0 + (src vs 1 <<< sh.toNat) + lit) s

/-- EXT (R109). -/
def execExt (d a : Reg) (pos len : BitVec 6) (s : State) : Host.Outcome State Fault Refusal :=
  runBody (regOnly Guard.always d a (extField pos len)) s

/-- INS (R109), which reads its destination. -/
def execIns (d a : Reg) (pos len : BitVec 6) (s : State) : Host.Outcome State Fault Refusal :=
  runBody (scalarOp Guard.always 1 d [a, d] fun vs => insField pos len (src vs 0) (src vs 1)) s

/-- CMP.eq of two registers (R110). -/
def execCmpEq (g : Guard) (w : Bool) (d : BitVec 3) (a b : Reg) (s : State) : Host.Outcome State Fault Refusal :=
  runBody (predOp g 1 d [a, b] fun vs => CmpFn.mask .eq w (src vs 0) (src vs 1)) s

/-- CMP.eq of a register and a literal (R110). -/
def execCmpEqLiteral (g : Guard) (w : Bool) (d : BitVec 3) (a : Reg) (lit : BitVec 64) (s : State) : Host.Outcome State Fault Refusal :=
  runBody (predOp g 3 d [a] fun vs => CmpFn.mask .eq w (src vs 0) lit) s

/-- CMP.ne of two registers (R110). -/
def execCmpNe (g : Guard) (w : Bool) (d : BitVec 3) (a b : Reg) (s : State) : Host.Outcome State Fault Refusal :=
  runBody (predOp g 1 d [a, b] fun vs => CmpFn.mask .ne w (src vs 0) (src vs 1)) s

/-- CMP.ne of a register and a literal (R110). -/
def execCmpNeLiteral (g : Guard) (w : Bool) (d : BitVec 3) (a : Reg) (lit : BitVec 64) (s : State) : Host.Outcome State Fault Refusal :=
  runBody (predOp g 3 d [a] fun vs => CmpFn.mask .ne w (src vs 0) lit) s

/-- CMP.lt of two registers (R110). -/
def execCmpLt (g : Guard) (w : Bool) (d : BitVec 3) (a b : Reg) (s : State) : Host.Outcome State Fault Refusal :=
  runBody (predOp g 1 d [a, b] fun vs => CmpFn.mask .lt w (src vs 0) (src vs 1)) s

/-- CMP.lt of a register and a literal (R110). -/
def execCmpLtLiteral (g : Guard) (w : Bool) (d : BitVec 3) (a : Reg) (lit : BitVec 64) (s : State) : Host.Outcome State Fault Refusal :=
  runBody (predOp g 3 d [a] fun vs => CmpFn.mask .lt w (src vs 0) lit) s

/-- CMP.ge of two registers (R110). -/
def execCmpGe (g : Guard) (w : Bool) (d : BitVec 3) (a b : Reg) (s : State) : Host.Outcome State Fault Refusal :=
  runBody (predOp g 1 d [a, b] fun vs => CmpFn.mask .ge w (src vs 0) (src vs 1)) s

/-- CMP.ge of a register and a literal (R110). -/
def execCmpGeLiteral (g : Guard) (w : Bool) (d : BitVec 3) (a : Reg) (lit : BitVec 64) (s : State) : Host.Outcome State Fault Refusal :=
  runBody (predOp g 3 d [a] fun vs => CmpFn.mask .ge w (src vs 0) lit) s

/-- CMP.ltu of two registers (R110). -/
def execCmpLtu (g : Guard) (w : Bool) (d : BitVec 3) (a b : Reg) (s : State) : Host.Outcome State Fault Refusal :=
  runBody (predOp g 1 d [a, b] fun vs => CmpFn.mask .ltu w (src vs 0) (src vs 1)) s

/-- CMP.ltu of a register and a literal (R110). -/
def execCmpLtuLiteral (g : Guard) (w : Bool) (d : BitVec 3) (a : Reg) (lit : BitVec 64) (s : State) : Host.Outcome State Fault Refusal :=
  runBody (predOp g 3 d [a] fun vs => CmpFn.mask .ltu w (src vs 0) lit) s

/-- CMP.geu of two registers (R110). -/
def execCmpGeu (g : Guard) (w : Bool) (d : BitVec 3) (a b : Reg) (s : State) : Host.Outcome State Fault Refusal :=
  runBody (predOp g 1 d [a, b] fun vs => CmpFn.mask .geu w (src vs 0) (src vs 1)) s

/-- CMP.geu of a register and a literal (R110). -/
def execCmpGeuLiteral (g : Guard) (w : Bool) (d : BitVec 3) (a : Reg) (lit : BitVec 64) (s : State) : Host.Outcome State Fault Refusal :=
  runBody (predOp g 3 d [a] fun vs => CmpFn.mask .geu w (src vs 0) lit) s

/-- PLOG.and (R111). -/
def execPlogAnd (g : Guard) (d a b : BitVec 3) (s : State) : Host.Outcome State Fault Refusal :=
  runBody (plogBody g d a b fun x y => x &&& y) s

/-- PLOG.or (R111). -/
def execPlogOr (g : Guard) (d a b : BitVec 3) (s : State) : Host.Outcome State Fault Refusal :=
  runBody (plogBody g d a b fun x y => x ||| y) s

/-- PLOG.xor (R111). -/
def execPlogXor (g : Guard) (d a b : BitVec 3) (s : State) : Host.Outcome State Fault Refusal :=
  runBody (plogBody g d a b fun x y => x ^^^ y) s

/-- PLOG.andn (R111). -/
def execPlogAndn (g : Guard) (d a b : BitVec 3) (s : State) : Host.Outcome State Fault Refusal :=
  runBody (plogBody g d a b fun x y => x &&& ~~~y) s

/-- PLOG.orn (R111). -/
def execPlogOrn (g : Guard) (d a b : BitVec 3) (s : State) : Host.Outcome State Fault Refusal :=
  runBody (plogBody g d a b fun x y => x ||| ~~~y) s

/-- PLOG.nand (R111). -/
def execPlogNand (g : Guard) (d a b : BitVec 3) (s : State) : Host.Outcome State Fault Refusal :=
  runBody (plogBody g d a b fun x y => ~~~(x &&& y)) s

/-- PLOG.nor (R111). -/
def execPlogNor (g : Guard) (d a b : BitVec 3) (s : State) : Host.Outcome State Fault Refusal :=
  runBody (plogBody g d a b fun x y => ~~~(x ||| y)) s

/-- PLOG.xnor (R111). -/
def execPlogXnor (g : Guard) (d a b : BitVec 3) (s : State) : Host.Outcome State Fault Refusal :=
  runBody (plogBody g d a b fun x y => ~~~(x ^^^ y)) s

/-- SEL (R112). -/
def execSel (g : Guard) (inv : Bool) (sel : BitVec 3) (d a b : Reg) (s : State) : Host.Outcome State Fault Refusal :=
  runBody (selBody g inv sel d a b) s

/-- BR (R115). -/
def execBr (g : Guard) (off : BitVec 19) (s : State) : Host.Outcome State Fault Refusal :=
  runBody (branch g off) s

/-- JMP (R116). -/
def execJmp (g : Guard) (lit : BitVec 64) (s : State) : Host.Outcome State Fault Refusal :=
  runBody (guarded g 3 fun st s => .ok (s.setMe (st.jump lit))) s

/-- LOOP (R120). -/
def execLoop (d : Reg) (imm : BitVec 13) (s : State) : Host.Outcome State Fault Refusal :=
  runBody (loopBody d imm) s

end Sys2Proof.Machine
end

