-- ==== Sys2Proof/Machine/Calls.lean ====
section
/-! DEFINITION. CALL, CALLX and RET (R118, R119): the sliding window (R10, R11) and the spills and fills that keep the resident
entries of the register stack (R12, R13). -/
namespace Sys2Proof.Machine

/-- Check the place of an entry and find it (R12, R118). -/
def State.entrySpot (s : State) (st : Strand) (k : AccKind) (i : Nat) : Res (BitVec 64 × Spot) :=
  match st.entryPlace i with
  | .lmem off => .ok (BitVec.ofNat 64 off, Spot.local (lmemBase (cellOf s.actor) + off))
  | .none va => .trap (mkTrap 0x0C 0 va)
  | .global va =>
    (s.locate st k 0 va 8).bind fun spot => (typeRule .plainMem spot va).bind fun _ => .ok (va, spot)

/-- The places of several entries, all checked before anything moves. -/
def State.entrySpots (s : State) (st : Strand) (k : AccKind) : List Nat → Res (List (Nat × BitVec 64 × Spot))
  | [] => .ok []
  | i :: r => (s.entrySpot st k i).bind fun x => (State.entrySpots s st k r).map fun rest => (i, x.1, x.2) :: rest

/-- Evaluate transition 14 or 15 for one entry's line and go on, or end the whole instruction with nothing moved. -/
def entryGate (s0 : State) (st : Strand) (s : State) (va : BitVec 64) (spot : Spot) (t : Nat) (go : State → Except Out State) :
    Except Out State :=
  if spot.cls = 0 then go s
  else
    let line := lineOf spot.flat
    let e := s.entryAt st.part spot.cls line t
    match verdictOf e with
    | .allow => (go s).map fun s1 => s1.moveLine line (nextOf e)
    | .park => .error (s0.parkHere st va line spot.cls t)
    | .fault => .error (.trap (stagedFault 0 va))

/-- Spill entries, lowest index first (R12, R13); a store that is not performed is reported later (R285, R355). -/
def spillAll (s0 : State) (st : Strand) : List (Nat × BitVec 64 × Spot) → State → Except Out State
  | [], s => .ok s
  | (i, va, spot) :: rest, s =>
    match entryGate s0 st s va spot 15 fun s1 =>
        if s1.noStore spot.flat then
          match s1.me? with
          | some st1 => .ok (s1.setMe { st1 with poison := st1.poison ++ [(.none, va)] })
          | none => .ok s1
        else .ok (s1.storeSpill st.origin (clusterOf s.actor) spot.mt spot.flat (leBytes (st.entry i).toNat 8)) with
    | .ok s2 => spillAll s0 st rest s2
    | .error o => .error o

/-- Fill entries, lowest index first; a location whose entry is resident again is unpredictable (R12, R13). -/
def fillAll (s0 : State) (st : Strand) : List (Nat × BitVec 64 × Spot) → State × NMap (BitVec 64) →
    Except Out (State × NMap (BitVec 64))
  | [], x => .ok x
  | (i, va, spot) :: rest, (s, m) =>
    if s.loadPoison none (clusterOf s.actor) spot.mt spot.flat 8 then .error (.trap (translation 4 va))
    else
      let v : BitVec 64 := BitVec.ofNat 64 (leNat (s.loadBytes none (clusterOf s.actor) spot.mt spot.flat 8))
      match entryGate s0 st s va spot 14 fun s1 =>
          .ok ((s1.flitsRead none (clusterOf s.actor) spot.mt spot.flat 8).blurBytes spot.flat 8) with
      | .ok s2 => fillAll s0 st rest (s2, NMap.set m i v)
      | .error o => .error o

/-- The link word (R10). -/
def linkWord (ret : BitVec 64) (k : Nat) : BitVec 64 :=
  ((ret.extractLsb' 2 54).setWidth 64 <<< 2) ||| (BitVec.ofNat 64 k <<< 56)

/-- Strongly ordered if any entry's page is (Table 6-2). -/
def spotsType (spots : List (Nat × BitVec 64 × Spot)) : Nat := if spots.any fun x => x.2.2.mt == 4 then 4 else 0

/-- Enter a procedure with a window slide of k (R10, R118); the locations of the entries that become resident are unpredictable (R13).
DEDUCED: log 37. -/
def callTo (st : Strand) (s : State) (words k : Nat) (target : BitVec 64) : Out :=
  settled true st s fun st1 s1 =>
    if st1.depth = 0xFFFF then .trap (mkTrap 0x0C 1)
    else
      let wb := st1.winbase + 20 - k
      (s1.entrySpots st1 .write (indexRange (lowResident st1.winbase) (lowResident wb))).andThen s1 fun spots => strongly (spotsType spots) st1 s1 <|
        match spillAll s1 st1 spots s1 with
        | .error o => o
        | .ok s2 =>
          match s2.me? with
          | none => .ok s2
          | some st2 =>
            let ret := st2.pc + BitVec.ofNat 64 (4 * words)
            .ok ((s2.blurAll (s1.spillPlaces s.actor st1 (indexRange (st1.winbase + 20) (wb + 20)))).setMe ({ st2 with
              fixed := NMap.set st2.fixed 7 (linkWord ret k)
              stk := (spots.map Prod.fst).foldl NMap.erase st2.stk
              winbase := wb
              depth := st2.depth + 1 }.jump target))

/-- The link word is malformed, or the window cannot slide back that far (R11). -/
def badLink (st : Strand) (link : BitVec 64) : Bool :=
  let k := (link.extractLsb' 56 5).toNat
  st.depth == 0 || k == 0 || decide (16 < k) || link.extractLsb' 61 3 != 0 || link.extractLsb' 0 2 != 0
    || decide (st.winbase < 20 - k)

/-- RET (R11, R119). Poison met earlier is reported before the link word is looked at. DEDUCED: log 37. DESIGN CHOICE: log 70. -/
def retBody (g : Guard) : Strand → State → Out :=
  guarded g 1 fun st s =>
    settled true st s fun st1 s1 =>
      let link := NMap.getD st1.fixed 7 0
      if badLink st1 link then .trap (illegal 1)
      else
        let wb := st1.winbase - (20 - (link.extractLsb' 56 5).toNat)
        (s1.entrySpots st1 .read (indexRange (lowResident wb) (lowResident st1.winbase))).andThen s1 fun spots => strongly (spotsType spots) st1 s1 <|
          match fillAll s1 st1 spots (s1, st1.stk) with
          | .error o => o
          | .ok (s2, stk) =>
            match s2.me? with
            | none => .ok s2
            | some st2 =>
              .ok (s2.setMe ({ st2 with stk := stk, winbase := wb, depth := st2.depth - 1 }.jump
                ((link.extractLsb' 2 54).setWidth 64 <<< 2)))

/-- CALL k, target by a word offset (R118); the field holds k - 1. -/
def execCall (g : Guard) (k : BitVec 4) (off : BitVec 15) (s : State) : Host.Outcome State Fault Refusal :=
  runBody (guarded g 1 fun st s => callTo st s 1 (k.toNat + 1) (st.pc + wordOffset off)) s

/-- CALL k, target by a literal (R118). -/
def execCallLiteral (g : Guard) (k : BitVec 4) (lit : BitVec 64) (s : State) : Host.Outcome State Fault Refusal :=
  runBody (guarded g 3 fun st s => callTo st s 3 (k.toNat + 1) lit) s

/-- CALLX k, gA (R118): the target is read through the caller's window and must be aligned. -/
def execCallx (g : Guard) (k : BitVec 4) (a : Reg) (s : State) : Host.Outcome State Fault Refusal :=
  runBody (guarded g 1 fun st s =>
    if !st.window.isEmpty then .wait .poll s
    else
      (readSources st s [a] none).andThen s fun r =>
        let t := src r.1 0
        if t.extractLsb' 0 2 != 0 then .trap (alignTrap 1 t)
        else
          match callTo st r.2 1 (k.toNat + 1) t with
          | .wait w s1 =>
            let c := cellOf s.actor
            .wait w (s1.setCell c { s1.cell c with ports := (s.cell c).ports })
          | o => o) s

/-- RET (R119). -/
def execRet (g : Guard) (s : State) : Host.Outcome State Fault Refusal := runBody (retBody g) s

end Sys2Proof.Machine
end

