-- ==== Sys2Proof/Machine/Replay.lean ====
section
/-! DEFINITION. Trying a held access again: the instruction of a strand that waits at a home is executed afresh (R146, R203, R263),
which is how a parked access is re-evaluated and a waiting atomic or staged access is performed. -/
namespace Sys2Proof.Machine

/-- Execute a memory instruction again for the acting slot; any other instruction leaves the state as it is. -/
def replay (i : Instr) (s : State) : Host.Outcome State Fault Refusal :=
  match i with
  | .ret g => execRet g s
  | .call g k off => execCall g k off s
  | .callLiteral g k lit => execCallLiteral g k lit s
  | .callx g k a => execCallx g k a s
  | .ldD d a imm => execLdD d a imm s
  | .ldDLiteral d a lit => execLdDLiteral d a lit s
  | .ldW d a imm => execLdW d a imm s
  | .ldWLiteral d a lit => execLdWLiteral d a lit s
  | .stD d a imm => execStD d a imm s
  | .stDLiteral d a lit => execStDLiteral d a lit s
  | .stW d a imm => execStW d a imm s
  | .stWLiteral d a lit => execStWLiteral d a lit s
  | .ldIndexed g dw d a b => execLdIndexed g dw d a b s
  | .ldExtended g dw d a b sp q disp => execLdExtended g dw d a b sp q disp s
  | .stIndexed g dw d a b => execStIndexed g dw d a b s
  | .stExtended g dw d a b sp q disp => execStExtended g dw d a b sp q disp s
  | .lr g dw d a => execLr g dw d a s
  | .lrExtended g dw d a q => execLrExtended g dw d a q s
  | .sc g dw d a b => execSc g dw d a b s
  | .scExtended g dw d a b q => execScExtended g dw d a b q s
  | .amoAdd g dw d a b => execAmoAdd g dw d a b s
  | .amoAddExtended g dw d a b sp q => execAmoAddExtended g dw d a b sp q s
  | .amoAnd g dw d a b => execAmoAnd g dw d a b s
  | .amoAndExtended g dw d a b sp q => execAmoAndExtended g dw d a b sp q s
  | .amoOr g dw d a b => execAmoOr g dw d a b s
  | .amoOrExtended g dw d a b sp q => execAmoOrExtended g dw d a b sp q s
  | .amoXor g dw d a b => execAmoXor g dw d a b s
  | .amoXorExtended g dw d a b sp q => execAmoXorExtended g dw d a b sp q s
  | .amoMin g dw d a b => execAmoMin g dw d a b s
  | .amoMinExtended g dw d a b sp q => execAmoMinExtended g dw d a b sp q s
  | .amoMax g dw d a b => execAmoMax g dw d a b s
  | .amoMaxExtended g dw d a b sp q => execAmoMaxExtended g dw d a b sp q s
  | .amoSwap g dw d a b => execAmoSwap g dw d a b s
  | .amoSwapExtended g dw d a b sp q => execAmoSwapExtended g dw d a b sp q s
  | .cas g dw d a b => execCas g dw d a b s
  | .casExtended g dw d a b sp q => execCasExtended g dw d a b sp q s
  | .sld g t d a b => execSld g t d a b s
  | .sldExtended g t d a b w q disp => execSldExtended g t d a b w q disp s
  | .sst g t d a b => execSst g t d a b s
  | .sstExtended g t d a b w q disp => execSstExtended g t d a b w q disp s
  | .samo g t d a b aop w q c disp => execSamo g t d a b aop w q c disp s
  | .boxv g d a b => execBoxv g d a b s
  | .boxvExtended g d a b sp => execBoxvExtended g d a b sp s
  | .trix g d a b => execTrix g d a b s
  | .trixExtended g d a b sp => execTrixExtended g d a b sp s
  | .splt g d a b => execSplt g d a b s
  | .spltExtended g d a b sp => execSpltExtended g d a b sp s
  | .volseg g d a b => execVolseg g d a b s
  | .volsegExtended g d a b sp => execVolsegExtended g d a b sp s
  | .spawn g d a b => execSpawn g d a b s
  | .cdec g a => execCdec g a s
  | .stab g a b => execStab g a b s
  | .ctxsave g a => execCtxsave g a s
  | .ctxload g a => execCtxload g a s
  | .coll g a e => execColl g a e s
  | _ => .next s

/-- HALT and MIGR leave the slot when they retire. -/
def leavesSlot : Instr → Bool
  | .halt .. | .migr .. => true
  | _ => false

/-- TRAP retires before its trap is delivered (R230). -/
def isTrapInstr : Instr → Bool
  | .trap .. => true
  | _ => false

/-- The instruction that the strand in slot n executed has retired: it holds nothing, and it did not halt on a trap or enter its handler unless
by TRAP. -/
def State.retired (s : State) (n : Nat) (st : Strand) (i : Instr) : Bool :=
  match s.strand? n with
  | none => leavesSlot i
  | some x => x.held.isNone && x.wait.isNone && x.trapPend.isNone && x.mma.isNone && !x.halting && (isTrapInstr i || st.hm || !x.hm)

/-- After an instruction: a retirement advances the progress counter of the launch's queue (R317). -/
def afterRun (n : Nat) (st : Strand) (i : Instr) (o : Host.Outcome State Fault Refusal) : Host.Outcome State Fault Refusal :=
  match o with
  | .next s => .next (if s.retired n st i then s.progressed st.part st.launch else s)
  | .fault r => .fault r
  | .refused r => .refused r

/-- Execute the held instruction of the strand in a slot again; one that retires advances its queue's counter as any does (R317). DEDUCED: log
10. -/
def State.retryHeld (s : State) (n : Nat) : State :=
  match s.strand? n with
  | none => s
  | some st =>
    match st.held with
    | none => s
    | some i =>
      match afterRun n st i (replay i { s with actor := n }) with
      | .next t => t
      | _ => s

/-- The instruction of a strand is an atomic access at a home (R248). -/
def heldAtomic : Instr → Bool
  | .lr .. | .lrExtended .. | .sc .. | .scExtended .. | .cas .. | .casExtended .. | .cdec .. => true
  | .amoAdd .. | .amoAddExtended .. | .amoAnd .. | .amoAndExtended .. | .amoOr .. | .amoOrExtended .. => true
  | .amoXor .. | .amoXorExtended .. | .amoMin .. | .amoMinExtended .. | .amoMax .. | .amoMaxExtended .. => true
  | .amoSwap .. | .amoSwapExtended .. => true
  | _ => false

/-- A pre-emption or a trap keeps a waiting strand from trying its instruction again; an access that has issued late is executing, and goes
on to be performed before a save (R310). -/
def Strand.kept (st : Strand) : Bool := (st.preReq.isSome && st.wait.map Wait.kind != some .late) || st.trapPend.isSome || st.halting

/-- The strand in a slot waits to try its instruction again, and the instruction passes a test. -/
def State.triesAgain (s : State) (n : Nat) (p : Instr → Bool) : Bool :=
  match s.strand? n with
  | none => false
  | some st =>
    (match st.wait with
      | some w => w.kind == .poll || w.kind == .replay || w.kind == .late || w.kind == .acks
      | none => false)
      && (match st.held with
        | some i => p i
        | none => false)
      && !st.kept

/-- ATOMIC_PERFORMED: a strand that waits to perform an atomic access performs it, if nothing keeps it back any more. -/
def State.atomicPerformed (s : State) (n : Nat) : State := if s.triesAgain n heldAtomic then s.retryHeld n else s

/-- STAGED_ACCESS_AT_HOME: a strand that waits to perform an access is evaluated at the line's home (R134, R144). -/
def State.stagedAtHome (s : State) (n : Nat) : State := if s.triesAgain n (fun i => !heldAtomic i) then s.retryHeld n else s

/-! ### Wake passes (R263) -/

/-- The access number of a held command: what it is and which element. -/
def atWhat (at_ : Nat) : Nat := at_ % 8
/-- The element of an access number. -/
def atElem (at_ : Nat) : Nat := at_ / 8

/-- Try the parked access of a hart again. -/
def State.retryHart (s : State) (h : Nat) : State :=
  match (s.hart h).running.findIdx? fun c => c.hold == .parked with
  | none => s
  | some pos =>
    match s.cmd? h pos with
    | none => s
    | some c =>
      let s1 := s.setCmd h pos { c with hold := .poll }
      match atWhat c.holdAt with
      | 0 => if c.coll then s1.collLoad h pos (atElem c.holdAt) else s1.copyLoad h pos (atElem c.holdAt)
      | 1 => if c.coll then s1.collStore h pos (atElem c.holdAt) else s1.copyStore h pos (atElem c.holdAt)
      | 2 => s1.teStep h pos
      | 4 => s1.copyLoad h pos (atElem c.holdAt)
      | _ => if c.coll then (s1.collStepAt h [] pos).getD s1 else s1.blockRewrite h pos []

/-- Try the parked access of a coprocessor again. -/
def State.retryCoproc (s : State) (k : Nat) : State :=
  match (s.cluster k).coproc with
  | none => s
  | some x =>
    let s1 := s.setXreq k { x with hold := .poll }
    if atWhat x.holdAt = 0 then s1.coprocLoad k (atElem x.holdAt) else s1.coprocStore k (atElem x.holdAt)

/-- Re-evaluate a parked access: its entry is freed, and it is performed, parks again at the tail, or faults. -/
def State.reevaluate (s : State) (line : Nat) (who : Agent) : State :=
  let s1 := { s with parked := dropFirst (fun p => p.line == line && p.who == who) s.parked }
  match who with
  | .slot n => s1.retryHeld n
  | .hart h => s1.retryHart h
  | .coproc k => s1.retryCoproc k
  | .view e => s1.viewRetry e

/-- The pass on a line ends when none of its entries is left; another follows if a state changed meanwhile (R263). -/
def State.endPass (s : State) (line : Nat) : State :=
  match s.passes.find? fun w => w.line == line with
  | none => s
  | some w =>
    if !w.rest.isEmpty then s
    else
      let s1 := { s with passes := s.passes.filter fun x => x.line != line }
      if w.again then s1.startPass line else s1

/-- PARK_REEVALUATION: the next entry of the pass on a line. -/
def State.wakeStep (s : State) (line : Nat) : State :=
  match s.passes.find? fun w => w.line == line with
  | none => s
  | some w =>
    match w.rest with
    | [] => s.endPass line
    | who :: rest =>
      let s1 := { s with passes := s.passes.map fun (x : WakePass) => if x.line = line then { x with rest := rest } else x }
      (s1.reevaluate line who).endPass line

/-- ATOMIC_PERFORMED. -/
def execAtomicPerformed (n : Nat) (s : State) : Host.Outcome State Fault Refusal := .next (s.atomicPerformed n)
/-- STAGED_ACCESS_AT_HOME. -/
def execStagedAccessAtHome (n : Nat) (s : State) : Host.Outcome State Fault Refusal := .next (s.stagedAtHome n)
/-- PARK_REEVALUATION. -/
def execParkReevaluation (line : Nat) (s : State) : Host.Outcome State Fault Refusal := .next (s.wakeStep line)

end Sys2Proof.Machine
end

