-- ==== Sys2Proof/Machine/Fetch.lean ====
section
/-! DEFINITION. From ready slot to executed instruction: readiness and rotation (R294, R122), the fetch of an instruction's words
(R72, R75, R76), what is done before and after an instruction executes, and the trying again of one that waits (R203). -/
namespace Sys2Proof.Machine

/-! ### Readiness (R294) -/

/-- The strand's last instruction has retired and it waits for nothing; a requested or halting strand does not issue. -/
def Strand.ready (st : Strand) : Bool :=
  st.wait.isNone && st.held.isNone && st.preReq.isNone && st.trapPend.isNone && st.mma.isNone && !st.halting

/-- The fence after a strongly ordered access is done (R133). -/
def State.pastFence (s : State) (st : Strand) : Bool := !st.fenced || !s.owes st.origin

/-- A slot of a cell is ready. -/
def State.slotReady (s : State) (cell j : Nat) : Bool :=
  ((s.strand? (cell * 16 + j)).map fun st => st.ready && s.pastFence st).getD false

/-- A YIELD no longer holds the slot back (R122). -/
def State.yieldOver (s : State) (cell j : Nat) : Bool :=
  match (s.strand? (cell * 16 + j)).bind Strand.yielded with
  | none => true
  | some (since, issued) =>
    decide (since + 16 ≤ s.clock) || (List.range 16).all fun i => i == j || !s.slotReady cell i || issued.contains i

/-- The slot of a cell that issues next: the first ready one after the slot that last issued, wrapping round. -/
def State.nextSlot (s : State) (cell : Nat) : Option Nat :=
  ((List.range 16).map fun i => ((s.cell cell).lastIssued + 1 + i) % 16).find? fun j => s.slotReady cell j && s.yieldOver cell j

/-! ### Fetch (R72, R75, R76) -/

/-- The words that a fetch of one word may return, latest first: those stored since the launch's command was queued, and the one
it found (R76). -/
def State.codeChoices (s : State) (w since : Nat) : List (BitVec 32) :=
  match NMap.get? s.codeLog w with
  | none => [s.word w]
  | some l => ((l.takeWhile fun x => decide (since < x.2)) ++ ((l.find? fun x => decide (x.2 ≤ since)).toList)).map Prod.fst

/-- One of the words a fetch may return. -/
def State.codeWord (s : State) (w since : Nat) : BitVec 32 × State :=
  match s.codeChoices w since with
  | [] => (s.word w, s)
  | [x] => (x, s)
  | xs =>
    let (i, s1) := s.choose xs.length
    (xs.getD i 0, s1)

/-- The cycle at which the command of a strand's launch was queued. -/
def State.queuedAt (s : State) (st : Strand) : Nat := ((s.launch? st.part st.launch).map Launch.queuedAt).getD 0

/-- Fetch the word at an address for the strand in slot n. DEDUCED: log 31. -/
def State.fetchWord (s : State) (n : Nat) (st : Strand) (va : BitVec 64) : Res (BitVec 32 × State) :=
  (s.translate st.part (clusterOf n) st.afresh .fetch va).bind fun spot =>
    if spot.mt = 5 then .trap (permission 13 va)
    else if s.isPoisoned (lineOf spot.flat) then .trap (translation 4 va)
    else
      let r := s.codeWord (spot.flat / 4) (s.queuedAt st)
      .ok (r.1, r.2.flitsTo spot.flat 4)

/-- Fetch the words that follow the first. -/
def State.fetchMore (s : State) (n : Nat) (st : Strand) (va : BitVec 64) : Nat → Res (List (BitVec 32) × State)
  | 0 => .ok ([], s)
  | k + 1 =>
    (s.fetchWord n st va).bind fun r =>
      (State.fetchMore r.2 n st (va + 4) k).bind fun q => .ok (r.1 :: q.1, q.2)

/-- Fetch the words of the instruction at the PC of the strand in slot n: L, OP and F are checked before a later word is fetched, so
words that they refuse have no later word. DEDUCED: log 31. -/
def State.fetchWords (s : State) (n : Nat) (st : Strand) : Res (Words × State) :=
  (s.fetchWord n st st.pc).bind fun r =>
    match headCheck r.1 with
    | some _ => .ok (⟨r.1, 0, 0, 0, 0⟩, r.2)
    | none =>
      (r.2.fetchMore n st (st.pc + 4) (wordCount r.1 - 1)).bind fun q =>
        .ok (⟨r.1, q.1.getD 0 0, q.1.getD 1 0, q.1.getD 2 0, q.1.getD 3 0⟩, q.2)

/-! ### Around an instruction -/

/-- A fresh issue counts in the strand's reservations (R136). DEDUCED: log 32. -/
def State.countIssue (s : State) (st : Strand) : State :=
  { s with resv := s.resv.map fun r => if r.ownedBy st then { r with count := r.count + 1 } else r }

/-- The state in which the fetched instruction of the strand in slot n executes. -/
def State.enter (s : State) (n : Nat) (st : Strand) (i : Instr) : State :=
  { (s.countIssue st).setStrand n { st with held := some i, wait := none, yielded := none, fenced := false } with actor := n }

/-- What the strand in slot n meets before it fetches: a WATCHDOG notice (R318), or before the first instruction of its own its malformed
record (R32). DEDUCED: log 28. -/
def Strand.firstTrap (st : Strand) : Option Trap :=
  if st.notice then some (mkTrap 0x0E 0) else if st.badRecord && !st.hm then some (illegal 2) else none

/-- ILLEGAL_INSTR_ISSUE (R70): the issue turn has found that the words at the PC of the strand in slot n are no instruction. -/
def State.illegalIssue (s : State) (n : Nat) : State :=
  match s.strand? n with
  | none => s
  | some st => (s.setStrand n { st with wait := none, yielded := none }).deliver n (illegal 0)

/-- INSTRUCTION_FETCH_FAULT (R75, R282): the fetch of the strand in slot n ends in a trap, or at a page that is not present. -/
def State.fetchFault (s : State) (n : Nat) : State :=
  match s.strand? n with
  | none => s
  | some st =>
    match s.fetchWords n st with
    | .trap t => (s.setStrand n { st with wait := none, yielded := none }).deliver n t
    | .notPresent va k =>
      let (seq, s1) := s.strandFault n st va k
      s1.setStrand n ({ st with yielded := none }.await (.faultPending seq va) s.clock)
    | _ => s

/-- The instruction accesses memory for its strand, and may issue in one turn and be performed in a later one (R242). -/
def accessesMemory : Instr → Bool
  | .ldD .. | .ldDLiteral .. | .ldW .. | .ldWLiteral .. | .stD .. | .stDLiteral .. | .stW .. | .stWLiteral .. => true
  | .ldIndexed .. | .ldExtended .. | .stIndexed .. | .stExtended .. => true
  | .sld .. | .sldExtended .. | .sst .. | .sstExtended .. | .samo .. => true
  | .vld .. | .vldExtended .. | .vst .. | .vstExtended .. => true
  | .vgath .. | .vgathExtended .. | .vscat .. | .vscatExtended .. => true
  | .boxv .. | .boxvExtended .. | .trix .. | .trixExtended .. | .splt .. | .spltExtended .. | .volseg .. | .volsegExtended .. => true
  | i => heldAtomic i

/-- The strand in slot n issues: `run` is the meaning of instructions, and a memory instruction that issues late waits for the turn that
performs it. DEDUCED: log 33. -/
noncomputable def State.issueSlot (run : Instr → State → Host.Outcome State Fault Refusal) (late : Bool) (s : State) (n : Nat) :
    Host.Outcome State Fault Refusal :=
  match s.strand? n with
  | none => .next s
  | some st =>
    match st.firstTrap with
    | some t => .next ((s.setStrand n { st with notice := false, badRecord := st.badRecord && (st.notice || st.hm), yielded := none }).deliver n t)
    | none =>
      match s.fetchWords n st with
      | .ok (w, s1) =>
        match decodeWords w with
        | .ok i =>
          let s2 := s1.enter n st i
          if late && accessesMemory i then .next (s2.setStrand n { st with held := some i, wait := some ⟨.late, s.clock⟩, yielded := none, fenced := false })
          else afterRun n st i (run i s2)
        | .error _ => run (.illegalInstrIssue n) s1
      | _ => run (.instructionFetchFault n) s

/-- A slot of a cell takes the issue turn: the others note it (R122, R294). -/
def State.takeTurn (s : State) (cell j : Nat) : State :=
  let note (x : Nat × Strand) : Nat × Strand :=
    if cellOf x.1 = cell && x.1 != cell * 16 + j then
      (x.1, { x.2 with yielded := x.2.yielded.map fun y => (y.1, j :: y.2) })
    else x
  { (s.setCell cell { s.cell cell with lastIssued := j }) with slots := s.slots.map note }

/-- A cell issues from the slot whose turn it is. -/
noncomputable def State.issueCell (run : Instr → State → Host.Outcome State Fault Refusal) (late : Bool) (s : State) (cell : Nat) :
    Host.Outcome State Fault Refusal :=
  match s.nextSlot cell with
  | none => .next s
  | some j => (s.takeTurn cell j).issueSlot run late (cell * 16 + j)

/-- A strand whose BAR arrival was kept goes on when its phase has opened (R315). -/
def State.rejoin (s : State) (n : Nat) (st : Strand) (ph : Nat) : State :=
  if ((s.crew? st.part st.launch st.crew).map Crew.phase).getD 0 = ph then s
  else (s.setStrand n { st.advance 1 with arrived := none }).progressed st.part st.launch

/-- A waiting strand tries its instruction again; one that is parked, in FAULT_PENDING or in the coprocessor waits for the step
that ends its wait. DEDUCED: log 10. -/
noncomputable def State.retrySlot (run : Instr → State → Host.Outcome State Fault Refusal) (s : State) (n : Nat) :
    Host.Outcome State Fault Refusal :=
  match s.strand? n with
  | none => .next s
  | some st =>
    if st.kept then .next s
    else match st.wait, st.held with
      | none, _ => .next s
      | some ⟨.parked, _⟩, _ => .next s
      | some ⟨.faultPending _ _, _⟩, _ => .next s
      | some ⟨.xreq, _⟩, _ => .next s
      | some ⟨.lanes, _⟩, _ => .next s
      | some _, some i => afterRun n st i (run i { s with actor := n })
      | some ⟨.replay, _⟩, none => s.issueSlot run false n
      | some ⟨.bar ph, _⟩, none => .next (s.rejoin n st ph)
      | some _, none => .next s

/-! ### Time -/

/-- A combining buffer is drained when it has held bytes for 256 cycles (R133). -/
def State.drainOld (s : State) : State :=
  ((s.slots.filter fun n => match n.2.wcbuf with
    | some b => decide (b.since + 256 ≤ s.clock)
    | none => false).map Prod.fst).foldl State.drainWc s

/-- Time passes. DESIGN CHOICE: log 9. -/
def State.pass (s : State) (cycles : Nat) : State := { s with clock := s.clock + cycles }.drainOld

/-- The issue turn of the strand in slot n would find no instruction at its PC: because its words are none, or because they cannot
be fetched. DEDUCED: log 61. -/
noncomputable def State.issuesNone (s : State) (n : Nat) (fetched : Bool) : Bool :=
  s.nextSlot (cellOf n) == some (slotOf n) && match s.strand? n with
    | none => false
    | some st => st.firstTrap.isNone && match s.fetchWords n st with
      | .ok (w, _) => fetched && (match decodeWords w with
        | .ok _ => false
        | .error _ => true)
      | _ => !fetched

/-- An event of the opcode table as a turn: instruction words are no events, and the two events of the issue turn are that turn. DEDUCED: log 61. -/
noncomputable def State.runEvent (run : Instr → State → Host.Outcome State Fault Refusal) (e : Instr) (s : State) :
    Host.Outcome State Fault Refusal :=
  match e with
  | .illegalInstrIssue n => if s.issuesNone n true then s.issueCell run false (cellOf n) else .next s
  | .instructionFetchFault n => if s.issuesNone n false then s.issueCell run false (cellOf n) else .next s
  | e => if e.encodable then .next s else run e s

/-! ### Agents outside the module (R238) -/

/-- The host stores to its own memory: it is ahead of what is still on the outbound path to the same bytes (R241). -/
def State.hostWrite (s : State) (a : Nat) (bs : List (BitVec 8)) : State :=
  (List.range bs.length).foldl (fun t i =>
    if s.outbound.any fun o => o.addrs.contains (a + i) then t
    else t.blurStored (t.storeBare (a + i) [bs.getD i 0]) (a + i) 1) s

/-- A peer module's access through the Hasp interface to an address of a partition (R238, R257), within one line and under the
partition's tables: a read names transition 14, a write or read-modify-write 15, a staged access its own; `bs` is what it writes, if its
entry lets it. One that its page, the tables or poison do not allow has no effect. DESIGN CHOICE: log 13. -/
def State.peerAccess (s : State) (p : Nat) (va : BitVec 64) (t : Nat) (bs : List (BitVec 8)) : State :=
  match s.translate p 0 true (if t = 14 then .read else if t = 15 then .write else .rmw) va with
  | .ok spot =>
    let line := lineOf spot.flat
    let store (u : State) : State := if t = 14 then u else u.storeHome spot.flat bs
    if 64 < spot.flat % 64 + bs.length || spot.mt = 5 || spot.loc = 2 || s.isPoisoned line then s
    else if spot.cls = 0 then store s
    else
      let e := s.entryAt p spot.cls line t
      match verdictOf e with
      | .allow => (if t = 15 || 2 ≤ accessOf e then store s else s).moveLine line (nextOf e)
      | _ => s
  | _ => s

/-- Take a turn. -/
noncomputable def State.runTurn (run : Instr → State → Host.Outcome State Fault Refusal) (t : Turn) (s : State) :
    Host.Outcome State Fault Refusal :=
  match t with
  | .issue cell => s.issueCell run false cell
  | .issueLate cell => s.issueCell run true cell
  | .retry n => s.retrySlot run n
  | .event e => s.runEvent run e
  | .tick _ => .next s
  | .hostStore a bs => .next (s.hostWrite (hostBase + a % 2 ^ 52) bs)
  | .acknowledge => .next { s with outbound := s.outbound.drop 1 }
  | .barSize code => .next (s.resizeBar4 code)
  | .peer p va t bs => .next (s.peerAccess p va t bs)

/-- The cycles a turn takes. DESIGN CHOICE: log 9. -/
def Turn.cycles : Turn → Nat
  | .tick n => max 1 n
  | _ => 1

/-- A turn that began in a state is over: spill locations that it has moved are unpredictable (R13), and time has passed. -/
def Turn.over (t : Turn) (before : State) (o : Host.Outcome State Fault Refusal) : Host.Outcome State Fault Refusal :=
  match o with
  | .next s => .next ((before.blurMoved s).pass t.cycles)
  | .fault r => .fault r
  | .refused r => .refused r

/-! ### The events -/

/-- ILLEGAL_INSTR_ISSUE. -/
def execIllegalInstrIssue (n : Nat) (s : State) : Host.Outcome State Fault Refusal := .next (s.illegalIssue n)
/-- INSTRUCTION_FETCH_FAULT. -/
def execInstructionFetchFault (n : Nat) (s : State) : Host.Outcome State Fault Refusal := .next (s.fetchFault n)

end Sys2Proof.Machine
end

