-- ==== Sys2Proof/Machine/Dispatch.lean ====
section
/-! DEFINITION. exec: one arm for every row of the opcode table, each one direct call of its meaning (the instructions) or of its step
(the events of R240). -/
namespace Sys2Proof.Machine

/-- The meaning of an instruction for the strand in the acting slot, and the effect of an event. -/
def exec (i : Instr) (s : State) : Host.Outcome State Fault Refusal :=
  match i with
  | .nop g => Sys2Proof.Machine.execNop g s
  | .yield g => Sys2Proof.Machine.execYield g s
  | .halt g => Sys2Proof.Machine.execHalt g s
  | .movhFromShared g d a => Sys2Proof.Machine.execMovhFromShared g d a s
  | .movhToShared g d a => Sys2Proof.Machine.execMovhToShared g d a s
  | .rng g d a b => Sys2Proof.Machine.execRng g d a b s
  | .jmpx g a => Sys2Proof.Machine.execJmpx g a s
  | .ret g => Sys2Proof.Machine.execRet g s
  | .add g d a b => Sys2Proof.Machine.execAdd g d a b s
  | .addLiteral g d a lit => Sys2Proof.Machine.execAddLiteral g d a lit s
  | .sub g d a b => Sys2Proof.Machine.execSub g d a b s
  | .subLiteral g d a lit => Sys2Proof.Machine.execSubLiteral g d a lit s
  | .mul g d a b => Sys2Proof.Machine.execMul g d a b s
  | .mulLiteral g d a lit => Sys2Proof.Machine.execMulLiteral g d a lit s
  | .mulh g d a b => Sys2Proof.Machine.execMulh g d a b s
  | .mulhLiteral g d a lit => Sys2Proof.Machine.execMulhLiteral g d a lit s
  | .div g d a b => Sys2Proof.Machine.execDiv g d a b s
  | .divLiteral g d a lit => Sys2Proof.Machine.execDivLiteral g d a lit s
  | .rem g d a b => Sys2Proof.Machine.execRem g d a b s
  | .remLiteral g d a lit => Sys2Proof.Machine.execRemLiteral g d a lit s
  | .and g d a b => Sys2Proof.Machine.execAnd g d a b s
  | .andLiteral g d a lit => Sys2Proof.Machine.execAndLiteral g d a lit s
  | .or g d a b => Sys2Proof.Machine.execOr g d a b s
  | .orLiteral g d a lit => Sys2Proof.Machine.execOrLiteral g d a lit s
  | .xor g d a b => Sys2Proof.Machine.execXor g d a b s
  | .xorLiteral g d a lit => Sys2Proof.Machine.execXorLiteral g d a lit s
  | .andn g d a b => Sys2Proof.Machine.execAndn g d a b s
  | .andnLiteral g d a lit => Sys2Proof.Machine.execAndnLiteral g d a lit s
  | .min g d a b => Sys2Proof.Machine.execMin g d a b s
  | .minLiteral g d a lit => Sys2Proof.Machine.execMinLiteral g d a lit s
  | .max g d a b => Sys2Proof.Machine.execMax g d a b s
  | .maxLiteral g d a lit => Sys2Proof.Machine.execMaxLiteral g d a lit s
  | .addW g d a b => Sys2Proof.Machine.execAddW g d a b s
  | .addWLiteral g d a lit => Sys2Proof.Machine.execAddWLiteral g d a lit s
  | .subW g d a b => Sys2Proof.Machine.execSubW g d a b s
  | .subWLiteral g d a lit => Sys2Proof.Machine.execSubWLiteral g d a lit s
  | .mulW g d a b => Sys2Proof.Machine.execMulW g d a b s
  | .mulWLiteral g d a lit => Sys2Proof.Machine.execMulWLiteral g d a lit s
  | .mulhW g d a b => Sys2Proof.Machine.execMulhW g d a b s
  | .mulhWLiteral g d a lit => Sys2Proof.Machine.execMulhWLiteral g d a lit s
  | .divW g d a b => Sys2Proof.Machine.execDivW g d a b s
  | .divWLiteral g d a lit => Sys2Proof.Machine.execDivWLiteral g d a lit s
  | .remW g d a b => Sys2Proof.Machine.execRemW g d a b s
  | .remWLiteral g d a lit => Sys2Proof.Machine.execRemWLiteral g d a lit s
  | .andW g d a b => Sys2Proof.Machine.execAndW g d a b s
  | .andWLiteral g d a lit => Sys2Proof.Machine.execAndWLiteral g d a lit s
  | .orW g d a b => Sys2Proof.Machine.execOrW g d a b s
  | .orWLiteral g d a lit => Sys2Proof.Machine.execOrWLiteral g d a lit s
  | .xorW g d a b => Sys2Proof.Machine.execXorW g d a b s
  | .xorWLiteral g d a lit => Sys2Proof.Machine.execXorWLiteral g d a lit s
  | .andnW g d a b => Sys2Proof.Machine.execAndnW g d a b s
  | .andnWLiteral g d a lit => Sys2Proof.Machine.execAndnWLiteral g d a lit s
  | .minW g d a b => Sys2Proof.Machine.execMinW g d a b s
  | .minWLiteral g d a lit => Sys2Proof.Machine.execMinWLiteral g d a lit s
  | .maxW g d a b => Sys2Proof.Machine.execMaxW g d a b s
  | .maxWLiteral g d a lit => Sys2Proof.Machine.execMaxWLiteral g d a lit s
  | .shl g w d a b => Sys2Proof.Machine.execShl g w d a b s
  | .shlLiteral g w d a lit => Sys2Proof.Machine.execShlLiteral g w d a lit s
  | .shr g w d a b => Sys2Proof.Machine.execShr g w d a b s
  | .shrLiteral g w d a lit => Sys2Proof.Machine.execShrLiteral g w d a lit s
  | .sar g w d a b => Sys2Proof.Machine.execSar g w d a b s
  | .sarLiteral g w d a lit => Sys2Proof.Machine.execSarLiteral g w d a lit s
  | .rol g w d a b => Sys2Proof.Machine.execRol g w d a b s
  | .rolLiteral g w d a lit => Sys2Proof.Machine.execRolLiteral g w d a lit s
  | .clz g w d a => Sys2Proof.Machine.execClz g w d a s
  | .ctz g w d a => Sys2Proof.Machine.execCtz g w d a s
  | .popc g w d a => Sys2Proof.Machine.execPopc g w d a s
  | .brev g w d a => Sys2Proof.Machine.execBrev g w d a s
  | .addi d a imm => Sys2Proof.Machine.execAddi d a imm s
  | .addiLiteral d a lit => Sys2Proof.Machine.execAddiLiteral d a lit s
  | .movi d imm => Sys2Proof.Machine.execMovi d imm s
  | .moviLiteral d lit => Sys2Proof.Machine.execMoviLiteral d lit s
  | .lea g sc d a b => Sys2Proof.Machine.execLea g sc d a b s
  | .leaLiteral g sc d a b lit => Sys2Proof.Machine.execLeaLiteral g sc d a b lit s
  | .ext d a pos len => Sys2Proof.Machine.execExt d a pos len s
  | .ins d a pos len => Sys2Proof.Machine.execIns d a pos len s
  | .cmpEq g w d a b => Sys2Proof.Machine.execCmpEq g w d a b s
  | .cmpEqLiteral g w d a lit => Sys2Proof.Machine.execCmpEqLiteral g w d a lit s
  | .cmpNe g w d a b => Sys2Proof.Machine.execCmpNe g w d a b s
  | .cmpNeLiteral g w d a lit => Sys2Proof.Machine.execCmpNeLiteral g w d a lit s
  | .cmpLt g w d a b => Sys2Proof.Machine.execCmpLt g w d a b s
  | .cmpLtLiteral g w d a lit => Sys2Proof.Machine.execCmpLtLiteral g w d a lit s
  | .cmpGe g w d a b => Sys2Proof.Machine.execCmpGe g w d a b s
  | .cmpGeLiteral g w d a lit => Sys2Proof.Machine.execCmpGeLiteral g w d a lit s
  | .cmpLtu g w d a b => Sys2Proof.Machine.execCmpLtu g w d a b s
  | .cmpLtuLiteral g w d a lit => Sys2Proof.Machine.execCmpLtuLiteral g w d a lit s
  | .cmpGeu g w d a b => Sys2Proof.Machine.execCmpGeu g w d a b s
  | .cmpGeuLiteral g w d a lit => Sys2Proof.Machine.execCmpGeuLiteral g w d a lit s
  | .plogAnd g d a b => Sys2Proof.Machine.execPlogAnd g d a b s
  | .plogOr g d a b => Sys2Proof.Machine.execPlogOr g d a b s
  | .plogXor g d a b => Sys2Proof.Machine.execPlogXor g d a b s
  | .plogAndn g d a b => Sys2Proof.Machine.execPlogAndn g d a b s
  | .plogOrn g d a b => Sys2Proof.Machine.execPlogOrn g d a b s
  | .plogNand g d a b => Sys2Proof.Machine.execPlogNand g d a b s
  | .plogNor g d a b => Sys2Proof.Machine.execPlogNor g d a b s
  | .plogXnor g d a b => Sys2Proof.Machine.execPlogXnor g d a b s
  | .sel g inv sel d a b => Sys2Proof.Machine.execSel g inv sel d a b s
  | .br g off => Sys2Proof.Machine.execBr g off s
  | .call g k off => Sys2Proof.Machine.execCall g k off s
  | .callLiteral g k lit => Sys2Proof.Machine.execCallLiteral g k lit s
  | .jmp g lit => Sys2Proof.Machine.execJmp g lit s
  | .callx g k a => Sys2Proof.Machine.execCallx g k a s
  | .loop d imm => Sys2Proof.Machine.execLoop d imm s
  | .ldD d a imm => Sys2Proof.Machine.execLdD d a imm s
  | .ldDLiteral d a lit => Sys2Proof.Machine.execLdDLiteral d a lit s
  | .ldW d a imm => Sys2Proof.Machine.execLdW d a imm s
  | .ldWLiteral d a lit => Sys2Proof.Machine.execLdWLiteral d a lit s
  | .stD d a imm => Sys2Proof.Machine.execStD d a imm s
  | .stDLiteral d a lit => Sys2Proof.Machine.execStDLiteral d a lit s
  | .stW d a imm => Sys2Proof.Machine.execStW d a imm s
  | .stWLiteral d a lit => Sys2Proof.Machine.execStWLiteral d a lit s
  | .ldIndexed g dw d a b => Sys2Proof.Machine.execLdIndexed g dw d a b s
  | .ldExtended g dw d a b sp q disp => Sys2Proof.Machine.execLdExtended g dw d a b sp q disp s
  | .stIndexed g dw d a b => Sys2Proof.Machine.execStIndexed g dw d a b s
  | .stExtended g dw d a b sp q disp => Sys2Proof.Machine.execStExtended g dw d a b sp q disp s
  | .lr g dw d a => Sys2Proof.Machine.execLr g dw d a s
  | .lrExtended g dw d a q => Sys2Proof.Machine.execLrExtended g dw d a q s
  | .sc g dw d a b => Sys2Proof.Machine.execSc g dw d a b s
  | .scExtended g dw d a b q => Sys2Proof.Machine.execScExtended g dw d a b q s
  | .amoAdd g dw d a b => Sys2Proof.Machine.execAmoAdd g dw d a b s
  | .amoAddExtended g dw d a b sp q => Sys2Proof.Machine.execAmoAddExtended g dw d a b sp q s
  | .amoAnd g dw d a b => Sys2Proof.Machine.execAmoAnd g dw d a b s
  | .amoAndExtended g dw d a b sp q => Sys2Proof.Machine.execAmoAndExtended g dw d a b sp q s
  | .amoOr g dw d a b => Sys2Proof.Machine.execAmoOr g dw d a b s
  | .amoOrExtended g dw d a b sp q => Sys2Proof.Machine.execAmoOrExtended g dw d a b sp q s
  | .amoXor g dw d a b => Sys2Proof.Machine.execAmoXor g dw d a b s
  | .amoXorExtended g dw d a b sp q => Sys2Proof.Machine.execAmoXorExtended g dw d a b sp q s
  | .amoMin g dw d a b => Sys2Proof.Machine.execAmoMin g dw d a b s
  | .amoMinExtended g dw d a b sp q => Sys2Proof.Machine.execAmoMinExtended g dw d a b sp q s
  | .amoMax g dw d a b => Sys2Proof.Machine.execAmoMax g dw d a b s
  | .amoMaxExtended g dw d a b sp q => Sys2Proof.Machine.execAmoMaxExtended g dw d a b sp q s
  | .amoSwap g dw d a b => Sys2Proof.Machine.execAmoSwap g dw d a b s
  | .amoSwapExtended g dw d a b sp q => Sys2Proof.Machine.execAmoSwapExtended g dw d a b sp q s
  | .cas g dw d a b => Sys2Proof.Machine.execCas g dw d a b s
  | .casExtended g dw d a b sp q => Sys2Proof.Machine.execCasExtended g dw d a b sp q s
  | .fence g scope mask => Sys2Proof.Machine.execFence g scope mask s
  | .waitrs g d a => Sys2Proof.Machine.execWaitrs g d a s
  | .sld g t d a b => Sys2Proof.Machine.execSld g t d a b s
  | .sldExtended g t d a b w q disp => Sys2Proof.Machine.execSldExtended g t d a b w q disp s
  | .sst g t d a b => Sys2Proof.Machine.execSst g t d a b s
  | .sstExtended g t d a b w q disp => Sys2Proof.Machine.execSstExtended g t d a b w q disp s
  | .samo g t d a b aop w q c disp => Sys2Proof.Machine.execSamo g t d a b aop w q c disp s
  | .cinv g a b => Sys2Proof.Machine.execCinv g a b s
  | .cinvAll g => Sys2Proof.Machine.execCinvAll g s
  | .vadd g d a b => Sys2Proof.Machine.execVadd g d a b s
  | .vaddExtended g d a b fa => Sys2Proof.Machine.execVaddExtended g d a b fa s
  | .vsub g d a b => Sys2Proof.Machine.execVsub g d a b s
  | .vsubExtended g d a b fa => Sys2Proof.Machine.execVsubExtended g d a b fa s
  | .vmul g d a b => Sys2Proof.Machine.execVmul g d a b s
  | .vmulExtended g d a b fa => Sys2Proof.Machine.execVmulExtended g d a b fa s
  | .vmin g d a b => Sys2Proof.Machine.execVmin g d a b s
  | .vminExtended g d a b fa => Sys2Proof.Machine.execVminExtended g d a b fa s
  | .vmax g d a b => Sys2Proof.Machine.execVmax g d a b s
  | .vmaxExtended g d a b fa => Sys2Proof.Machine.execVmaxExtended g d a b fa s
  | .vabs g d a => Sys2Proof.Machine.execVabs g d a s
  | .vabsExtended g d a fa => Sys2Proof.Machine.execVabsExtended g d a fa s
  | .vneg g d a => Sys2Proof.Machine.execVneg g d a s
  | .vnegExtended g d a fa => Sys2Proof.Machine.execVnegExtended g d a fa s
  | .vrcp g d a => Sys2Proof.Machine.execVrcp g d a s
  | .vrcpExtended g d a fa => Sys2Proof.Machine.execVrcpExtended g d a fa s
  | .vrsq g d a => Sys2Proof.Machine.execVrsq g d a s
  | .vrsqExtended g d a fa => Sys2Proof.Machine.execVrsqExtended g d a fa s
  | .vex2 g d a => Sys2Proof.Machine.execVex2 g d a s
  | .vex2Extended g d a fa => Sys2Proof.Machine.execVex2Extended g d a fa s
  | .vlg2 g d a => Sys2Proof.Machine.execVlg2 g d a s
  | .vlg2Extended g d a fa => Sys2Proof.Machine.execVlg2Extended g d a fa s
  | .vsqrt g d a => Sys2Proof.Machine.execVsqrt g d a s
  | .vsqrtExtended g d a fa => Sys2Proof.Machine.execVsqrtExtended g d a fa s
  | .vfma g d a b => Sys2Proof.Machine.execVfma g d a b s
  | .vfmaExtended g d a b fa => Sys2Proof.Machine.execVfmaExtended g d a b fa s
  | .vfms g d a b => Sys2Proof.Machine.execVfms g d a b s
  | .vfmsExtended g d a b fa => Sys2Proof.Machine.execVfmsExtended g d a b fa s
  | .vcvt g d a fa fb hs hd => Sys2Proof.Machine.execVcvt g d a fa fb hs hd s
  | .vcmpFeq g d a b => Sys2Proof.Machine.execVcmpFeq g d a b s
  | .vcmpFeqExtended g d a b fa half => Sys2Proof.Machine.execVcmpFeqExtended g d a b fa half s
  | .vcmpFne g d a b => Sys2Proof.Machine.execVcmpFne g d a b s
  | .vcmpFneExtended g d a b fa half => Sys2Proof.Machine.execVcmpFneExtended g d a b fa half s
  | .vcmpFlt g d a b => Sys2Proof.Machine.execVcmpFlt g d a b s
  | .vcmpFltExtended g d a b fa half => Sys2Proof.Machine.execVcmpFltExtended g d a b fa half s
  | .vcmpFle g d a b => Sys2Proof.Machine.execVcmpFle g d a b s
  | .vcmpFleExtended g d a b fa half => Sys2Proof.Machine.execVcmpFleExtended g d a b fa half s
  | .vcmpFunord g d a b => Sys2Proof.Machine.execVcmpFunord g d a b s
  | .vcmpFunordExtended g d a b fa half => Sys2Proof.Machine.execVcmpFunordExtended g d a b fa half s
  | .vcmpIeq g d a b => Sys2Proof.Machine.execVcmpIeq g d a b s
  | .vcmpIne g d a b => Sys2Proof.Machine.execVcmpIne g d a b s
  | .vcmpIlt g d a b => Sys2Proof.Machine.execVcmpIlt g d a b s
  | .vcmpIle g d a b => Sys2Proof.Machine.execVcmpIle g d a b s
  | .vcmpIltu g d a b => Sys2Proof.Machine.execVcmpIltu g d a b s
  | .vcmpIleu g d a b => Sys2Proof.Machine.execVcmpIleu g d a b s
  | .vsel g inv sel d a b => Sys2Proof.Machine.execVsel g inv sel d a b s
  | .vand g d a b => Sys2Proof.Machine.execVand g d a b s
  | .vor g d a b => Sys2Proof.Machine.execVor g d a b s
  | .vxor g d a b => Sys2Proof.Machine.execVxor g d a b s
  | .vshl g d a b => Sys2Proof.Machine.execVshl g d a b s
  | .vshr g d a b => Sys2Proof.Machine.execVshr g d a b s
  | .viadd g d a b => Sys2Proof.Machine.execViadd g d a b s
  | .vimul g d a b => Sys2Proof.Machine.execVimul g d a b s
  | .vperm g d a b => Sys2Proof.Machine.execVperm g d a b s
  | .vbcast g d a => Sys2Proof.Machine.execVbcast g d a s
  | .vextr g d a b => Sys2Proof.Machine.execVextr g d a b s
  | .vins g d a b => Sys2Proof.Machine.execVins g d a b s
  | .vredFadd g d a => Sys2Proof.Machine.execVredFadd g d a s
  | .vredFaddExtended g d a fa => Sys2Proof.Machine.execVredFaddExtended g d a fa s
  | .vredFmin g d a => Sys2Proof.Machine.execVredFmin g d a s
  | .vredFminExtended g d a fa => Sys2Proof.Machine.execVredFminExtended g d a fa s
  | .vredFmax g d a => Sys2Proof.Machine.execVredFmax g d a s
  | .vredFmaxExtended g d a fa => Sys2Proof.Machine.execVredFmaxExtended g d a fa s
  | .vredIadd g d a => Sys2Proof.Machine.execVredIadd g d a s
  | .vredImin g d a => Sys2Proof.Machine.execVredImin g d a s
  | .vredImax g d a => Sys2Proof.Machine.execVredImax g d a s
  | .vdotS8 g d a b => Sys2Proof.Machine.execVdotS8 g d a b s
  | .vdotU8s8 g d a b => Sys2Proof.Machine.execVdotU8s8 g d a b s
  | .vdotF16 g d a b => Sys2Proof.Machine.execVdotF16 g d a b s
  | .vdotBf16 g d a b => Sys2Proof.Machine.execVdotBf16 g d a b s
  | .vld g d a b => Sys2Proof.Machine.execVld g d a b s
  | .vldExtended g d a b sp q disp => Sys2Proof.Machine.execVldExtended g d a b sp q disp s
  | .vst g d a b => Sys2Proof.Machine.execVst g d a b s
  | .vstExtended g d a b sp q disp => Sys2Proof.Machine.execVstExtended g d a b sp q disp s
  | .vgath g d a b => Sys2Proof.Machine.execVgath g d a b s
  | .vgathExtended g d a b sp q => Sys2Proof.Machine.execVgathExtended g d a b sp q s
  | .vscat g d a b => Sys2Proof.Machine.execVscat g d a b s
  | .vscatExtended g d a b sp q => Sys2Proof.Machine.execVscatExtended g d a b sp q s
  | .valloc g d a => Sys2Proof.Machine.execValloc g d a s
  | .vfree g a => Sys2Proof.Machine.execVfree g a s
  | .tcfg g d a => Sys2Proof.Machine.execTcfg g d a s
  | .tcfgr g d a => Sys2Proof.Machine.execTcfgr g d a s
  | .tzero g d => Sys2Proof.Machine.execTzero g d s
  | .tmov g d a => Sys2Proof.Machine.execTmov g d a s
  | .tconj g d a => Sys2Proof.Machine.execTconj g d a s
  | .txp g d a => Sys2Proof.Machine.execTxp g d a s
  | .tnorm g d a => Sys2Proof.Machine.execTnorm g d a s
  | .tld g d a b => Sys2Proof.Machine.execTld g d a b s
  | .tldExtended g d a b sp planar disp => Sys2Proof.Machine.execTldExtended g d a b sp planar disp s
  | .tst g d a b => Sys2Proof.Machine.execTst g d a b s
  | .tstExtended g d a b sp planar disp => Sys2Proof.Machine.execTstExtended g d a b sp planar disp s
  | .mma g cb ca ba d a b => Sys2Proof.Machine.execMma g cb ca ba d a b s
  | .mmaCbuf g cb ca ba d a b c => Sys2Proof.Machine.execMmaCbuf g cb ca ba d a b c s
  | .tsca g d a b => Sys2Proof.Machine.execTsca g d a b s
  | .qnt g d a b => Sys2Proof.Machine.execQnt g d a b s
  | .dqnt g d a b => Sys2Proof.Machine.execDqnt g d a b s
  | .talg g d a => Sys2Proof.Machine.execTalg g d a s
  | .boxv g d a b => Sys2Proof.Machine.execBoxv g d a b s
  | .boxvExtended g d a b sp => Sys2Proof.Machine.execBoxvExtended g d a b sp s
  | .trix g d a b => Sys2Proof.Machine.execTrix g d a b s
  | .trixExtended g d a b sp => Sys2Proof.Machine.execTrixExtended g d a b sp s
  | .splt g d a b => Sys2Proof.Machine.execSplt g d a b s
  | .spltExtended g d a b sp => Sys2Proof.Machine.execSpltExtended g d a b sp s
  | .volseg g d a b => Sys2Proof.Machine.execVolseg g d a b s
  | .volsegExtended g d a b sp => Sys2Proof.Machine.execVolsegExtended g d a b sp s
  | .ivmake g d a b => Sys2Proof.Machine.execIvmake g d a b s
  | .ivins g a => Sys2Proof.Machine.execIvins g a s
  | .ivget g d a => Sys2Proof.Machine.execIvget g d a s
  | .ivqry g d b => Sys2Proof.Machine.execIvqry g d b s
  | .ivcut g a => Sys2Proof.Machine.execIvcut g a s
  | .ivclr g => Sys2Proof.Machine.execIvclr g s
  | .ivcomp g d => Sys2Proof.Machine.execIvcomp g d s
  | .ivcfg g a => Sys2Proof.Machine.execIvcfg g a s
  | .recvw g d => Sys2Proof.Machine.execRecvw g d s
  | .migr g a => Sys2Proof.Machine.execMigr g a s
  | .spawn g d a b => Sys2Proof.Machine.execSpawn g d a b s
  | .cdec g a => Sys2Proof.Machine.execCdec g a s
  | .hintsucc g => Sys2Proof.Machine.execHintsucc g s
  | .waitpred g => Sys2Proof.Machine.execWaitpred g s
  | .enq g a b => Sys2Proof.Machine.execEnq g a b s
  | .deq g d a => Sys2Proof.Machine.execDeq g d a s
  | .taskget g d => Sys2Proof.Machine.execTaskget g d s
  | .bar g => Sys2Proof.Machine.execBar g s
  | .semw g a b => Sys2Proof.Machine.execSemw g a b s
  | .sems g a b => Sys2Proof.Machine.execSems g a b s
  | .copy g d a b e disp => Sys2Proof.Machine.execCopy g d a b e disp s
  | .getx g d a b e disp => Sys2Proof.Machine.execGetx g d a b e disp s
  | .putx g d a b e => Sys2Proof.Machine.execPutx g d a b e s
  | .coll g a e => Sys2Proof.Machine.execColl g a e s
  | .tagwAll g a => Sys2Proof.Machine.execTagwAll g a s
  | .tagwAllLiteral g lit => Sys2Proof.Machine.execTagwAllLiteral g lit s
  | .tagwAny g a => Sys2Proof.Machine.execTagwAny g a s
  | .tagwAnyLiteral g lit => Sys2Proof.Machine.execTagwAnyLiteral g lit s
  | .tagf g d => Sys2Proof.Machine.execTagf g d s
  | .xreqLayout g d a b => Sys2Proof.Machine.execXreqLayout g d a b s
  | .xreqQuant g d a b => Sys2Proof.Machine.execXreqQuant g d a b s
  | .xreqCksum g d a b => Sys2Proof.Machine.execXreqCksum g d a b s
  | .trap g code => Sys2Proof.Machine.execTrap g code s
  | .eret g => Sys2Proof.Machine.execEret g s
  | .sysr d num => Sys2Proof.Machine.execSysr d num s
  | .sysw a num => Sys2Proof.Machine.execSysw a num s
  | .stab g a b => Sys2Proof.Machine.execStab g a b s
  | .tlbi g a => Sys2Proof.Machine.execTlbi g a s
  | .tlbiAll g => Sys2Proof.Machine.execTlbiAll g s
  | .preempt g a => Sys2Proof.Machine.execPreempt g a s
  | .ctxsave g a => Sys2Proof.Machine.execCtxsave g a s
  | .ctxload g a => Sys2Proof.Machine.execCtxload g a s
  | .portWordArrival cell q => Sys2Proof.Machine.execPortWordArrival cell q s
  | .portStall slot => Sys2Proof.Machine.execPortStall slot s
  | .enqStall slot => Sys2Proof.Machine.execEnqStall slot s
  | .waitrsTimeout slot => Sys2Proof.Machine.execWaitrsTimeout slot s
  | .reservationInstructionLimit slot => Sys2Proof.Machine.execReservationInstructionLimit slot s
  | .yieldExpiry slot => Sys2Proof.Machine.execYieldExpiry slot s
  | .loadPerformed who j => Sys2Proof.Machine.execLoadPerformed who j s
  | .storePerformed who j => Sys2Proof.Machine.execStorePerformed who j s
  | .atomicPerformed slot => Sys2Proof.Machine.execAtomicPerformed slot s
  | .stagedAccessAtHome slot => Sys2Proof.Machine.execStagedAccessAtHome slot s
  | .parkReevaluation line => Sys2Proof.Machine.execParkReevaluation line s
  | .readMostlyFill cluster line => Sys2Proof.Machine.execReadMostlyFill cluster line s
  | .readMostlyDrop cluster line => Sys2Proof.Machine.execReadMostlyDrop cluster line s
  | .writeCombiningDrain slot => Sys2Proof.Machine.execWriteCombiningDrain slot s
  | .pageWalk cluster va => Sys2Proof.Machine.execPageWalk cluster va s
  | .faultRecordAppend part => Sys2Proof.Machine.execFaultRecordAppend part s
  | .errorRecordAppend part => Sys2Proof.Machine.execErrorRecordAppend part s
  | .trapDelivery slot => Sys2Proof.Machine.execTrapDelivery slot s
  | .strandEnd slot => Sys2Proof.Machine.execStrandEnd slot s
  | .semaphoreWaitStep cluster sem => Sys2Proof.Machine.execSemaphoreWaitStep cluster sem s
  | .migrantArrival cluster => Sys2Proof.Machine.execMigrantArrival cluster s
  | .hingeFill slot => Sys2Proof.Machine.execHingeFill slot s
  | .arbiterDispatch part => Sys2Proof.Machine.execArbiterDispatch part s
  | .crewPlacement launch => Sys2Proof.Machine.execCrewPlacement launch s
  | .bootForward launch cell => Sys2Proof.Machine.execBootForward launch cell s
  | .launchEnd launch => Sys2Proof.Machine.execLaunchEnd launch s
  | .engineCommandStart hart => Sys2Proof.Machine.execEngineCommandStart hart s
  | .compressedBlockRewrite hart pos tokens => Sys2Proof.Machine.execCompressedBlockRewrite hart pos tokens s
  | .logCollectorStep part => Sys2Proof.Machine.execLogCollectorStep part s
  | .teTransition hart pos => Sys2Proof.Machine.execTeTransition hart pos s
  | .engineSignal hart pos => Sys2Proof.Machine.execEngineSignal hart pos s
  | .mailboxWrite hart pos => Sys2Proof.Machine.execMailboxWrite hart pos s
  | .tagReady hart pos => Sys2Proof.Machine.execTagReady hart pos s
  | .commandPause hart pos => Sys2Proof.Machine.execCommandPause hart pos s
  | .collStep engine data => Sys2Proof.Machine.execCollStep engine data s
  | .xreqCompletion slot => Sys2Proof.Machine.execXreqCompletion slot s
  | .contextSave slot => Sys2Proof.Machine.execContextSave slot s
  | .contextCacheSpill cluster => Sys2Proof.Machine.execContextCacheSpill cluster s
  | .watchdogT1 queue => Sys2Proof.Machine.execWatchdogT1 queue s
  | .watchdogT2 queue => Sys2Proof.Machine.execWatchdogT2 queue s
  | .viewTake engine line => Sys2Proof.Machine.execViewTake engine line s
  | .viewFrameEncode engine unit => Sys2Proof.Machine.execViewFrameEncode engine unit s
  | .viewRecordWrite engine => Sys2Proof.Machine.execViewRecordWrite engine s
  | .viewRelease engine line => Sys2Proof.Machine.execViewRelease engine line s
  | .haspFlitReceive link crcOk => Sys2Proof.Machine.execHaspFlitReceive link crcOk s
  | .haspLinkDown link => Sys2Proof.Machine.execHaspLinkDown link s
  | .moduleReset ok hbm hasp peers => Sys2Proof.Machine.execModuleReset ok hbm hasp peers s
  | .doorbell queue val => Sys2Proof.Machine.execDoorbell queue val s
  | .commandFetch queue => Sys2Proof.Machine.execCommandFetch queue s
  | .seqRefetch queue => Sys2Proof.Machine.execSeqRefetch queue s
  | .queueEnable queue => Sys2Proof.Machine.execQueueEnable queue s
  | .completionConsumerWrite queue val => Sys2Proof.Machine.execCompletionConsumerWrite queue val s
  | .viewConsumerWrite engine val => Sys2Proof.Machine.execViewConsumerWrite engine val s
  | .viewFaultClear engine val => Sys2Proof.Machine.execViewFaultClear engine val s
  | .haspReplaysClear link val => Sys2Proof.Machine.execHaspReplaysClear link val s
  | .haspModuleWrite link val => Sys2Proof.Machine.execHaspModuleWrite link val s
  | .wbaseWrite val => Sys2Proof.Machine.execWbaseWrite val s
  | .errorCounterClear cluster refetch val => Sys2Proof.Machine.execErrorCounterClear cluster refetch val s
  | .firmwareStageImage ok => Sys2Proof.Machine.execFirmwareStageImage ok s
  | .installImageKey => Sys2Proof.Machine.execInstallImageKey s
  | .removeImageKey => Sys2Proof.Machine.execRemoveImageKey s
  | .firmwareBadCommand => Sys2Proof.Machine.execFirmwareBadCommand s
  | .attestationRequest val => Sys2Proof.Machine.execAttestationRequest val s
  | .attestationReport => Sys2Proof.Machine.execAttestationReport s
  | .registerWrite off val => Sys2Proof.Machine.execRegisterWrite off val s
  | .launch queue => Sys2Proof.Machine.execLaunch queue s
  | .replay queue => Sys2Proof.Machine.execReplay queue s
  | .patch queue => Sys2Proof.Machine.execPatch queue s
  | .patchApply queue => Sys2Proof.Machine.execPatchApply queue s
  | .qcreate queue => Sys2Proof.Machine.execQcreate queue s
  | .qdestroy queue => Sys2Proof.Machine.execQdestroy queue s
  | .fanswer queue => Sys2Proof.Machine.execFanswer queue s
  | .sreset queue => Sys2Proof.Machine.execSreset queue s
  | .vbind queue => Sys2Proof.Machine.execVbind queue s
  | .group queue => Sys2Proof.Machine.execGroup queue s
  | .hwin queue => Sys2Proof.Machine.execHwin queue s
  | .logset queue => Sys2Proof.Machine.execLogset queue s
  | .ppreempt queue => Sys2Proof.Machine.execPpreempt queue s
  | .restart queue => Sys2Proof.Machine.execRestart queue s
  | .kload queue => Sys2Proof.Machine.execKload queue s
  | .kunload queue => Sys2Proof.Machine.execKunload queue s
  | .pcreate queue => Sys2Proof.Machine.execPcreate queue s
  | .presize queue => Sys2Proof.Machine.execPresize queue s
  | .pdestroy queue => Sys2Proof.Machine.execPdestroy queue s
  | .illegalInstrIssue slot => Sys2Proof.Machine.execIllegalInstrIssue slot s
  | .instructionFetchFault slot => Sys2Proof.Machine.execInstructionFetchFault slot s
  | .mmaCompletion slot => Sys2Proof.Machine.execMmaCompletion slot s
  | .memoryError line corrected => Sys2Proof.Machine.execMemoryError line corrected s
  | .parityError slot => Sys2Proof.Machine.execParityError slot s
  | .queueConsumerIndexWrite part errq val => Sys2Proof.Machine.execQueueConsumerIndexWrite part errq val s
  | .bar4Access off write => Sys2Proof.Machine.execBar4Access off write s

end Sys2Proof.Machine
end

