-- ==== Sys2Proof/Machine/Load.lean ====
section
/-! DEFINITION. An instruction placed for the next step: what the host and the launch loader would have done to have one strand issue
it. Partition 0 with cluster 0 and a page table that maps the first GiB of device memory, one launch of one crew on cell 0, its strand in
slot 0, and the issue turn of cell 0 at the head of the agenda. -/
namespace Sys2Proof.Machine

/-- Where the placed instruction lies. -/
def placedPc : Nat := 0x30000

/-- The launch of the placed strand: one cell, one slot, 32 vector registers, 16 tiles, lists of 8 records, PRIV, and a trap vector. -/
def placedLaunch (clock : Nat) : Launch :=
  { desc := [0, 1, 1, 32, 16, 3, 0, 0, 0, 2, 0, 0, 0, 0, 0, 0, 0, 0, 0, 1] ++ zeros 54 ++ [4] ++ zeros 7 ++ [3] ++ zeros 54 ++ [1] ++ zeros 54
    kslot := 0, queue := 1, cmd := 0, node := none
    crews := [(0, { Crew.fresh with cluster := some 0, cells := [(0, 0, 0)], m := 1 })]
    preds := [], next := 0, remaining := 0, order := 0, queuedAt := clock, held := false, away := [] }

/-- Partition 0 as it stands, or a new one, with the placed page table, cluster and launch. -/
def placedPart (clock : Nat) (x : Partition) : Partition :=
  { x with clusters := if x.clusters.isEmpty then [0] else 0 :: x.clusters.filter (· != 0)
           root := 0x10000, launches := NMap.set x.launches 0 (placedLaunch clock), preempting := [] }

/-- Write words of device memory with no trace of earlier code or poison on them (R76, R285). -/
def State.placeBytes (s : State) (a : Nat) (bs : List (BitVec 8)) : State :=
  let s1 := s.setBytes a bs
  { s1 with codeLog := s1.codeLog.filter fun x => decide (x.1 < a / 4) || decide ((a + bs.length) / 4 ≤ x.1)
            poisoned := s1.poisoned.filter fun x => decide (x.1 < a / 64) || decide ((a + bs.length) / 64 < x.1) }

/-- Place the 20 bytes of an instruction and what has the next step issue it. DESIGN CHOICE: log 8. -/
def State.place (s : State) (bs : List (BitVec 8)) : State :=
  let s1 := ((s.placeBytes 0x10000 (leBytes 0x20001 8)).placeBytes 0x20000 (leBytes 0x1F 8)).placeBytes placedPc bs
  let l := placedLaunch s.clock
  let st := startStrand ⟨0, 0, l, 0, 0, 0⟩ [] 0 0 s.serial
  { s1 with
    parts := NMap.set s1.parts 0 (placedPart s.clock ((s1.part? 0).getD (Partition.ofBlock [])))
    clusters := NMap.set s1.clusters 0 { s1.cluster 0 with owner := some (0, 0), tlb := [] }
    cells := NMap.set s1.cells 0 { s1.cell 0 with lastIssued := 15 }
    slots := NMap.set s1.slots 0 st
    serial := s1.serial + 1
    agenda := [.issue 0] }

end Sys2Proof.Machine
end

