-- ==== Sys2Proof/Machine/Own.lean ====
section
/-! DEFINITION. What happens while the agenda is empty: the machine's own order of turns (R240, R294). Every turn that the state calls
for has a number; they are taken in rotation, each the first after the one taken last. A turn that only the outside world brings
(a doorbell, an error, a bitstream, another module) is none of them. -/
namespace Sys2Proof.Machine

/-- A turn under its number, if it is called for. -/
def called (on : Bool) (k : Nat) (t : Turn) : List (Nat × Turn) := if on then [(k, t)] else []

/-- Turns under the numbers of a class. -/
def classed (c : Nat) (l : List (Nat × Turn)) : List (Nat × Turn) := l.map fun x => (c * 2 ^ 40 + x.1, x.2)

/-! ### Strands -/

/-- The strand waits inside an instruction that it can try again. -/
def Strand.retries (st : Strand) : Bool :=
  !st.kept && match st.wait, st.held with
    | none, _ => false
    | some ⟨.parked, _⟩, _ => false
    | some ⟨.faultPending _ _, _⟩, _ => false
    | some ⟨.xreq, _⟩, _ => false
    | some ⟨.lanes, _⟩, _ => false
    | some _, some _ => true
    | some ⟨.replay, _⟩, none => true
    | some ⟨.bar _, _⟩, none => true
    | some _, none => false

/-- A strand's wait of a kind has lasted beyond its launch's port-stall limit. -/
def State.stalled (s : State) (st : Strand) (k : WaitKind) : Bool :=
  match st.wait, s.launch? st.part st.launch with
  | some w, some l => w.kind == k && decide (w.since + l.stall < s.clock)
  | _, _ => false

/-- The turns of the strand in slot n. -/
noncomputable def State.slotTurns (s : State) (n : Nat) (st : Strand) : List (Nat × Turn) :=
  let k := 16 * n
  called (s.nextSlot (cellOf n) == some (slotOf n)) k (.issue (cellOf n))
    ++ called st.retries (k + 1) (.retry n)
    ++ (match st.window with
      | x :: _ => [(k + 2, .event (if x.store then .storePerformed (.slot n) 0 else .loadPerformed (.slot n) 0))]
      | [] => [])
    ++ called st.trapPend.isSome (k + 3) (.event (.trapDelivery n))
    ++ called ((st.mma.map fun m => decide (m.due ≤ s.clock)).getD false) (k + 4) (.event (.mmaCompletion n))
    ++ called st.halting (k + 5) (.event (.strandEnd n))
    ++ called st.preReq.isSome (k + 6) (.event (.contextSave n))
    ++ called (match st.wait with
      | some ⟨.waitrs d, _⟩ => decide (d ≤ s.clock)
      | _ => false) (k + 7) (.event (.waitrsTimeout n))
    ++ called (s.stalled st .portSend) (k + 8) (.event (.portStall n))
    ++ called (s.stalled st .enqFull) (k + 9) (.event (.enqStall n))
    ++ called (s.resv.any fun r => r.ownedBy st && decide (32 < r.count) && !r.lost) (k + 10) (.event (.reservationInstructionLimit n))
    ++ called (match (s.cluster (clusterOf n)).coproc with
      | some x => x.slot == n && x.done
      | none => false) (k + 11) (.event (.xreqCompletion n))

/-! ### Cells and clusters -/

/-- The arrivals at a cell's receive queues. -/
noncomputable def portTurns (n : Nat) (c : Cell) : List (Nat × Turn) :=
  c.ports.flatMap fun q =>
    called (!q.2.flight.isEmpty && decide (q.2.words.length < 8)) (4 * n + q.1) (.event (.portWordArrival n (BitVec.ofNat 2 q.1)))

/-- The first number below a bound that is not among some; `done` is how many those are. -/
def firstMissing (bound done : Nat) (has : Nat → Bool) : Option Nat := (List.range (min bound (done + 1))).find? fun j => !has j

/-- A turn that performs one access of an agent: a read or a write. -/
noncomputable def accessTurn (k : Nat) (store : Bool) (who : Agent) (j : Nat) : Nat × Turn :=
  (k, .event (if store then .storePerformed who j else .loadPerformed who j))

/-- The accesses of a coprocessor: the one it is held at, or the lowest read and the lowest write that are due. -/
noncomputable def coprocTurns (k : Nat) (x : Xreq) : List (Nat × Turn) :=
  if x.stopped then []
  else match x.hold with
    | .replay => [accessTurn (8 * k + 2) (atWhat x.holdAt != 0) (.coproc k) (atElem x.holdAt)]
    | .poll =>
      ((firstMissing x.count x.loaded.length fun j => (NMap.get? x.loaded j).isSome).toList.map (accessTurn (8 * k + 2) false (.coproc k)))
        ++ (((firstMissing x.stores x.stored.length x.stored.contains).filter fun j => (x.storeOf j).isSome).toList.map
          (accessTurn (8 * k + 3) true (.coproc k)))
    | _ => []

/-- The read-mostly pages a cluster's TLB knows: their first address and size. -/
def Cluster.mostlyPages (c : Cluster) : List (Nat × Nat) :=
  (c.tlb.filter fun t => leafType t.leaf == 1).map fun t => (t.va * levelSize t.level, levelSize t.level)

/-- The steps that R247 and R279 permit at any time, each for a freely chosen address or copy: a walk, a fill, a drop. -/
noncomputable def permittedTurns (now k : Nat) (c : Cluster) : List (Nat × Turn) :=
  let free := Config.pick now
  called c.owner.isSome (8 * k + 4) (.event (.pageWalk k (free % 2 ^ 48)))
    ++ (match c.mostlyPages[free % c.mostlyPages.length]? with
      | some (a, n) => [(8 * k + 5, .event (.readMostlyFill k ((a + free % n) / 64)))]
      | none => [])
    ++ (match (c.copies.map Prod.fst)[free % c.copies.length]? with
      | some line => [(8 * k + 6, .event (.readMostlyDrop k line))]
      | none => [])

/-- The turns of a cluster. -/
noncomputable def clusterTurns (k : Nat) (c : Cluster) : List (Nat × Turn) :=
  called (c.migrants.any fun m => !m.1) (8 * k) (.event (.migrantArrival k))
    ++ ((c.semWaiters.find? fun w => (c.ripe w.sem).isSome).toList.map fun w => (8 * k + 1, .event (.semaphoreWaitStep k w.sem)))
    ++ (c.coproc.toList.flatMap (coprocTurns k))

/-! ### Harts -/

/-- The access a held command is answered for. -/
noncomputable def heldTurn (h pos : Nat) (c : Command) : Turn :=
  let j := 64 * atElem c.holdAt + pos
  match atWhat c.holdAt with
  | 0 => .event (.loadPerformed (.hart h) j)
  | 1 => .event (.storePerformed (.hart h) j)
  | 2 => .event (.teTransition h pos)
  | 4 => .event (.loadPerformed (.hart h) j)
  | _ => .event (if c.coll then .collStep (h - 384) [] else .compressedBlockRewrite h pos [])

/-- The elements of a COLL's entry in hand that it reads, and those it writes once what it receives is there (R358). -/
def Command.entryCounts (c : Command) : Nat × Nat :=
  match c.table with
  | none => (0, 0)
  | some e =>
    (if field e 0 1 ≤ 1 then field e 16 8 else 0, if (NMap.get? c.blocks c.entry).isSome then field e 16 8 else 0)

/-- The steps of a running command's data, under numbers from k on: the lowest read and the lowest write that are due, and what is no element's.
-/
noncomputable def dataTurns (h pos k : Nat) (c : Command) : List (Nat × Turn) :=
  if c.coll then
    ((firstMissing c.entryCounts.1 c.loaded.length fun i => (NMap.get? c.loaded i).isSome).toList.map fun i =>
        accessTurn k false (.hart h) (64 * i + pos))
      ++ ((firstMissing c.entryCounts.2 c.stored.length c.stored.contains).toList.map fun i =>
        accessTurn (k + 1) true (.hart h) (64 * i + pos))
      ++ [(k + 2, .event (.collStep (h - 384) []))]
  else
    let load := (firstMissing (c.count - c.startAt) c.loaded.length fun i => (NMap.get? c.loaded (c.startAt + i)).isSome).map (c.startAt + ·)
    let store := (firstMissing (c.count - c.startAt) c.stored.length fun i => c.stored.contains (c.startAt + i)).map (c.startAt + ·)
    (load.toList.map fun j => accessTurn k false (.hart h) (64 * j + pos))
      ++ ((store.filter c.mayStore).toList.map fun j => accessTurn (k + 1) true (.hart h) (64 * j + pos))
      ++ called (c.eng.te && c.allDone) (k + 2) (.event (.teTransition h pos))
      ++ called (c.eng.z && !c.allDone) (k + 3) (.event (.compressedBlockRewrite h pos []))

/-- The turns of a running command: its data, or the steps of its completion. -/
noncomputable def State.runningTurns (s : State) (h pos : Nat) (c : Command) : List (Nat × Turn) :=
  let k := 1024 * h + 8 * pos + 8
  match c.phase with
  | 0 =>
    if s.dataDone c then
      if c.eng.si = 0 then [(k, .event (.mailboxWrite h pos))] else [(k, .event (.engineSignal h pos))]
    else
      (match c.hold with
        | .poll => dataTurns h pos k c
        | .replay => [(k, heldTurn h pos c)]
        | _ => [])
  | 1 => [(k, .event (.mailboxWrite h pos))]
  | _ => [(k, .event (.tagReady h pos))]

/-- The turns of a hart. -/
noncomputable def State.hartTurns (s : State) (h : Nat) (x : Hart) : List (Nat × Turn) :=
  called (match x.queue.head? with
      | some c => !(s.cluster (c.cell / 8)).semWaiters.any (SemWaiter.is (.hart h) c.id)
      | none => false) (1024 * h) (.event (.engineCommandStart h))
    ++ ((List.zip (List.range 64) x.running).flatMap fun c => s.runningTurns h c.1 c.2)
    ++ ((List.zip (List.range 128) (x.running ++ x.queue)).flatMap fun c =>
      called (s.pauseDue c.2) (1024 * h + 600 + c.1) (.event (.commandPause h c.1)))

/-! ### Partitions and launches -/

/-- A log has no room for a block of any length. -/
def Log.tight (l : Log) : Bool := !l.blocks.isEmpty && (l.room 65).isNone

/-- The turns of a partition. -/
noncomputable def State.partTurns (s : State) (p : Nat) (x : Partition) : List (Nat × Turn) :=
  called ((x.faults.any fun f => !f.appended) && decide ((x.fprod - x.fcons).toNat < 1024)) (4 * p) (.event (.faultRecordAppend p))
    ++ called (!x.errs.isEmpty && decide ((x.eprod - x.econs).toNat < 1024)) (4 * p + 1) (.event (.errorRecordAppend p))
    ++ called (s.pickQueue p).isSome (4 * p + 2) (.event (.arbiterDispatch p))
    ++ called (x.logs.any fun l => l.2.tight) (4 * p + 3) (.event (.logCollectorStep p))

/-- The turns of a launch. -/
noncomputable def State.launchTurns (s : State) (p id : Nat) (l : Launch) : List (Nat × Turn) :=
  let name := p * 2 ^ 16 + id
  let k := name * 2 ^ 16
  called (l.undecided || s.placeable p l) k (.event (.crewPlacement name))
    ++ called (!s.launchBusy p (id, l) && !s.launchOwes p id) (k + 1) (.event (.launchEnd name))
    ++ (l.crews.flatMap fun c =>
      if c.2.boot.isEmpty then []
      else (List.range l.nCells).flatMap fun i =>
        let lc := c.1 * l.nCells + i
        called (c.2.cluster.isSome && !c.2.boot.contains lc) (k + 2 + lc) (.event (.bootForward name lc)))

/-- The slots of a launch's windows that are free and have a candidate. -/
noncomputable def State.hingeTurns (s : State) (p id : Nat) (l : Launch) : List (Nat × Turn) :=
  l.crews.flatMap fun c =>
    if !c.2.started then []
    else c.2.cells.flatMap fun w =>
      (List.range l.nSlots).flatMap fun j =>
        let n := w.1 * 16 + w.2.1 + j
        let win : Window := ⟨p, id, l, c.1, w.2.1, w.2.2⟩
        called ((s.strand? n).isNone && (s.candidates win w.1).any (s.qualifies win n)) n (.event (.hingeFill n))

/-- A cell whose codelet ring holds entries of launches without a window there drops them at its next fill (R298). -/
noncomputable def State.orphanTurns (s : State) (cell : Nat) (c : Cell) : List (Nat × Turn) :=
  if match (s.cluster (cell / 8)).owner with
    | some (p, _) => c.ring.any (s.stray cell) || (((s.part? p).map (s.queuedStrays cell)).getD []).any (fun _ => true)
    | none => false
  then
    ((List.range 16).find? fun j => (s.strand? (cell * 16 + j)).isNone).toList.map fun j => (cell, .event (.hingeFill (cell * 16 + j)))
  else []

/-! ### Host queues, view engines, links and the mailbox -/

/-- The step of a command that waits in its queue's way. -/
noncomputable def waitingEvent (opc q : Nat) : Option Instr :=
  match opc with
  | 0x02 => some (.replay q)
  | 0x03 => some (.patchApply q)
  | 0x07 => some (.sreset q)
  | 0x0C => some (.ppreempt q)
  | 0x0F => some (.kunload q)
  | 0x21 => some (.presize q)
  | 0x22 => some (.pdestroy q)
  | _ => none

/-- The turns of a host queue. -/
noncomputable def State.queueTurns (s : State) (q : Nat) (x : HostQueue) : List (Nat × Turn) :=
  called (x.mayFetch && x.refetch.isNone) (8 * q) (.event (.commandFetch q))
    ++ called (x.mayFetch && match x.refetch with
      | some (_, t) => decide (t + cyclesPerUs ≤ s.clock)
      | none => false) (8 * q + 1) (.event (.seqRefetch q))
    ++ (((x.cmds.find? HostCmd.waiting).bind fun c => waitingEvent c.opc q).toList.map fun e => (8 * q + 2, .event e))
    ++ called (x.t1 != 0 && !x.t1Done && s.hasLaunch q && decide (x.t1.toNat * cyclesPerUs ≤ s.stalledFor q)) (8 * q + 3)
      (.event (.watchdogT1 q))
    ++ called (x.t1 != 0 && s.hasLaunch q && decide (x.t2.toNat * cyclesPerUs ≤ s.stalledFor q)) (8 * q + 4) (.event (.watchdogT2 q))

/-- The turns of a view engine; the headers of the bitstream of a frame whose lines are read come from outside. -/
noncomputable def viewTurns (e : Nat) (v : ViewEngine) : List (Nat × Turn) :=
  match v.phase with
  | 0 => called v.free e (.event (.viewTake e v.lines))
  | 1 =>
    if !v.free then []
    else (firstMissing v.frameLines v.picture.length v.hasLine).toList.map fun i => (e, .event (.loadPerformed (.view e) i))
  | 2 => called (v.part.isSome && (!v.waitRing || decide ((v.prod - v.cons).toNat + v.record.length ≤ v.rsize))) e
      (.event (.viewRecordWrite e))
  | _ => called v.free e (.event (.viewRelease e v.lines))

/-- The turns of the firmware mailbox and of attestation; whether an image verifies comes from outside. -/
noncomputable def State.firmwareTurns (s : State) : List (Nat × Turn) :=
  called (s.mailboxAt 2) 0 (.event .installImageKey)
    ++ called (s.mailboxAt 3) 1 (.event .removeImageKey)
    ++ called (s.ready && s.fwStatus == 1 && s.fwCmd != 1 && s.fwCmd != 2 && s.fwCmd != 3) 2 (.event .firmwareBadCommand)
    ++ called (s.astat == 1) 3 (.event .attestationReport)

/-! ### The order -/

/-- Every turn that the state calls for, by rising number. DESIGN CHOICE: log 2. -/
noncomputable def State.ownTurns (s : State) : List (Nat × Turn) :=
  classed 0 (s.slots.flatMap fun x => s.slotTurns x.1 x.2)
    ++ classed 1 (s.cells.flatMap fun x => portTurns x.1 x.2)
    ++ classed 2 (s.clusters.flatMap fun x => clusterTurns x.1 x.2 ++ permittedTurns s.clock x.1 x.2)
    ++ classed 3 (s.harts.flatMap fun x => s.hartTurns x.1 x.2)
    ++ classed 4 (s.passes.head?.toList.map fun w => (0, .event (.parkReevaluation w.line)))
    ++ classed 5 (s.parts.flatMap fun x => s.partTurns x.1 x.2)
    ++ classed 6 (s.parts.flatMap fun x => x.2.launches.flatMap fun l => s.launchTurns x.1 l.1 l.2)
    ++ classed 7 (sortBy Prod.fst (s.parts.flatMap fun x => x.2.launches.flatMap fun l => s.hingeTurns x.1 l.1 l.2))
    ++ classed 8 (s.cells.flatMap fun x => s.orphanTurns x.1 x.2)
    ++ classed 9 (s.hqs.flatMap fun x => s.queueTurns x.1 x.2)
    ++ classed 10 (called (s.eligible 0) 0 (.event (.arbiterDispatch 16)))
    ++ classed 11 (s.views.flatMap fun x => viewTurns x.1 x.2)
    ++ classed 12 (s.links.flatMap fun x => called (x.2.up && decide (17 ≤ x.2.fails)) x.1 (.event (.haspLinkDown x.1)))
    ++ classed 13 s.firmwareTurns
    ++ classed 14 (called (!s.outbound.isEmpty) 0 .acknowledge)

/-- The first turn after a number, or the first of all. -/
def nextTurn (after : Nat) (l : List (Nat × Turn)) : Option (Nat × Turn) := (l.find? fun x => decide (after < x.1)).or l.head?

/-- What happens when the agenda is empty: the next turn in rotation; with nothing to do, a cycle passes. DESIGN CHOICE: log 2. -/
noncomputable def State.ownTurn (s : State) : Turn × State :=
  match nextTurn s.rover s.ownTurns with
  | some (k, t) => (t, { s with rover := k })
  | none => (.tick 1, s)

/-- The next turn, and the state without it. DESIGN CHOICE: log 1. -/
noncomputable def State.takeAgenda (s : State) : Turn × State :=
  match s.agenda with
  | t :: rest => (t, { s with agenda := rest })
  | [] => s.ownTurn

end Sys2Proof.Machine
end

