-- ==== Sys2Proof/Machine/Step.lean ====
section
/-! DEFINITION. The step: the next turn of the agenda is taken, and its cycles pass. -/
namespace Sys2Proof.Machine

/-- One step of the module: the turn that the agenda, or the machine's own order, puts next (R240, R294). DESIGN CHOICE: log 1. -/
noncomputable def step (s : State) : Host.Outcome State Fault Refusal :=
  s.takeAgenda.1.over s.takeAgenda.2 (s.takeAgenda.2.runTurn exec s.takeAgenda.1)

/-- The state with an instruction placed where the next step fetches and runs it: `w` holds its bits as the opcode table numbers
them, and the bits above `nbits` are zero. DESIGN CHOICE: log 8. -/
def State.withFetchWord (s : State) (nbits w : Nat) : State := s.place (leBytes (w % 2 ^ nbits) 20)

end Sys2Proof.Machine
end

