-- ==== Sys2Proof/Safety.lean ====
section
/-! DEFINITION. What counts as a safe run: what every state that a step reaches from a sound state still satisfies, and when a strand has nothing of its earlier accesses left to do. -/
namespace Sys2Proof.Machine

/-- Memory is in its one canonical form, so that equal memories are equal data. -/
def State.memOk (s : State) : Prop := Mem.wf s.mem = true

/-- Nothing of a strand's earlier accesses is outstanding: its window and its combining buffer are empty, and it has no poison to
report. -/
structure Strand.Settled (st : Strand) : Prop where
  window : st.window = []
  wcbuf : st.wcbuf = none
  poison : st.poison = []

end Sys2Proof.Machine
end

