-- ==== Sys2Proof/Certificates/Slice0/Obligations.lean ====
section
/-! DEFINITION. The statements for the provers: what the instructions and the events of the module do, in the terms of the numbered
rules of the spec. The tables under Sys2Proof.Claims say once, for a group of instructions of one shape, what each of them does;
the statements under Obligations say that `exec` does so. -/

namespace Sys2Proof.Claims
open Sys2Proof.Machine

/-- The little-endian datum at a flat address. -/
def datum (s : State) (a n : Nat) : BitVec 64 := BitVec.ofNat 64 (leNat (s.bytes a n))

/-- No byte of a range lies where an entry of some register stack is kept that is resident: a store there would be lost (R13). -/
def OffStacks (s : State) (a n : Nat) : Prop := ∀ i, i < n → s.underStack (a + i) = false

end Sys2Proof.Claims

namespace Sys2Proof.Claims
open Sys2Proof.Machine

/-! ### Terms of the statements -/

/-- The slot whose turn it is holds this strand, and the guard of its instruction allows it (R22, R73). -/
structure Runs (s : State) (st : Strand) (g : Guard) : Prop where
  me : s.me? = some st
  go : st.allows g = true

/-- What an access to a page of a memory type leaves: after one to a strongly ordered page (type 4) the strand issues nothing more until
its stores are acknowledged (R133; assumption 34). -/
def ordered (mt : Nat) (s : State) : State := if mt = 4 then s.fenceNext else s

/-- The k-th of the values read. -/
def nth (vs : List (BitVec 64)) (k : Nat) : BitVec 64 := vs.getD k 0

/-- A function of 32-bit operands, as the .w forms use it: bits [31:0] in, the result sign-extended (R100). -/
def narrow (f : BitVec 32 → BitVec 32 → BitVec 32) (x y : BitVec 64) : BitVec 64 :=
  (f (x.setWidth 32) (y.setWidth 32)).signExtend 64

/-- The signed quotient of R99: all ones by zero, else truncated toward zero and wrapped. -/
def quot {n : Nat} (x y : BitVec n) : BitVec n := if y = 0 then BitVec.allOnes n else x.sdiv y
/-- The signed remainder of R99: the dividend by zero. -/
def rest {n : Nat} (x y : BitVec n) : BitVec n := if y = 0 then x else x.srem y
/-- The high half of the exact signed product. -/
def high {n : Nat} (x y : BitVec n) : BitVec n := BitVec.ofInt n ((x.toInt * y.toInt) / 2 ^ n)
/-- The smaller as signed values. -/
def least {n : Nat} (x y : BitVec n) : BitVec n := if y.toInt < x.toInt then y else x
/-- The larger as signed values. -/
def greatest {n : Nat} (x y : BitVec n) : BitVec n := if x.toInt < y.toInt then y else x

/-- The functions of Table 5-3 with the instructions that compute them: the register form, the literal form, and r for 64 bits. -/
inductive WideFn :
    (Guard → Reg → Reg → Reg → Instr) → (Guard → Reg → Reg → BitVec 64 → Instr) → (BitVec 64 → BitVec 64 → BitVec 64) → Prop
  | add : WideFn .add .addLiteral fun x y => x + y
  | sub : WideFn .sub .subLiteral fun x y => x - y
  | mul : WideFn .mul .mulLiteral fun x y => x * y
  | mulh : WideFn .mulh .mulhLiteral high
  | div : WideFn .div .divLiteral quot
  | rem : WideFn .rem .remLiteral rest
  | and : WideFn .and .andLiteral fun x y => x &&& y
  | or : WideFn .or .orLiteral fun x y => x ||| y
  | xor : WideFn .xor .xorLiteral fun x y => x ^^^ y
  | andn : WideFn .andn .andnLiteral fun x y => x &&& ~~~y
  | min : WideFn .min .minLiteral least
  | max : WideFn .max .maxLiteral greatest
  | addW : WideFn .addW .addWLiteral (narrow fun x y => x + y)
  | subW : WideFn .subW .subWLiteral (narrow fun x y => x - y)
  | mulW : WideFn .mulW .mulWLiteral (narrow fun x y => x * y)
  | mulhW : WideFn .mulhW .mulhWLiteral (narrow high)
  | divW : WideFn .divW .divWLiteral (narrow quot)
  | remW : WideFn .remW .remWLiteral (narrow rest)
  | andW : WideFn .andW .andWLiteral (narrow fun x y => x &&& y)
  | orW : WideFn .orW .orWLiteral (narrow fun x y => x ||| y)
  | xorW : WideFn .xorW .xorWLiteral (narrow fun x y => x ^^^ y)
  | andnW : WideFn .andnW .andnWLiteral (narrow fun x y => x &&& ~~~y)
  | minW : WideFn .minW .minWLiteral (narrow least)
  | maxW : WideFn .maxW .maxWLiteral (narrow greatest)

/-- A shift by c of R106 at width n. -/
inductive ShiftRow : (Guard → Bool → Reg → Reg → Reg → Instr) → (Guard → Bool → Reg → Reg → BitVec 64 → Instr) →
    ((n : Nat) → BitVec n → Nat → BitVec n) → Prop
  | shl : ShiftRow .shl .shlLiteral fun _ x c => x <<< c
  | shr : ShiftRow .shr .shrLiteral fun _ x c => x >>> c
  | sar : ShiftRow .sar .sarLiteral fun _ x c => x.sshiftRight c
  | rol : ShiftRow .rol .rolLiteral fun n x c => (x <<< c) ||| (x >>> (n - c))

/-- A shift at the width that F[3] selects, its count cut to the low bits of the operand (R105, R106). -/
def shiftAt (f : (n : Nat) → BitVec n → Nat → BitVec n) (w : Bool) (x b : BitVec 64) : BitVec 64 :=
  if w then (f 32 (x.setWidth 32) (b.toNat % 32)).signExtend 64 else f 64 x (b.toNat % 64)

/-- The scalar instructions that write one scalar register: their guard, words, destination, sources in the order they are
read, and the value written, from the values read. -/
inductive ScalarRow : Instr → Guard → Nat → Reg → List Reg → (List (BitVec 64) → BitVec 64) → Prop
  | wide {r l f} (h : WideFn r l f) (g d a b) : ScalarRow (r g d a b) g 1 d [a, b] fun v => f (nth v 0) (nth v 1)
  | wideLiteral {r l f} (h : WideFn r l f) (g d a x) : ScalarRow (l g d a x) g 3 d [a] fun v => f (nth v 0) x
  | shift {r l f} (h : ShiftRow r l f) (g w d a b) : ScalarRow (r g w d a b) g 1 d [a, b] fun v => shiftAt f w (nth v 0) (nth v 1)
  | shiftLiteral {r l f} (h : ShiftRow r l f) (g w d a x) : ScalarRow (l g w d a x) g 3 d [a] fun v => shiftAt f w (nth v 0) x
  | clz (g w d a) : ScalarRow (.clz g w d a) g 1 d [a] fun v => countOf w (fun n x => clzN n x.toNat) (nth v 0)
  | ctz (g w d a) : ScalarRow (.ctz g w d a) g 1 d [a] fun v => countOf w (fun n x => ctzN x n 0) (nth v 0)
  | popc (g w d a) : ScalarRow (.popc g w d a) g 1 d [a] fun v => countOf w (fun n x => popN x n) (nth v 0)
  | brev (g w d a) : ScalarRow (.brev g w d a) g 1 d [a] fun v => brev w (nth v 0)
  | addi (d a i) : ScalarRow (.addi d a i) .always 1 d [a] fun v => nth v 0 + i.signExtend 64
  | addiLiteral (d a x) : ScalarRow (.addiLiteral d a x) .always 3 d [a] fun v => nth v 0 + x
  | movi (d i) : ScalarRow (.movi d i) .always 1 d [] fun _ => i.signExtend 64
  | moviLiteral (d x) : ScalarRow (.moviLiteral d x) .always 3 d [] fun _ => x
  | lea (g sh d a b) : ScalarRow (.lea g sh d a b) g 1 d [a, b] fun v => nth v 0 + (nth v 1 <<< sh.toNat)
  | leaLiteral (g sh d a b x) : ScalarRow (.leaLiteral g sh d a b x) g 3 d [a, b] fun v => nth v 0 + (nth v 1 <<< sh.toNat) + x
  | ext (d a p l) : ScalarRow (.ext d a p l) .always 1 d [a] fun v => extField p l (nth v 0)
  | ins (d a p l) : ScalarRow (.ins d a p l) .always 1 d [a, d] fun v => insField p l (nth v 0) (nth v 1)
  | rng (g d a b) : ScalarRow (.rng g d a b) g 1 d [a, b] fun v => rng (nth v 0) (nth v 1)

/-- A condition of R110 on the operands as cut to the width. -/
inductive CondRow : (Guard → Bool → BitVec 3 → Reg → Reg → Instr) → (Guard → Bool → BitVec 3 → Reg → BitVec 64 → Instr) →
    ({n : Nat} → BitVec n → BitVec n → Prop) → Prop
  | eq : CondRow .cmpEq .cmpEqLiteral fun x y => x = y
  | ne : CondRow .cmpNe .cmpNeLiteral fun x y => x ≠ y
  | lt : CondRow .cmpLt .cmpLtLiteral fun x y => x.toInt < y.toInt
  | ge : CondRow .cmpGe .cmpGeLiteral fun x y => y.toInt ≤ x.toInt
  | ltu : CondRow .cmpLtu .cmpLtuLiteral fun x y => x.toNat < y.toNat
  | geu : CondRow .cmpGeu .cmpGeuLiteral fun x y => y.toNat ≤ x.toNat

/-- A condition at the width that F[3] selects. -/
def condAt (c : {n : Nat} → BitVec n → BitVec n → Prop) (w : Bool) (x y : BitVec 64) : Prop :=
  if w then c (x.setWidth 32) (y.setWidth 32) else c x y

/-- The functions of Table 5-5. -/
inductive PlogRow : (Guard → BitVec 3 → BitVec 3 → BitVec 3 → Instr) → (BitVec 16 → BitVec 16 → BitVec 16) → Prop
  | and : PlogRow .plogAnd fun x y => x &&& y
  | or : PlogRow .plogOr fun x y => x ||| y
  | xor : PlogRow .plogXor fun x y => x ^^^ y
  | andn : PlogRow .plogAndn fun x y => x &&& ~~~y
  | orn : PlogRow .plogOrn fun x y => x ||| ~~~y
  | nand : PlogRow .plogNand fun x y => ~~~(x &&& y)
  | nor : PlogRow .plogNor fun x y => ~~~(x ||| y)
  | xnor : PlogRow .plogXnor fun x y => ~~~(x ^^^ y)

end Sys2Proof.Claims

open Sys2Proof Sys2Proof.Machine Sys2Proof.Claims

/-! ### Scalar instructions (05_scalar_and_control_instructions) -/

/-- R99, R100, R104 to R109, R114: an instruction that computes one scalar reads its sources, writes the value its row gives to
its destination and advances the PC past its words; the next state holds nothing else new. Destinations g0 and q0 to q3 are
`writeDest`'s, which other statements describe. -/
def Sys2Proof.Claims.ScalarResult : Prop :=
  ∀ i g w d srcs f, ScalarRow i g w d srcs f → ∀ s st vs s1, Runs s st g → readSources st s srcs (some d) = .ok (vs, s1) →
    exec i s = .next (writeDest (st.advance w) s1 d (f vs))

/-- R106, R109: CLZ, CTZ and POPC count the bits their rules name, BREV reverses them, and EXT and INS move exactly their
field. -/
def Sys2Proof.Claims.BitCounts : Prop :=
  (∀ n x, x < 2 ^ n → clzN n x ≤ n ∧ x < 2 ^ (n - clzN n x) ∧ (0 < x → 2 ^ (n - clzN n x - 1) ≤ x))
  ∧ (∀ n (x : BitVec 64), (∀ i, i < ctzN x n 0 → x.getLsbD i = false) ∧ ctzN x n 0 ≤ n
      ∧ (ctzN x n 0 < n → x.getLsbD (ctzN x n 0) = true))
  ∧ (∀ n (x : BitVec 64), popN x n = ((List.range n).filter fun i => x.getLsbD i).length)
  ∧ (∀ (x : BitVec 64) i, i < 64 → (brev false x).getLsbD i = x.getLsbD (63 - i))
  ∧ (∀ (x : BitVec 64) i, i < 32 → (brev true x).getLsbD i = x.getLsbD (31 - i))
  ∧ (∀ (p l : BitVec 6) (a : BitVec 64) i, (extField p l a).getLsbD i = (decide (i ≤ l.toNat) && a.getLsbD (p.toNat + i)))
  ∧ (∀ (p l : BitVec 6) (a old : BitVec 64) i, p.toNat + l.toNat < 64 → (insField p l a old).getLsbD i
      = if p.toNat ≤ i ∧ i ≤ p.toNat + l.toNat then a.getLsbD (i - p.toNat) else old.getLsbD i)

/-- R99, R100, R104 to R109, R114: the scalar instructions and the bit counts give the results of their rules. -/
def Obligations.ScalarResult : Prop := Sys2Proof.Claims.ScalarResult ∧ Sys2Proof.Claims.BitCounts


/-- R110 to R112: CMP writes all ones or zero to its predicate, PLOG combines two predicates bit by bit, and SEL takes the one or the
other of two registers, both of them read. -/
def Obligations.PredicateResult : Prop :=
  (∀ r l c, CondRow r l c → ∀ g w d a s st, Runs s st g →
      (∀ b x y s1, readSources st s [a, b] none = .ok ([x, y], s1) →
        (condAt c w x y → exec (r g w d a b) s = .next (s1.setMe ((st.setP d 0xFFFF).advance 1)))
        ∧ (¬ condAt c w x y → exec (r g w d a b) s = .next (s1.setMe ((st.setP d 0).advance 1))))
      ∧ (∀ lit x s1, readSources st s [a] none = .ok ([x], s1) →
        (condAt c w x lit → exec (l g w d a lit) s = .next (s1.setMe ((st.setP d 0xFFFF).advance 3)))
        ∧ (¬ condAt c w x lit → exec (l g w d a lit) s = .next (s1.setMe ((st.setP d 0).advance 3)))))
  ∧ (∀ r f, PlogRow r f → ∀ g d a b s st, Runs s st g →
      exec (r g d a b) s = .next (s.setMe ((st.setP d (f (st.p a) (st.p b))).advance 1)))
  ∧ (∀ g inv sel d a b s st x y s1, Runs s st g → readSources st s [a, b] (some d) = .ok ([x, y], s1) →
      exec (.sel g inv sel d a b) s
        = .next (writeDest (st.advance 1) s1 d (if (st.p sel).getLsbD 0 ≠ inv then x else y)))

/-- R115 to R117, R120, R121: where control goes. NOP and an untaken transfer only move past their words; a taken one goes to its
target, which JMPX and LOOP find through registers; a misaligned target of JMPX raises ALIGN with its address. -/
def Sys2Proof.Claims.ControlTransfer : Prop :=
  (∀ g s st, s.me? = some st → exec (.nop g) s = .next (s.setMe (st.advance 1)))
  ∧ (∀ g off s st, Runs s st g → exec (.br g off) s = .next (s.setMe (st.jump (st.pc + 4 * off.signExtend 64))))
  ∧ (∀ g x s st, Runs s st g → exec (.jmp g x) s = .next (s.setMe (st.jump x)))
  ∧ (∀ g a s st x s1, Runs s st g → readSources st s [a] none = .ok ([x], s1) →
      (x.toNat % 4 = 0 → exec (.jmpx g a) s = .next (s1.setMe (st.jump x)))
      ∧ (x.toNat % 4 ≠ 0 → exec (.jmpx g a) s = .next (s.deliver s.actor (alignTrap 1 x))))
  ∧ (∀ d imm s st x s1, s.me? = some st → readSources st s [d] (some d) = .ok ([x], s1) →
      exec (.loop d imm) s = .next (s1.setMe (if x = 1 then (st.setG d 0).advance 1
        else (st.setG d (x - 1)).jump (st.pc + 4 * imm.signExtend 64))))
  ∧ (∀ g s st, Runs s st g → exec (.yield g) s = .next (s.setMe (({ st with yielded := some (s.clock, []) } : Strand).advance 1)))

/-- R123: a strand with no poison to report leaves rotation by HALT; when its accesses are performed, its combining buffer is empty and
its tags are READY it ceases to exist at once, its slot is free, its reservation is gone and its crew has one strand fewer; else the slot
leaves rotation with the HALT in hand until they are. -/
def Sys2Proof.Claims.HaltEnds : Prop :=
  ∀ g s st, Runs s st g → st.poison = [] →
    (s.canEnd s.actor st = true → ∃ t, exec (.halt g) s = .next t ∧ t.me? = none
      ∧ t.resv = s.resv.filter (fun r => !(r.ownedBy st))
      ∧ ∀ c, s.crew? st.part st.launch st.crew = some c →
          t.crew? st.part st.launch st.crew = some (Crew.checkBar { c with m := c.m - 1 }))
    ∧ (s.canEnd s.actor st = false → exec (.halt g) s
        = .next (s.setMe { st with held := some (.halt g), halting := true, wait := none, trapPend := none }))

/-- R115 to R117, R120 to R123: branches, jumps and HALT move the PC or end the strand as their rules say. -/
def Obligations.ControlTransfer : Prop := Sys2Proof.Claims.ControlTransfer ∧ Sys2Proof.Claims.HaltEnds


/-- R16, R113: MOVH to a shared register is seen by its own strand at once and by every strand 8 cycles later; a read that several values
answer takes one of them. -/
def Sys2Proof.Claims.SharedRegister : Prop :=
  (∀ g d a s st x s1, Runs s st g → readSources st s [a] none = .ok ([x], s1) →
      ∃ t c, exec (.movhToShared g d a) s = .next t ∧ c = t.cell (cellOf s.actor) ∧ t.me? = some (st.advance 1)
        ∧ HReg.candidates s.clock st.uid (c.hreg d).base (c.hreg d).writes = [x]
        ∧ (∀ uid, HReg.candidates (s.clock + 8) uid (c.hreg d).base (c.hreg d).writes = [x])
        ∧ ∀ k, k ≠ d → c.hreg k = (s1.cell (cellOf s.actor)).hreg k)
  ∧ (∀ g d a s st s1 h, Runs s st g → readSources st s [] (some d) = .ok ([], s1) → h = (s1.cell (cellOf s.actor)).hreg a →
      ∃ v s2, v ∈ HReg.candidates s.clock st.uid h.base h.writes ∧ s2.mem = s1.mem ∧ s2.slots = s1.slots ∧ s2.cells = s1.cells
        ∧ exec (.movhFromShared g d a) s = .next (writeDest (st.advance 1) s2 d v))


namespace Sys2Proof.Claims
open Sys2Proof.Machine

/-- The CALL forms: guard, words, slide and target. -/
inductive CallRow (st : Strand) : Instr → Guard → Nat → Nat → BitVec 64 → Prop
  | call (g k off) : CallRow st (.call g k off) g 1 (k.toNat + 1) (st.pc + 4 * off.signExtend 64)
  | callLiteral (g k x) : CallRow st (.callLiteral g k x) g 3 (k.toNat + 1) x

/-- The strand in the procedure it has called: the window has slid by 20 - k, g7 holds the link word, and the PC is at the target (R10). -/
def entered (st : Strand) (ret : BitVec 64) (k : Nat) (target : BitVec 64) : Strand :=
  { st with fixed := NMap.set st.fixed 7 ((ret.extractLsb' 2 54).setWidth 64 * 4 + BitVec.ofNat 64 k * 2 ^ 56)
            winbase := st.winbase + 20 - k, depth := st.depth + 1 }.jump target

/-- Where the entries that a call of slide k brings into the 48 resident ones are kept (R12). -/
def incoming (s : State) (st : Strand) (k : Nat) : List Nat := s.spillPlaces s.actor st (indexRange (st.winbase + 20) (st.winbase + 40 - k))

/-- The strand back in its caller (R11). -/
def returned (st : Strand) (k : Nat) (target : BitVec 64) : Strand :=
  { st with winbase := st.winbase - (20 - k), depth := st.depth - 1 }.jump target

/-- g7 holds a link word that RET accepts: its slide and its return address (R11). -/
structure Linked (st : Strand) (k pc : Nat) : Prop where
  word : (st.g 7).toNat = k * 2 ^ 56 + pc
  slide : 1 ≤ k ∧ k ≤ 16
  aligned : pc % 4 = 0 ∧ pc < 2 ^ 56
  inside : 0 < st.depth ∧ 20 - k ≤ st.winbase

/-- The address in lmem where an entry of the register stack is kept when it lies in the carve (R12). -/
def carved (s : State) (st : Strand) (i : Nat) : Nat := lmemBase (cellOf s.actor) + st.carveBase * 64 + 8 * i

end Sys2Proof.Claims

/-! ### Registers, ports and calls (01_machine_state, 05_scalar_and_control_instructions) -/

/-- R9, R10, R17, R22: a scalar register, a vector register and a predicate read as last written and a write changes no other; g0 reads
0 and discards a write, p0 reads all ones and discards one; g8 and up are the entries of the register stack at the window. An entry that
nothing has written reads 0, or from index 20 on what the launch's earlier strands left in the slot's file (assumption 37). -/
def Sys2Proof.Claims.RegisterAccess : Prop :=
  (∀ (st : Strand) r q v, (st.setG r v).g q = if q = r ∧ r ≠ 0 then v else st.g q)
  ∧ (∀ st : Strand, st.g 0 = 0) ∧ (∀ (st : Strand) v, st.setG 0 v = st)
  ∧ (∀ (st : Strand) r q x, (st.setV r x).v q = if q = r then x else st.v q)
  ∧ (∀ (st : Strand) k j v, (st.setP k v).p j = if j = k ∧ k ≠ 0 then v else st.p j)
  ∧ (∀ st : Strand, st.p 0 = BitVec.allOnes 16) ∧ (∀ (st : Strand) v, st.setP 0 v = st)
  ∧ (∀ (st : Strand) r, 8 ≤ r.toNat → st.g r = st.entry (st.winbase + r.toNat - 8))
  ∧ (∀ (st : Strand) i, i < 20 → NMap.get? st.stk i = none → st.entry i = 0)
  ∧ (∀ (st : Strand) i, 20 ≤ i → NMap.get? st.stk i = none → st.entry i ∈ 0 :: st.left)
  ∧ (∀ (st : Strand) r v s, isPort r = false → writeDest st s r v = s.setMe (st.setG r v))

/-- R9, R10, R16, R17, R22, R113: the named registers and the shared registers. -/
def Obligations.RegisterAccess : Prop := Sys2Proof.Claims.SharedRegister ∧ Sys2Proof.Claims.RegisterAccess


/-- R14, R15, R101, R204, R211: a port read takes the oldest word of the cell's queue, of which the slot must be the owner; with no word
it waits; a send puts the word on its way to the queue of Table 1-3, and waits when that is full; the port of a cell without a
slot of the launch traps, and a codelet reads no port: the owner and the target are looked at first (R74). A word on its way arrives. -/
def Sys2Proof.Claims.Ports : Prop :=
  (∀ i g w d srcs f, ScalarRow i g w d srcs f → ∀ s st, Runs s st g → st.Settled →
    ((st.cdl = true → (∃ r ∈ srcs, isPort r = true) → s.portTrap st srcs (some d) = none → exec i s = .next (s.deliver s.actor (permission 18)))
    ∧ ((∃ r ∈ srcs, isPort r = true ∧
          ((s.cell (cellOf s.actor)).port (r.toNat - 28)).owner ≠ some (st.part, st.launch, slotOf s.actor)) →
        exec i s = .next (s.deliver s.actor (permission 2)))
    ∧ (∀ r, srcs = [r] → isPort r = true → isPort d = false → st.cdl = false →
        ((s.cell (cellOf s.actor)).port (r.toNat - 28)).owner = some (st.part, st.launch, slotOf s.actor) →
        (((s.cell (cellOf s.actor)).port (r.toNat - 28)).words = [] → exec i s = .next (s.setMe (st.await .recv s.clock)))
        ∧ (∀ x xs, ((s.cell (cellOf s.actor)).port (r.toNat - 28)).words = x :: xs →
            ∃ t : State, exec i s = .next t ∧ t.me? = some ((st.setG d (f [x])).advance w) ∧ t.mem = s.mem
              ∧ (∀ q, ((t.cell (cellOf s.actor)).port q) = if q = r.toNat - 28
                  then { (s.cell (cellOf s.actor)).port q with words := xs } else (s.cell (cellOf s.actor)).port q)))
    ∧ ((∀ r ∈ srcs, isPort r = false) → isPort d = true →
        (s.portDest st.part (cellOf s.actor) (d.toNat - 28) = none → exec i s = .next (s.deliver s.actor (permission 2)))
        ∧ (∀ cell q, s.portDest st.part (cellOf s.actor) (d.toNat - 28) = some (cell, q) →
            (s.holdsLaunch st.part st.launch cell = false → exec i s = .next (s.deliver s.actor (permission 2)))
            ∧ (s.holdsLaunch st.part st.launch cell = true →
                (8 ≤ ((s.cell cell).port q).words.length + ((s.cell cell).port q).flight.length →
                  exec i s = .next (s.setMe (st.await .portSend s.clock)))
                ∧ (((s.cell cell).port q).words.length + ((s.cell cell).port q).flight.length < 8 →
                  ∃ t : State, exec i s = .next t ∧ t.me? = some (st.advance w) ∧ t.mem = s.mem
                    ∧ ∀ q', ((t.cell cell).port q') = if q' = q
                        then { (s.cell cell).port q with flight := ((s.cell cell).port q).flight ++ [f (srcs.map st.g)] }
                        else (s.cell cell).port q'))))))
  ∧ (∀ cell (q : BitVec 2) s x xs pq, pq = (s.cell cell).port q.toNat → pq.flight = x :: xs → pq.words.length < 8 →
      ∃ t : State, exec (.portWordArrival cell q) s = .next t
        ∧ (t.cell cell).port q.toNat = { pq with words := pq.words ++ [x], flight := xs } ∧ t.mem = s.mem ∧ t.slots = s.slots)

/-- Table 1-3: the words of the ring go forward on q0 and backward on q1, on q2 across the cluster, and on q3 to the like cell of the
cluster whose ordinal differs in its lowest bit. -/
def Sys2Proof.Claims.PortRoutes : Prop :=
  (∀ (s : State) p cell, s.portDest p cell 0 = some (cell / 8 * 8 + ringNext (cell % 8), 1)
      ∧ s.portDest p cell 1 = some (cell / 8 * 8 + ringPrev (cell % 8), 0)
      ∧ s.portDest p cell 2 = some (cell / 8 * 8 + (7 - cell % 8), 2))
  ∧ (∀ c, c < 8 → ringPrev (ringNext c) = c ∧ ringNext (ringPrev c) = c ∧ ringNext c < 8)
  ∧ (∀ (s : State) p k k' c, c < 8 → s.clusterAt p (s.ordinal k ^^^ 1) = some k' → s.portDest p (k * 8 + c) 3 = some (k' * 8 + c, 3))

/-- R14, R15, R101, R204, R211: what ports read and send, and where each of them leads. -/
def Obligations.Ports : Prop := Sys2Proof.Claims.Ports ∧ Sys2Proof.Claims.PortRoutes


/-- R10, R118: a call whose window still fits the 48 resident entries moves only the window, g7, the depth and the PC, and the callee sees
the caller's last k registers as its first; the bytes where the entries that come in are kept become unpredictable (R13; that they do so
at the call is assumption 37); at depth 65,535 it traps; CALLX takes an aligned target. -/
def Sys2Proof.Claims.CallEnters : Prop :=
  (∀ s st i g w k target, CallRow st i g w k target → Runs s st g → st.Settled →
    (st.depth < 0xFFFF → st.winbase + 20 - k ≤ 28 →
      exec i s = .next ((s.blurAll (incoming s st k)).setMe (entered st (st.pc + BitVec.ofNat 64 (4 * w)) k target)))
    ∧ (st.depth = 0xFFFF → exec i s = .next (s.deliver s.actor (mkTrap 0x0C 1))))
  ∧ (∀ s st g (k : BitVec 4) a x s1, Runs s st g → st.Settled → readSources st s [a] none = .ok ([x], s1) →
    (x.toNat % 4 = 0 → st.depth < 0xFFFF → st.winbase + 20 - (k.toNat + 1) ≤ 28 →
      exec (.callx g k a) s = .next ((s1.blurAll (incoming s1 st (k.toNat + 1))).setMe (entered st (st.pc + 4) (k.toNat + 1) x)))
    ∧ (x.toNat % 4 ≠ 0 → exec (.callx g k a) s = .next (s.deliver s.actor (alignTrap 1 x))))
  ∧ (∀ st ret k target j, 1 ≤ k → k ≤ 16 → j < k → (entered st ret k target).g (BitVec.ofNat 5 (8 + j)) = st.g (BitVec.ofNat 5 (28 - k + j)))

/-- R11, R119: RET goes back to the address in g7 with the caller's window; a malformed link word or a window that cannot slide back is
illegal; and a RET right after the CALL restores the window, the depth and the caller's g8 to g27 after the CALL's words. -/
def Sys2Proof.Claims.ReturnLeaves : Prop :=
  (∀ s st g k pc, Runs s st g → st.Settled → Linked st k pc → st.winbase ≤ 28 →
    exec (.ret g) s = .next (s.setMe (returned st k (BitVec.ofNat 64 pc))))
  ∧ (∀ s st g, Runs s st g → st.Settled → (¬ ∃ k pc, Linked st k pc) → exec (.ret g) s = .next (s.deliver s.actor (illegal 1)))
  ∧ (∀ s st i g w k target, CallRow st i g w k target → Runs s st g → st.Settled → st.depth < 0xFFFF → st.winbase + 20 - k ≤ 28 →
    st.pc.toNat % 4 = 0 → st.pc.toNat + 12 < 2 ^ 56 →
    ∃ t u : State, ∃ v : Strand, exec i s = .next t ∧ exec (.ret .always) t = .next u ∧ u.me? = some v
      ∧ v.pc = st.pc + BitVec.ofNat 64 (4 * w) ∧ v.winbase = st.winbase ∧ v.depth = st.depth
      ∧ ∀ r, 8 ≤ r.toNat → v.g r = st.g r)

/-- R12, R13: entries that leave the 48 resident ones are stored in the carve of lmem, which changes no other byte but those kept for the
entries that come in (assumption 37), and come back from there when the window slides back; with no room in the carve and no overflow area the call takes STACK_OVERFLOW. -/
def Sys2Proof.Claims.RegisterStack : Prop :=
  (∀ s st i g w k target, CallRow st i g w k target → Runs s st g → st.Settled → st.depth < 0xFFFF →
    let lo := st.winbase - 28
    let hi := st.winbase + 20 - k - 28
    8 * hi ≤ st.carveSize * 64 → (∀ e, lo ≤ e → e < hi → s.noStore (carved s st e) = false) →
    ∃ t : State, ∃ u : Strand, exec i s = .next t ∧ t.me? = some u
      ∧ u.pc = target ∧ u.winbase = st.winbase + 20 - k ∧ u.depth = st.depth + 1
      ∧ (∀ e, hi ≤ e → u.entry e = st.entry e)
      ∧ (∀ e, lo ≤ e → e < hi → (∀ b ∈ incoming s st k, carved s st e + 8 ≤ b ∨ b + 8 ≤ carved s st e) →
          t.bytes (carved s st e) 8 = leBytes (st.entry e).toNat 8)
      ∧ ∀ a, (∀ b ∈ incoming s st k, a < b ∨ b + 8 ≤ a) →
          (∀ e, lo ≤ e → e < hi → a < carved s st e ∨ carved s st e + 8 ≤ a) → t.byte a = s.byte a)
  ∧ (∀ s st g k pc, Runs s st g → st.Settled → Linked st k pc →
    let hi := st.winbase - 28
    let lo := st.winbase - (20 - k) - 28
    8 * hi ≤ st.carveSize * 64 → (∀ e, lo ≤ e → e < hi → s.noStore (carved s st e) = false) →
    ∃ t : State, ∃ u : Strand, exec (.ret g) s = .next t ∧ t.me? = some u
      ∧ u.pc = BitVec.ofNat 64 pc ∧ u.winbase = st.winbase - (20 - k) ∧ u.depth = st.depth - 1
      ∧ (∀ e, hi ≤ e → u.entry e = st.entry e)
      ∧ ∀ e, lo ≤ e → e < hi → u.entry e = datum s (carved s st e) 8)
  ∧ (∀ s st i g w k target, CallRow st i g w k target → Runs s st g → st.Settled → st.depth < 0xFFFF → 28 < st.winbase + 20 - k →
    st.carveSize = 0 → st.log2sz = 0 →
    exec i s = .next (s.deliver s.actor (mkTrap 0x0C 0 (((st.ovfptr.extractLsb' 3 53).setWidth 64 <<< 3) + BitVec.ofNat 64 (8 * (st.winbase - 28))))))

/-- R10 to R13, R118, R119: a call opens a register window, a return closes it, and the register stack spills and fills. -/
def Obligations.Calls : Prop := Sys2Proof.Claims.CallEnters ∧ Sys2Proof.Claims.ReturnLeaves ∧ Sys2Proof.Claims.RegisterStack


namespace Sys2Proof.Claims
open Sys2Proof.Machine

/-- Some lane acts, every vector register named lies in the allotment and the scalar sources can be read: a vector instruction then
executes (R73, R148, R149). -/
structure RunsLanes (s : State) (st : Strand) (g : Guard) (named : List Reg) (srcs : List Reg) (dst : Option Reg)
    (vs : List (BitVec 64)) (s1 : State) : Prop where
  me : s.me? = some st
  acts : st.mask g ≠ 0
  inside : ∀ r ∈ named, r.toNat < st.allot
  reads : readSources st s srcs dst named = .ok (vs, s1)

/-- A lane of the vector register. -/
def vlane (st : Strand) (r : Reg) (i : Nat) : BitVec 32 := lane (st.v r) i

/-- One element of a two-operand, a one-operand and a multiply-add function, rounded under status.RM and status.FTZ, in the format that
FA names (R150, R151). -/
def elem2 (f : VBin) (fa : BitVec 5) (st : Strand) (x y : BitVec 32) : BitVec 32 × Flags :=
  eachElem fa (fun c => finishElem fa st.mode st.ftz
    (f.eval st.mode (readElem fa st.ftz (c.getD 0 0)) (readElem fa st.ftz (c.getD 1 0)))) [x, y]
def elem1 (f : VUn) (fa : BitVec 5) (st : Strand) (x : BitVec 32) : BitVec 32 × Flags :=
  eachElem fa (fun c => finishElem fa st.mode st.ftz (f.eval (readElem fa st.ftz (c.getD 0 0)))) [x]
def elem3 (minus : Bool) (fa : BitVec 5) (st : Strand) (x y z : BitVec 32) : BitVec 32 × Flags :=
  eachElem fa (fun c => finishElem fa st.mode st.ftz (fvFma st.mode (readElem fa st.ftz (c.getD 0 0)) (readElem fa st.ftz (c.getD 1 0))
    (if minus then (readElem fa st.ftz (c.getD 2 0)).negate else readElem fa st.ftz (c.getD 2 0)))) [x, y, z]

/-- Byte j of a lane, as a signed number. -/
def sbyte (x : BitVec 32) (j : Nat) : Int := (x.extractLsb' (8 * j) 8).toInt
/-- Byte j of a lane, as an unsigned number. -/
def ubyte (x : BitVec 32) (j : Nat) : Int := (x.extractLsb' (8 * j) 8).toNat

/-- The two-operand floating instructions, on FP32 and on a named format (R151). -/
inductive Bin2 : (Guard → Reg → Reg → Reg → Instr) → (Guard → Reg → Reg → Reg → BitVec 5 → Instr) → VBin → Prop
  | add : Bin2 .vadd .vaddExtended .add
  | sub : Bin2 .vsub .vsubExtended .sub
  | mul : Bin2 .vmul .vmulExtended .mul
  | min : Bin2 .vmin .vminExtended .min
  | max : Bin2 .vmax .vmaxExtended .max

/-- The one-operand floating instructions (R151, R152). -/
inductive Un1 : (Guard → Reg → Reg → Instr) → (Guard → Reg → Reg → BitVec 5 → Instr) → VUn → Prop
  | abs : Un1 .vabs .vabsExtended .abs
  | neg : Un1 .vneg .vnegExtended .neg
  | rcp : Un1 .vrcp .vrcpExtended .rcp
  | rsq : Un1 .vrsq .vrsqExtended .rsq
  | ex2 : Un1 .vex2 .vex2Extended .ex2
  | lg2 : Un1 .vlg2 .vlg2Extended .lg2
  | sqrt : Un1 .vsqrt .vsqrtExtended .sqrt

/-- The integer instructions of R156. -/
inductive IntRow : (Guard → Reg → Reg → Reg → Instr) → (BitVec 32 → BitVec 32 → BitVec 32) → Prop
  | and : IntRow .vand fun x y => x &&& y
  | or : IntRow .vor fun x y => x ||| y
  | xor : IntRow .vxor fun x y => x ^^^ y
  | shl : IntRow .vshl fun x y => x <<< (y.toNat % 32)
  | shr : IntRow .vshr fun x y => x >>> (y.toNat % 32)
  | add : IntRow .viadd fun x y => x + y
  | mul : IntRow .vimul fun x y => x * y

/-- The instructions that compute vector register D lane by lane from vector registers: their guard, words, destination, sources, and
what lane i receives, with the flags it raises. -/
inductive LaneRow : Instr → Guard → Nat → Reg → List Reg → (Strand → Nat → BitVec 32 × Flags) → Prop
  | bin {r e f} (h : Bin2 r e f) (g d a b) : LaneRow (r g d a b) g 1 d [a, b] fun st i => elem2 f 19 st (vlane st a i) (vlane st b i)
  | binFmt {r e f} (h : Bin2 r e f) (g d a b fa) :
      LaneRow (e g d a b fa) g 3 d [a, b] fun st i => elem2 f fa st (vlane st a i) (vlane st b i)
  | un {r e f} (h : Un1 r e f) (g d a) : LaneRow (r g d a) g 1 d [a] fun st i => elem1 f 19 st (vlane st a i)
  | unFmt {r e f} (h : Un1 r e f) (g d a fa) : LaneRow (e g d a fa) g 3 d [a] fun st i => elem1 f fa st (vlane st a i)
  | vfma (g d a b) : LaneRow (.vfma g d a b) g 1 d [a, b] fun st i => elem3 false 19 st (vlane st a i) (vlane st b i) (vlane st d i)
  | vfmaFmt (g d a b fa) :
      LaneRow (.vfmaExtended g d a b fa) g 3 d [a, b] fun st i => elem3 false fa st (vlane st a i) (vlane st b i) (vlane st d i)
  | vfms (g d a b) : LaneRow (.vfms g d a b) g 1 d [a, b] fun st i => elem3 true 19 st (vlane st a i) (vlane st b i) (vlane st d i)
  | vfmsFmt (g d a b fa) :
      LaneRow (.vfmsExtended g d a b fa) g 3 d [a, b] fun st i => elem3 true fa st (vlane st a i) (vlane st b i) (vlane st d i)
  | vsel (g inv sel d a b) :
      LaneRow (.vsel g inv sel d a b) g 1 d [a, b] fun st i => (if (st.p sel).getLsbD i ≠ inv then vlane st a i else vlane st b i, 0)
  | int {r f} (h : IntRow r f) (g d a b) : LaneRow (r g d a b) g 1 d [a, b] fun st i => (f (vlane st a i) (vlane st b i), 0)
  | vperm (g d a b) : LaneRow (.vperm g d a b) g 1 d [a, b] fun st i => (vlane st a ((vlane st b i).toNat % 16), 0)
  | vdotS8 (g d a b) : LaneRow (.vdotS8 g d a b) g 1 d [a, b] fun st i =>
      (vlane st d i + BitVec.ofInt 32 (((List.range 4).map fun j => sbyte (vlane st a i) j * sbyte (vlane st b i) j).sum), 0)
  | vdotU8s8 (g d a b) : LaneRow (.vdotU8s8 g d a b) g 1 d [a, b] fun st i =>
      (vlane st d i + BitVec.ofInt 32 (((List.range 4).map fun j => ubyte (vlane st a i) j * sbyte (vlane st b i) j).sum), 0)

/-- The floating comparisons (R154). -/
inductive FCondRow : (Guard → BitVec 3 → Reg → Reg → Instr) → (Guard → BitVec 3 → Reg → Reg → BitVec 5 → Bool → Instr) → (FCmp → Bool) → Prop
  | feq : FCondRow .vcmpFeq .vcmpFeqExtended fun c => c.eq
  | fne : FCondRow .vcmpFne .vcmpFneExtended fun c => !c.eq
  | flt : FCondRow .vcmpFlt .vcmpFltExtended fun c => c.lt
  | fle : FCondRow .vcmpFle .vcmpFleExtended fun c => c.lt || c.eq
  | funord : FCondRow .vcmpFunord .vcmpFunordExtended fun c => c.un

/-- The integer comparisons (R154). -/
inductive ICondRow : (Guard → BitVec 3 → Reg → Reg → Instr) → (BitVec 32 → BitVec 32 → Bool) → Prop
  | ieq : ICondRow .vcmpIeq fun x y => decide (x = y)
  | ine : ICondRow .vcmpIne fun x y => decide (x ≠ y)
  | ilt : ICondRow .vcmpIlt fun x y => decide (x.toInt < y.toInt)
  | ile : ICondRow .vcmpIle fun x y => decide (x.toInt ≤ y.toInt)
  | iltu : ICondRow .vcmpIltu fun x y => decide (x.toNat < y.toNat)
  | ileu : ICondRow .vcmpIleu fun x y => decide (x.toNat ≤ y.toNat)

/-- The element of a lane that a comparison uses. -/
def cmpElem (fa : BitVec 5) (half : Bool) (st : Strand) (x : BitVec 32) : FV :=
  readElem fa st.ftz ((elems fa x).getD (if half then 1 else 0) 0)

/-- The instructions that write one bit of predicate D for each acting lane, with the flags each lane raises. -/
inductive MaskRow : Instr → Guard → Nat → BitVec 3 → List Reg → (Strand → Nat → Bool × Flags) → Prop
  | float {r e f} (h : FCondRow r e f) (g d a b) : MaskRow (r g d a b) g 1 d [a, b] fun st i =>
      (f (fvCompare (cmpElem 19 false st (vlane st a i)) (cmpElem 19 false st (vlane st b i))).1,
        (fvCompare (cmpElem 19 false st (vlane st a i)) (cmpElem 19 false st (vlane st b i))).2)
  | floatFmt {r e f} (h : FCondRow r e f) (g d a b fa half) : MaskRow (e g d a b fa half) g 3 d [a, b] fun st i =>
      (f (fvCompare (cmpElem fa half st (vlane st a i)) (cmpElem fa half st (vlane st b i))).1,
        (fvCompare (cmpElem fa half st (vlane st a i)) (cmpElem fa half st (vlane st b i))).2)
  | int {r f} (h : ICondRow r f) (g d a b) : MaskRow (r g d a b) g 1 d [a, b] fun st i => (f (vlane st a i) (vlane st b i), 0)

/-- The floating reductions with the format they reduce in (R158). -/
inductive FRedRow : (Guard → Reg → Reg → Instr) → (Guard → Reg → Reg → BitVec 5 → Instr) → VRedF → Prop
  | add : FRedRow .vredFadd .vredFaddExtended .fadd
  | min : FRedRow .vredFmin .vredFminExtended .fmin
  | max : FRedRow .vredFmax .vredFmaxExtended .fmax

/-- The elements of the acting lanes, lane by lane, low element first. -/
def reduced (fa : BitVec 5) (st : Strand) (mask : BitVec 16) (a : Reg) : List FV :=
  ((List.range 16).filter fun i => mask.getLsbD i).flatMap fun i => (elems fa (vlane st a i)).map (readElem fa st.ftz)

/-- The reductions: guard, words, scalar destination, vector source, and the value with its flags, from the strand and its mask. -/
inductive RedRow : Instr → Guard → Nat → Reg → Reg → (Strand → BitVec 16 → BitVec 64 × Flags) → Prop
  | float {r e f} (h : FRedRow r e f) (g d a) : RedRow (r g d a) g 1 d a fun st m =>
      (BitVec.ofNat 64 (finishElem 19 st.mode st.ftz (f.eval st.mode (reduced 19 st m a))).1,
        (finishElem 19 st.mode st.ftz (f.eval st.mode (reduced 19 st m a))).2)
  | floatFmt {r e f} (h : FRedRow r e f) (g d a fa) : RedRow (e g d a fa) g 3 d a fun st m =>
      (BitVec.ofNat 64 (finishElem fa st.mode st.ftz (f.eval st.mode (reduced fa st m a))).1,
        (finishElem fa st.mode st.ftz (f.eval st.mode (reduced fa st m a))).2)
  | iadd (g d a) : RedRow (.vredIadd g d a) g 1 d a fun st m =>
      ((((List.range 16).filter fun i => m.getLsbD i).foldl (fun x i => x + vlane st a i) 0).signExtend 64, 0)

/-- The acting lanes' flags together. -/
def orAll (mask : BitVec 16) (f : Nat → Flags) : Flags :=
  ((List.range 16).filter fun i => mask.getLsbD i).foldl (fun x i => x ||| f i) 0

end Sys2Proof.Claims

/-! ### Vector instructions (07_vector_instructions) -/

/-- R148, R150 to R152, R155 to R157, R159: a lane-wise instruction gives every acting lane of vD the value its row names, leaves the
others as they were, ORs the acting lanes' flags into fpflags and advances the PC; nothing else changes. -/
def Sys2Proof.Claims.LaneResult : Prop :=
  ∀ i g w d vs f, LaneRow i g w d vs f → ∀ s st s1, RunsLanes s st g (d :: vs) [] none [] s1 →
    ∃ x, (∀ k, k < 16 → lane x k = if (st.mask g).getLsbD k then (f st k).1 else vlane st d k)
      ∧ exec i s = .next (s.setMe (((st.setV d x).orFlags (orAll (st.mask g) fun k => (f st k).2)).advance w))

/-- R154: VCMP writes the bit of every acting lane of its predicate and keeps the others. -/
def Sys2Proof.Claims.MaskResult : Prop :=
  ∀ i g w d vs f, MaskRow i g w d vs f → ∀ s st s1, RunsLanes s st g vs [] none [] s1 →
    ∃ m : BitVec 16, (∀ k, k < 16 → m.getLsbD k = if (st.mask g).getLsbD k then (f st k).1 else (st.p d).getLsbD k)
      ∧ exec i s = .next (s.setMe (((st.setP d m).orFlags (orAll (st.mask g) fun k => (f st k).2)).advance w))

/-- R148, R150 to R152, R154 to R157, R159: each acting lane, and each mask, gets the value of its rule. -/
def Obligations.LaneResult : Prop := Sys2Proof.Claims.LaneResult ∧ Sys2Proof.Claims.MaskResult


/-- R157 to R159: the reductions over the acting lanes, the moves between scalar and vector registers, and VDOT on halves, which rounds
one exact sum. -/
def Sys2Proof.Claims.ReduceAndMove : Prop :=
  (∀ i g w d a f, RedRow i g w d a f → ∀ s st s1, RunsLanes s st g [a] [] (some d) [] s1 →
      exec i s = .next (writeDest ((st.orFlags (f st (st.mask g)).2).advance w) s1 d (f st (st.mask g)).1))
  ∧ (∀ g d a s st s1, RunsLanes s st g [a] [] (some d) [] s1 → ∃ k r : Nat, k < 16 ∧ r < 16
      ∧ (st.mask g).getLsbD k = true ∧ (st.mask g).getLsbD r = true
      ∧ (∀ i, i < 16 → (st.mask g).getLsbD i = true → (vlane st a k).toInt ≤ (vlane st a i).toInt ∧ (vlane st a i).toInt ≤ (vlane st a r).toInt)
      ∧ exec (.vredImin g d a) s = .next (writeDest (st.advance 1) s1 d ((vlane st a k).signExtend 64))
      ∧ exec (.vredImax g d a) s = .next (writeDest (st.advance 1) s1 d ((vlane st a r).signExtend 64)))
  ∧ (∀ g d a s st x s1, RunsLanes s st g [d] [a] none [x] s1 →
      ∃ v, (∀ k, k < 16 → lane v k = if (st.mask g).getLsbD k then x.setWidth 32 else vlane st d k)
        ∧ exec (.vbcast g d a) s = .next (s1.setMe ((st.setV d v).advance 1)))
  ∧ (∀ g d a b s st x s1, Runs s st g → a.toNat < st.allot → readSources st s [b] (some d) [a] = .ok ([x], s1) →
      exec (.vextr g d a b) s = .next (writeDest (st.advance 1) s1 d ((vlane st a (x.toNat % 16)).setWidth 64)))
  ∧ (∀ g d a b s st x y s1, Runs s st g → d.toNat < st.allot → readSources st s [a, b] none [d] = .ok ([x, y], s1) →
      ∃ v, (∀ k, k < 16 → lane v k = if k = y.toNat % 16 then x.setWidth 32 else vlane st d k)
        ∧ exec (.vins g d a b) s = .next (s1.setMe ((st.setV d v).advance 1)))
  ∧ (∀ (bf : Bool) g d a b s st s1, RunsLanes s st g [d, a, b] [] none [] s1 →
      let fa : BitVec 5 := if bf then 17 else 18
      let mul (i k : Nat) := fvMul (readElem fa st.ftz ((elems fa (vlane st a i)).getD k 0)) (readElem fa st.ftz ((elems fa (vlane st b i)).getD k 0))
      let sum (i : Nat) := fvAccumulate st.mode (readElem 19 st.ftz (vlane st d i).toNat) [(mul i 0).1, (mul i 1).1]
      let out (i : Nat) := finishElem 19 st.mode st.ftz ((sum i).1, (mul i 0).2 ||| (mul i 1).2 ||| (sum i).2)
      ∃ x, (∀ k, k < 16 → lane x k = if (st.mask g).getLsbD k then BitVec.ofNat 32 (out k).1 else vlane st d k)
        ∧ exec (if bf then .vdotBf16 g d a b else .vdotF16 g d a b) s
            = .next (s.setMe (((st.setV d x).orFlags (orAll (st.mask g) fun k => (out k).2)).advance 1)))

/-- R153: VCVT converts component 16·hs + i of A to component 16·hd + i of D for every acting lane i and leaves every other component of
the destination format; that a NaN sets no flag is assumption 38. -/
def Obligations.ConvertResult : Prop :=
  ∀ g d a fa fb hs hd s st s1, 0 < fmtWidth fa → 0 < fmtWidth fb → (16 * hs.toNat + 16) * fmtWidth fa ≤ 512 → (16 * hd.toNat + 16) * fmtWidth fb ≤ 512 →
    RunsLanes s st g [d, a] [] none [] s1 →
    let src (i : Nat) := decodeFmt fa (component (st.v a) (fmtWidth fa) (16 * hs.toNat + i))
    let out (i : Nat) := convertFtz fa fb st.mode st.ftz (src i).1
    ∃ x, (∀ k, (k + 1) * fmtWidth fb ≤ 512 → component x (fmtWidth fb) k
          = if 16 * hd.toNat ≤ k ∧ k < 16 * hd.toNat + 16 ∧ (st.mask g).getLsbD (k - 16 * hd.toNat) = true
            then (out (k - 16 * hd.toNat)).1 % 2 ^ fmtWidth fb else component (st.v d) (fmtWidth fb) k)
      ∧ exec (.vcvt g d a fa fb hs hd) s = .next (s.setMe (((st.setV d x).orFlags
          (orAll (st.mask g) fun i => (out i).2 ||| flagIf (src i).2 flagFMTINVAL)).advance 3))
/-- R17, R149, R163: a vector register outside the allotment raises REG_BOUND before anything is read; VALLOC adds registers that read
zero while the cell's pool and the 32 of a strand allow, and else answers −1; VFREE releases the highest ones. -/
def Sys2Proof.Claims.Allotment : Prop :=
  (∀ i g w d vs f, LaneRow i g w d vs f → ∀ s st, s.me? = some st → st.mask g ≠ 0 → (∃ r ∈ d :: vs, st.allot ≤ r.toNat) →
      exec i s = .next (s.deliver s.actor regBound))
  ∧ (∀ g d a s st x s1, Runs s st g → readSources st s [a] (some d) = .ok ([x], s1) → st.allot ≤ 32 →
      (st.allot + x.toNat ≤ 32 ∧ s.poolUsed (cellOf s.actor) + x.toNat ≤ 256 → ∃ st' : Strand, st' = { st with allot := st.allot + x.toNat, vregs := st'.vregs }
          ∧ (∀ r : Reg, r.toNat < st.allot → st'.v r = st.v r)
          ∧ (∀ r : Reg, st.allot ≤ r.toNat → r.toNat < st'.allot → st'.v r = 0)
          ∧ exec (.valloc g d a) s = .next (writeDest (st'.advance 1) s1 d (BitVec.ofNat 64 (st.allot + x.toNat))))
      ∧ (¬ (st.allot + x.toNat ≤ 32 ∧ s.poolUsed (cellOf s.actor) + x.toNat ≤ 256) →
          exec (.valloc g d a) s = .next (writeDest (st.advance 1) s1 d (BitVec.allOnes 64))))
  ∧ (∀ g a s st x s1, Runs s st g → readSources st s [a] none = .ok ([x], s1) → (∀ y ∈ st.window, y.dest = .none) →
      ∃ st' : Strand, st' = { st with allot := st.allot - x.toNat, vregs := st'.vregs } ∧ (∀ r : Reg, r.toNat < st'.allot → st'.v r = st.v r)
        ∧ exec (.vfree g a) s = .next (s1.setMe (st'.advance 1)))

/-- R17, R149, R157 to R159, R163: reductions, moves and the allotment's bound. -/
def Obligations.ReduceAndMove : Prop := Sys2Proof.Claims.ReduceAndMove ∧ Sys2Proof.Claims.Allotment


namespace Sys2Proof.Claims
open Sys2Proof.Machine

/-- The access that a vector load or store of the acting lanes puts into its strand's window (R161, R162). -/
def vectorEntry (s : State) (st : Strand) (store whole : Bool) (m : BitVec 16) (d : Reg) (va : BitVec 64) (flat : Nat → Nat) : Access :=
  { id := s.serial, store := store, width := 4, whole := whole,
    parts := ((List.range 16).filter fun i => m.getLsbD i).map fun i => (flat i, i, if store then leBytes (vlane st d i).toNat 4 else []),
    va := va, acquire := false, release := false, memType := 0, dest := if store then .none else .vec d m, got := [] }

/-- An access has issued as the only one of its strand, which goes on. -/
def issued (s : State) (st : Strand) (x : Access) : State := ({ s with serial := s.serial + 1 }).setMe { st with window := [x] }

end Sys2Proof.Claims

/-- R160 to R162: VLD reads, and VST writes, the 64 bytes at its address, lane i the four from byte 4·i; VGATH and VSCAT use an address of
their own for each lane, and of lanes that store to one byte the highest wins. Lanes that do not act load and store nothing. A relaxed
form retires with its access in the strand's window, and a plain VGATH or VSCAT that issues late waits there for its lanes, which are
performed one by one (assumption 38). -/
def Obligations.VectorMemory : Prop :=
  ∀ g d a b sp disp s st, s.me? = some st → st.mask g ≠ 0 → st.Settled → 1 ≤ sp.toNat → sp.toNat ≤ 5 →
    (∀ line, s.isPoisoned line = false) → d.toNat < st.allot → b.toNat < st.allot → isPort a = false → isPort b = false →
    let base := localBase sp (cellOf s.actor)
    let va := st.g a + st.g b + disp
    let at_ (i : Nat) := st.g a + (vlane st b i).setWidth 64
    let acting := (List.range 16).filter fun i => (st.mask g).getLsbD i
    let row (store : Bool) := vectorEntry s st store true (st.mask g) d va fun i => base + va.toNat + 4 * i
    let each (store : Bool) := vectorEntry s st store false (st.mask g) d (at_ (acting.headD 0)) fun i => base + (at_ i).toNat
    (va.toNat % 64 = 0 → va.toNat + 64 ≤ spaceSize sp →
        (∃ x, (∀ k, k < 16 → lane x k = if (st.mask g).getLsbD k then BitVec.ofNat 32 (leNat (s.bytes (base + va.toNat + 4 * k) 4)) else vlane st d k)
          ∧ exec (.vldExtended g d a b sp 0 (some disp)) s = .next (s.setMe ((st.setV d x).advance 5))
          ∧ (disp = 0 → exec (.vldExtended g d a b sp 0 none) s = .next (s.setMe ((st.setV d x).advance 3)))
          ∧ (disp = 0 → sp = 1 → exec (.vld g d a b) s = .next (s.setMe ((st.setV d x).advance 1))))
        ∧ (∀ q, qRelaxed q = true → exec (.vldExtended g d a b sp q (some disp)) s = .next (issued s (st.advance 5) (row false))
          ∧ (disp = 0 → exec (.vldExtended g d a b sp q none) s = .next (issued s (st.advance 3) (row false))))
        ∧ ((sp = 5 → va.toNat < 0xFF000) →
          let t := acting.foldl (fun t i => t.storeHome (base + va.toNat + 4 * i) (leBytes (vlane st d i).toNat 4)) s
          exec (.vstExtended g d a b sp 0 (some disp)) s = .next (retire t 5)
          ∧ (disp = 0 → exec (.vstExtended g d a b sp 0 none) s = .next (retire t 3))
          ∧ (disp = 0 → sp = 1 → exec (.vst g d a b) s = .next (retire t 1))
          ∧ (∀ q, qRelaxed q = true → exec (.vstExtended g d a b sp q (some disp)) s = .next (issued s (st.advance 5) (row true))
            ∧ (disp = 0 → exec (.vstExtended g d a b sp q none) s = .next (issued s (st.advance 3) (row true))))))
    ∧ ((∀ i, i < 16 → (st.mask g).getLsbD i = true → (at_ i).toNat % 4 = 0 ∧ (at_ i).toNat + 4 ≤ spaceSize sp) →
        (st.isLate = false →
          ∃ x, (∀ k, k < 16 → lane x k = if (st.mask g).getLsbD k then BitVec.ofNat 32 (leNat (s.bytes (base + (at_ k).toNat) 4)) else vlane st d k)
          ∧ exec (.vgathExtended g d a b sp 0) s = .next (s.setMe ((st.setV d x).advance 3))
          ∧ (sp = 1 → exec (.vgath g d a b) s = .next (s.setMe ((st.setV d x).advance 1))))
        ∧ (st.isLate = true → exec (.vgathExtended g d a b sp 0) s = .next (issued s (st.await .lanes s.clock) (each false))
          ∧ (sp = 1 → exec (.vgath g d a b) s = .next (issued s (st.await .lanes s.clock) (each false))))
        ∧ (∀ q, qRelaxed q = true → exec (.vgathExtended g d a b sp q) s = .next (issued s (st.advance 3) (each false)))
        ∧ ((sp = 5 → ∀ i, i < 16 → (st.mask g).getLsbD i = true → (at_ i).toNat < 0xFF000) →
          let t := acting.foldl (fun t i => t.storeHome (base + (at_ i).toNat) (leBytes (vlane st d i).toNat 4)) s
          (st.isLate = false → exec (.vscatExtended g d a b sp 0) s = .next (retire t 3)
            ∧ (sp = 1 → exec (.vscat g d a b) s = .next (retire t 1)))
          ∧ (st.isLate = true → exec (.vscatExtended g d a b sp 0) s = .next (issued s (st.await .lanes s.clock) (each true))
            ∧ (sp = 1 → exec (.vscat g d a b) s = .next (issued s (st.await .lanes s.clock) (each true))))
          ∧ (∀ q, qRelaxed q = true → exec (.vscatExtended g d a b sp q) s = .next (issued s (st.advance 3) (each true)))))


namespace Sys2Proof.Claims
open Sys2Proof.Machine

/-- The ray-unit instructions in both forms, the size of their operand, and the register they write from the ray and the operand; `side`
is VOLSEG's free choice for a ray in the plane between two cells (the choice that R188 leaves open). -/
inductive RayRow : (Guard → Reg → Reg → Reg → Instr) → (Guard → Reg → Reg → Reg → BitVec 3 → Instr) → Nat →
    ((Nat → Bool) → BitVec 512 → List (BitVec 8) → BitVec 512) → Prop
  | boxv : RayRow .boxv .boxvExtended 192 fun _ a bs => boxvLanes a bs
  | trix : RayRow .trix .trixExtended 64 fun _ a bs => ((ray? a).bind fun r => trixHit r bs).getD missLanes
  | splt : RayRow .splt .spltExtended 64 fun _ a bs => ((ray? a).bind fun r => spltHit r bs).getD missLanes
  | volseg : RayRow .volseg .volsegExtended 1088 fun side a bs => ((ray? a).bind fun r => volsegHit r side bs).getD missLanes

/-- The list instructions: guard, vector registers named, scalar sources, and what becomes of the strand. -/
inductive ListRow : Instr → Guard → List Reg → List Reg → (Strand → List (BitVec 64) → Strand) → Prop
  | ivins (g a) : ListRow (.ivins g a) g [a] [] fun st _ => st.ivins ((st.v a).setWidth 256)
  | ivget (g d a) : ListRow (.ivget g d a) g [d] [a] fun st v =>
      st.setV d (if h : (nth v 0).toNat < st.recs.length then st.recs[(nth v 0).toNat].setWidth 512 else missLanes)
  | ivqry (g d b) : ListRow (.ivqry g d b) g [d] [] fun st _ => (st.setV d st.ivqry.1).setP b (if (tcut st st.ivs).2 then 0xFFFF else 0)
  | ivcut (g a) : ListRow (.ivcut g a) g [] [a] fun st v => st.ivcut ((nth v 0).setWidth 32)
  | ivclr (g) : ListRow (.ivclr g) g [] [] fun st _ => { st with recs := [], opaq := false }
  | ivcomp (g d) : ListRow (.ivcomp g d) g [d] [] fun st _ => st.setV d st.ivcomp
  | ivcfg (g a) : ListRow (.ivcfg g a) g [] [a] fun st v => st.ivcfg (nth v 0)

/-- The operand of a ray instruction: `size` bytes of a local space, or of one page of normal, read-mostly or similar global memory that is not
staged. -/
inductive RayOperand (s : State) (st : Strand) (va : BitVec 64) (size : Nat) : BitVec 3 → List (BitVec 8) → Prop
  | inSpace {sp} (space : 1 ≤ sp.toNat ∧ sp.toNat ≤ 5) (fits : va.toNat + size ≤ spaceSize sp)
      (near : localBase sp (cellOf s.actor) + va.toNat + size ≤ peerBase) :
      RayOperand s st va size sp (s.bytes (localBase sp (cellOf s.actor) + va.toNat) size)
  | inMemory {spot} (place : s.reach st .read va = .ok spot) (unstaged : spot.cls = 0) (type : spot.mt ≠ 4 ∧ spot.mt ≠ 5)
      (inside : overWindow va size = false) (onePage : va.toNat % 65536 + size ≤ 65536) (ours : spot.flat + size ≤ peerBase) :
      RayOperand s st va size 0 (s.loadBytes none (clusterOf s.actor) spot.mt spot.flat size)

end Sys2Proof.Claims

/-! ### Ray and interval instructions (09_ray_and_interval_instructions) -/

/-- R181, R184 to R188: BOXV, TRIX, SPLT and VOLSEG read their operand from a local space or from global memory and write vD, with nothing else
changed but VOLSEG's draw of its free choice. -/
def Sys2Proof.Claims.RayResult : Prop :=
  ∀ r e size f, RayRow r e size f → ∀ g d a b sp s st, Runs s st g → st.window = [] → st.wcbuf = none → st.poison = [] →
    d.toNat < st.allot → a.toNat < st.allot → isPort b = false → (∀ line, s.isPoisoned line = false) →
    (st.g b).toNat % 64 = 0 → ∀ bs, RayOperand s st (st.g b) size sp bs →
    ∃ (side : Nat → Bool) (t : State), t.slots = s.slots ∧ t.actor = s.actor ∧ t.mem = s.mem ∧ t.unk = s.unk
      ∧ exec (e g d a b sp) s = .next (t.setMe ((st.setV d (f side (st.v a) bs)).advance 3))
      ∧ (sp = 5 → exec (r g d a b) s = .next (t.setMe ((st.setV d (f side (st.v a) bs)).advance 1)))

/-- R183 to R187: what a hit and a miss look like. A miss is the null record, +inf in lanes 0 and 1 and zeros; a hit of TRIX lies in the
ray's range, is a point, and has flag lane 10 set; a ray with a NaN in a lane it uses misses everything. -/
def Sys2Proof.Claims.RayHits : Prop :=
  (lane missLanes 0 = 0x7F800000 ∧ lane missLanes 1 = 0x7F800000 ∧ ∀ k, 2 ≤ k → k < 16 → lane missLanes k = 0)
  ∧ (∀ r bs v, trixHit r bs = some v → ∃ t : Rat, r.lo.le (FV.ofRat t) = true ∧ (FV.ofRat t).le r.hi = true
      ∧ lane v 0 = ratF32 t ∧ lane v 1 = ratF32 t ∧ lane v 10 = 1)
  ∧ (∀ a bs k i, k < 8 → i ∈ [0, 1, 2, 6, 7] → (f32 (lane a i)).isNaN = true →
      lane (boxvLanes a bs) (2 * k) = 0x7F800000 ∧ lane (boxvLanes a bs) (2 * k + 1) = 0xFF800000)
  ∧ (∀ a i, i < 8 → (f32 (lane a i)).isNaN = true → ray? a = none)

/-- R181, R183 to R188: the ray instructions, and the hits among them. -/
def Obligations.RayResult : Prop := Sys2Proof.Claims.RayResult ∧ Sys2Proof.Claims.RayHits


/-- R189 to R201: a list instruction of a strand that has a list does what its row says to the strand and advances the PC; without a
list it raises ILLEGAL_INSTR; IVMAKE works without one. -/
def Sys2Proof.Claims.IntervalList : Prop :=
  (∀ i g vs srcs f, ListRow i g vs srcs f → ∀ s st xs s1, Runs s st g →
      (st.nmax ≠ 0 → (∀ r ∈ vs, r.toNat < st.allot) → readSources st s srcs none vs = .ok (xs, s1) →
        exec i s = .next (s1.setMe ((f st xs).advance 1)))
      ∧ (st.nmax = 0 → exec i s = .next (s.deliver s.actor (illegal 0))))
  ∧ (∀ g d a b s st s1, Runs s st g → (∀ r ∈ [d, a, b], r.toNat < st.allot) → readSources st s [] none [d, a, b] = .ok ([], s1) →
      exec (.ivmake g d a b) s = .next (s1.setMe ((st.setV d (ivmakeLanes (st.v a) (st.v b))).advance 1)))

/-- R25, R193, R195, R198, R200: what the list operations keep and bound. IVINS never leaves more records than NCAP allows unless it leaves the
list as it was, and touches no register of the strand but the records, the counters and OPAQ; IVCUT never raises TMAX and leaves no
more records; IVCFG writes EPS, CDROP and NCAP, which never exceeds NMAX, and ends with at most NCAP records. -/
def Sys2Proof.Claims.IntervalBounds : Prop :=
  (∀ (st : Strand) x, (st.ivins x).recs = st.recs ∨ (st.ivins x).recs.length ≤ capacity st.ncap)
  ∧ (∀ (st : Strand) x, ∃ r o n1 n2 n3,
      st.ivins x = { st with recs := r, opaq := o, ivlate := n1, ivdrop := n2, ivmerge := n3 })
  ∧ (∀ (st : Strand) c, (st.ivcut c).recs.length ≤ st.recs.length ∧ ((f32 c).isNaN = true → st.ivcut c = st)
      ∧ ((f32 c).isNaN = false → (f32 st.tmax).isNaN = false → (st.ivcut c).tmax = if (f32 c).lt (f32 st.tmax) then c else st.tmax))
  ∧ (∀ (st : Strand) a, (st.ivcfg a).eps = a.extractLsb' 48 16 ∧ (st.ivcfg a).cdrop = a.extractLsb' 40 8 ∧ (st.ivcfg a).nmax = st.nmax
      ∧ (st.ivcfg a).recs.length ≤ capacity (st.ivcfg a).ncap
      ∧ (st.ivcfg a).ncap.toNat = if (a.extractLsb' 32 2).toNat = 0 then st.ncap.toNat else min (a.extractLsb' 32 2).toNat st.nmax.toNat)


/-- R25, R189 to R201: the interval list and its bounds. -/
def Obligations.IntervalList : Prop := Sys2Proof.Claims.IntervalList ∧ Sys2Proof.Claims.IntervalBounds


namespace Sys2Proof.Claims
open Sys2Proof.Machine

/-- The configuration word of a tile of the acting cell, and the dimension of the algebra it names. -/
def cfgOf (s : State) (t : BitVec 4) : BitVec 32 := (s.cell (cellOf s.actor)).cfg t
def dimOf (s : State) (w : BitVec 32) : Nat := ((s.cell (cellOf s.actor)).alg (cfgAlg w)).d
/-- The first byte of a tile's image in the acting cell. -/
def image (s : State) (t : BitVec 4) : Nat := tileBase (cellOf s.actor) t.toNat
/-- A tile of the acting cell as it stands. -/
def tileOf (s : State) (t : BitVec 4) : Tile := s.tile (cellOf s.actor) t

/-- The tiles lie in the grant and no strand of the cell waits in TALG for a slot one of them names (R18, R164, R172). -/
structure RunsTiles (s : State) (st : Strand) (g : Guard) (ts : List (BitVec 4)) : Prop where
  me : s.me? = some st
  go : st.allows g = true
  granted : ∀ t ∈ ts, st.tfirst ≤ t.toNat ∧ t.toNat < st.tfirst + st.tcount
  free : s.talgHolds (cellOf s.actor) (ts.map fun t => cfgAlg (cfgOf s t)) = false

/-- The tiles pass the size test (R20). -/
def Sized (s : State) (ts : List (BitVec 4)) : Prop := ∀ t ∈ ts, cfgBytes (cfgOf s t) (dimOf s (cfgOf s t)) ≤ 4096

/-- The elements of a tile instruction's result: rows × columns × dimension of codes, each with the flags it raised. -/
abbrev Codes := List (List (Nat × Flags))
/-- The codes of a result. -/
def codesOf (r : Codes) : List (List Nat) := r.map fun x => x.map Prod.fst
/-- The flags of a result, with others. -/
def flagsOf (r : Codes) (f : Flags) : Flags := r.foldl (fun f x => x.foldl (fun f y => f ||| y.2) f) f

/-- The strand that retires a tile instruction: flags ORed in, PC past the words. -/
def retired (s : State) (st : Strand) (f : Flags) (w : Nat) : State := s.setMe ((st.orFlags f).advance w)

/-- The scale that TSCA applies to an element (R179). -/
def scaleAt (x y : Tile) (m n : Nat) : FV := y.val (if y.rows = x.rows then m else 0) (if y.cols = x.cols then n else 0) 0
/-- A rounded element with its flags. -/
def rounded (f : BitVec 5) (v : FV × Flags) : Nat × Flags := ((toCode f .rne v.1).1, v.2 ||| (toCode f .rne v.1).2)

/-- The bytes of a TRI5 image that are no valid code (R79) and lie, or do not lie, over a component that conjugation negates. -/
def noCode (x : Tile) (t : AlgTable) (bs : List (BitVec 8)) (negated : Bool) : List Nat :=
  let rb := runBytes x.fmt (x.cols * x.d)
  (List.range bs.length).filter fun i => decide (x.fmt = 1) && decide (243 ≤ (bs.getD i 0).toNat)
    && ((List.range (x.cols * x.d)).any fun c => decide (c / 5 = i % rb) && t.masked (c % x.d)) == negated

/-- The values of a block of 32 columns in a row (R93, R180). -/
def block (x : Tile) (m b : Nat) : List FV :=
  ((List.range 32).filter fun i => decide (32 * b + i < x.cols)).map fun i => x.val m (32 * b + i) 0

/-- The instructions that name tiles, and the tiles they name (R164). -/
inductive TileRow : Instr → Guard → List (BitVec 4) → Prop
  | tcfg (g d a) : TileRow (.tcfg g d a) g [d]
  | tcfgr (g d a) : TileRow (.tcfgr g d a) g [a]
  | tzero (g d) : TileRow (.tzero g d) g [d]
  | tmov (g d a) : TileRow (.tmov g d a) g [d, a]
  | tconj (g d a) : TileRow (.tconj g d a) g [d, a]
  | txp (g d a) : TileRow (.txp g d a) g [d, a]
  | tnorm (g d a) : TileRow (.tnorm g d a) g [d, a]
  | tld (g d a b) : TileRow (.tld g d a b) g [d]
  | tldExtended (g d a b sp pl x) : TileRow (.tldExtended g d a b sp pl x) g [d]
  | tst (g d a b) : TileRow (.tst g d a b) g [d]
  | tstExtended (g d a b sp pl x) : TileRow (.tstExtended g d a b sp pl x) g [d]
  | mma (g cb ca ba d a b) : TileRow (.mma g cb ca ba d a b) g [d, a, b]
  | mmaCbuf (g cb ca ba d a b c) : TileRow (.mmaCbuf g cb ca ba d a b c) g [d, a, b]
  | tsca (g d a b) : TileRow (.tsca g d a b) g [d, a, b]
  | qnt (g d a b) : TileRow (.qnt g d a b) g [d, a, b]
  | dqnt (g d a b) : TileRow (.dqnt g d a b) g [d, a, b]

end Sys2Proof.Claims

/-! ### Tile and algebra instructions (08_tile_and_algebra_instructions) -/

/-- R20, R79, R164: a tile image reads back the codes that were written to it, and writing one touches no byte outside its rows. -/
def Sys2Proof.Claims.TileReadBack : Prop :=
  ∀ (s : State) cell (t : BitVec 4) rows, let c := s.cell cell
    let w := c.cfg t
    let n := cfgCols w * (c.alg (cfgAlg w)).d
    cfgBytes w (c.alg (cfgAlg w)).d ≤ 4096 → fmtWidth (cfgFmt w) ≠ 0 → rows.length = cfgRows w → (∀ r ∈ rows, r.length = n) →
    (∀ r ∈ rows, ∀ x ∈ r, x < if cfgFmt w = 1 then 3 else 2 ^ fmtWidth (cfgFmt w)) →
    (((s.putTile cell t (cfgFmt w) rows).1.tile cell t).codes = rows)
    ∧ ∀ a, a < tileBase cell t.toNat ∨ tileBase cell t.toNat + cfgBytes w (c.alg (cfgAlg w)).d ≤ a →
        (s.putTile cell t (cfgFmt w) rows).1.byte a = s.byte a

/-- R19, R21, R165, R166: TCFG writes the configuration word (and zeros the image when bit 20 says so), TCFGR reads one, TZERO zeros the bytes the
configuration uses, TMOV copies configuration and image, and TXP exchanges rows and columns of whole elements. -/
def Obligations.TileMove : Prop :=
  (∀ g d a s st w s1, RunsTiles s st g [d] → readSources st s [a] none = .ok ([w], s1) → w.extractLsb' 21 43 = 0 →
      let cfg : BitVec 32 := (w.extractLsb' 0 20).setWidth 32
      cfgBytes cfg (dimOf s cfg) ≤ 4096 →
      exec (.tcfg g d a) s = .next (retire (if w.getLsbD 20 then (s1.setCfg (cellOf s.actor) d cfg).setBytes (image s d) (List.replicate 4096 0)
        else s1.setCfg (cellOf s.actor) d cfg) 1))
  ∧ (∀ g d a s st s1, RunsTiles s st g [a] → readSources st s [] (some d) = .ok ([], s1) →
      exec (.tcfgr g d a) s = .next (writeDest (st.advance 1) s1 d ((cfgOf s a).setWidth 64)))
  ∧ (∀ g d s st, RunsTiles s st g [d] → Sized s [d] → exec (.tzero g d) s
      = .next (retire (s.setBytes (image s d) (List.replicate (cfgBytes (cfgOf s d) (dimOf s (cfgOf s d))) 0)) 1))
  ∧ (∀ g d a s st, RunsTiles s st g [d, a] → Sized s [d, a] → exec (.tmov g d a) s
      = .next (retire ((s.setCfg (cellOf s.actor) d (cfgOf s a)).setBytes (image s d) (s.bytes (image s a) 4096)) 1))
  ∧ (∀ g d a s st, RunsTiles s st g [d, a] → Sized s [d, a] → let x := tileOf s a
      let cfg := cfgShape x.cfg x.cols x.rows
      cfgBytes cfg x.d ≤ 4096 → exec (.txp g d a) s
        = .next (retire ((s.setCfg (cellOf s.actor) d cfg).putTile (cellOf s.actor) d x.fmt (tabulate x.cols x.rows x.d fun m n c => x.code n m c)).1 1))

/-- R167, R168, R178 to R180: TCONJ negates the components its algebra masks, TNORM writes the real part of x·conj(x), TSCA adds a scaled tile, QNT writes
the codes and the scales of blocks of 32, and DQNT multiplies them out. Each writes the elements its rule names, rounds each once,
ORs their flags into fpflags and advances the PC. The bits of a row beyond its elements, which putTile keeps in D, the copy of a TRI5 byte
that is no code where conjugation negates nothing in it, and the flags of special values are assumption 39's. -/
def Obligations.TileArithmetic : Prop :=
  (∀ g d a s st, RunsTiles s st g [d, a] → Sized s [d, a] → let x := tileOf s a
      let t := (s.cell (cellOf s.actor)).alg x.alg
      let s1 := s.setCfg (cellOf s.actor) d x.cfg
      ((∀ c, c < x.d → t.masked c = false) → exec (.tconj g d a) s
        = .next (retire (s1.setBytes (image s d) (s.bytes (image s a) (cfgBytes x.cfg x.d))) 1))
      ∧ ((∃ c, c < x.d ∧ t.masked c = true) → noConj x.fmt = false →
        let r : Codes := tabulate x.rows x.cols x.d fun m n c => if t.masked c then negCode x.fmt (x.code m n c) else (x.code m n c, 0)
        let p := s1.putTile (cellOf s.actor) d x.fmt (codesOf r)
        let bs := s.bytes (image s a) (cfgBytes x.cfg x.d)
        let kept := (noCode x t bs false).foldl (fun u k => u.setByte (image s d + k) (bs.getD k 0)) p.1
        exec (.tconj g d a) s = .next (retired kept st (flagsOf r (p.2 ||| flagIf (!(noCode x t bs true).isEmpty) flagFMTINVAL)) 1)))
  ∧ (∀ g d a s st, RunsTiles s st g [d, a] → Sized s [d, a] → let x := tileOf s a
      let y := tileOf s d
      let t := (s.cell (cellOf s.actor)).alg x.alg
      y.rows = x.rows → y.cols = x.cols → y.d = 1 → (y.fmt ∈ [17, 18, 19] ∨ y.fmt = 9 ∧ isIntFmt x.fmt = true) →
      let part (m n : Nat) := sumTerms (algTerms t (x.val m n) (fun j => if t.masked j then (x.val m n j).negate else x.val m n j) 0)
      let r : Codes := tabulate x.rows x.cols 1 fun m n _ => ((resultCode y.fmt (part m n).1).1, (part m n).2 ||| (resultCode y.fmt (part m n).1).2)
      let p := s.putTile (cellOf s.actor) d y.fmt (codesOf r)
      exec (.tnorm g d a) s = .next (retired p.1 st (flagsOf r (p.2 ||| x.flags)) 1))
  ∧ (∀ g d a b s st, RunsTiles s st g [d, a, b] → Sized s [d, a, b] → let z := tileOf s d
      let x := tileOf s a
      let y := tileOf s b
      z.rows = x.rows → z.cols = x.cols → (y.rows = x.rows ∨ y.rows = 1) → (y.cols = x.cols ∨ y.cols = 1) → z.alg = x.alg → y.d = 1 →
      z.fmt ∈ [17, 18, 19] → x.fmt ∈ [9, 17, 18, 19] → y.fmt ∈ [17, 18, 19, 29, 30] →
      let r : Codes := tabulate z.rows z.cols z.d fun m n c => rounded z.fmt (fvFma .rne (x.val m n c) (scaleAt x y m n) (z.val m n c))
      let p := s.putTile (cellOf s.actor) d z.fmt (codesOf r)
      exec (.tsca g d a b) s = .next (retired p.1 st (flagsOf r (p.2 ||| y.flags)) 1))
  ∧ (∀ g d a b s st, RunsTiles s st g [d, a, b] → Sized s [d, a, b] → let z := tileOf s d
      let x := tileOf s a
      let y := tileOf s b
      z.rows = x.rows → z.cols = x.cols → y.rows = x.rows → y.cols = (x.cols + 31) / 32 → z.d = 1 → x.d = 1 → y.d = 1 → y.fmt = 29 →
      quantTarget z.fmt = true → x.fmt ∈ [17, 18, 19, 20] →
      let q (m b : Nat) := quantBlock z.fmt (block x m b)
      let p1 := s.putTile (cellOf s.actor) d z.fmt ((List.range x.rows).map fun m => (List.range y.cols).flatMap fun b => (q m b).2.1)
      let p2 := p1.1.putTile (cellOf s.actor) b y.fmt ((List.range x.rows).map fun m => (List.range y.cols).map fun b => (q m b).1)
      let f := ((List.range x.rows).flatMap fun m => (List.range y.cols).map fun b => (q m b).2.2).foldl (fun f x => f ||| x) (p1.2 ||| p2.2)
      exec (.qnt g d a b) s = .next (retired p2.1 st f 1))
  ∧ (∀ g d a b s st, RunsTiles s st g [d, a, b] → Sized s [d, a, b] → let z := tileOf s d
      let x := tileOf s a
      let y := tileOf s b
      z.rows = x.rows → z.cols = x.cols → y.rows = x.rows → y.cols = (x.cols + 31) / 32 → z.d = 1 → x.d = 1 → y.d = 1 → y.fmt ∈ [29, 30] →
      z.fmt ∈ [17, 18, 19] → x.fmt ∈ [0, 1, 2, 4, 6, 8, 10, 11, 12, 13, 14, 15, 16, 17, 18, 19, 20, 3, 5, 7] →
      let r : Codes := tabulate x.rows x.cols 1 fun m n _ => rounded z.fmt (fvMul (x.val m n 0) (y.val m (n / 32) 0))
      let p := s.putTile (cellOf s.actor) d z.fmt (codesOf r)
      exec (.dqnt g d a b) s = .next (retired p.1 st (flagsOf r (p.2 ||| x.flags ||| y.flags)) 1))

/-- R169 to R171: TLD and TST move the bytes of a tile between its image and a local space, in the packed layout byte for byte and in the
planar one plane after plane, which for real elements is the same. -/
def Obligations.TileTransfer : Prop :=
  ∀ g d a b sp disp s st, RunsTiles s st g [d] → Sized s [d] → st.window = [] → st.wcbuf = none → st.poison = [] → isPort a = false → isPort b = false →
    (∀ line, s.isPoisoned line = false) → 1 ≤ sp.toNat → sp.toNat ≤ 5 →
    let x := tileOf s d
    let va := st.g a + st.g b + disp
    let flat := localBase sp (cellOf s.actor) + va.toNat
    let n := cfgBytes x.cfg x.d
    let np := x.d * x.rows * runBytes x.fmt x.cols
    va.toNat % 64 = 0 →
    (va.toNat + n ≤ spaceSize sp → ∀ pl : Bool, (pl = true → x.d = 1) →
        exec (.tldExtended g d a b sp pl (some disp)) s = .next (retire (s.setBytes (image s d) (s.bytes flat n)) 5)
        ∧ exec (.tstExtended g d a b sp pl (some disp)) s = .next (retire (s.storeHome flat (s.bytes (image s d) n)) 5)
        ∧ (disp = 0 → sp = 3 → exec (.tld g d a b) s = .next (retire (s.setBytes (image s d) (s.bytes flat n)) 1)
            ∧ exec (.tst g d a b) s = .next (retire (s.storeHome flat (s.bytes (image s d) n)) 1))
        ∧ (disp = 0 → exec (.tldExtended g d a b sp pl none) s = .next (retire (s.setBytes (image s d) (s.bytes flat n)) 3)
            ∧ exec (.tstExtended g d a b sp pl none) s = .next (retire (s.storeHome flat (s.bytes (image s d) n)) 3)))
    ∧ (va.toNat + np ≤ spaceSize sp → x.d ≠ 1 →
        let loaded := (s.putTile (cellOf s.actor) d x.fmt (gatherPlanes x (readRows x.fmt (x.d * x.rows) x.cols (s.bytes flat np)).1)).1
        let stored := s.storeHome flat (writeRows x.fmt (scatterPlanes x) (s.bytes flat np)).1
        exec (.tldExtended g d a b sp true (some disp)) s = .next (retire loaded 5)
        ∧ exec (.tstExtended g d a b sp true (some disp)) s = .next (retire stored 5)
        ∧ (disp = 0 → exec (.tldExtended g d a b sp true none) s = .next (retire loaded 3)
            ∧ exec (.tstExtended g d a b sp true none) s = .next (retire stored 3)))

/-- R172: TALG loads the table at an lmem offset into a slot when its image keeps to Table 8-4 and no instruction in flight
names the slot; while one does, it waits. -/
def Obligations.AlgebraLoad : Prop :=
  ∀ g d a s st x s1 t, Runs s st g → readSources st s [a] none = .ok ([x], s1) → st.window = [] → st.wcbuf = none → st.poison = [] →
    (∀ line, s.isPoisoned line = false) → x.toNat % 8 = 0 → isPort a = false →
    let base := lmemBase (cellOf s.actor) + x.toNat
    let n := 8 + (s.byte base).toNat * (s.byte base).toNat
    x.toNat + n ≤ 98304 →
    (s.tilesInFlight (cellOf s.actor) d.toNat = true → exec (.talg g d a) s = .next (s.setMe (st.await (.talg d.toNat) s.clock)))
    ∧ (s.tilesInFlight (cellOf s.actor) d.toNat = false → algOfImage (s.bytes base n) = some t → ∃ u, exec (.talg g d a) s = .next u ∧ u.me? = some (st.advance 1)
        ∧ (∀ k, (u.cell (cellOf s.actor)).alg k = if k = d.toNat ∧ k ≠ 0 then t else (s.cell (cellOf s.actor)).alg k) ∧ u.mem = s.mem)
    ∧ (s.tilesInFlight (cellOf s.actor) d.toNat = false → algOfImage (s.bytes base n) = none → exec (.talg g d a) s = .next (s.deliver s.actor (tileShape 5)))

/-- R174 to R177: an MMA whose tiles agree takes its operands at issue and goes on its way, and at its completion writes the result tile (or
the cbuf bytes of the form that names an offset), ORs its flags and moves the PC past its words; its strand does nothing else
meanwhile. -/
def Obligations.MatrixMultiply : Prop :=
  (∀ cb ca ba g d a b s st, RunsTiles s st g [d, a, b] → Sized s [d, a, b] → let x := tileOf s a
      let y := tileOf s b
      let z := tileOf s d
      let c := s.cell (cellOf s.actor)
      let k := if x.alg = 0 then y.alg else x.alg
      y.rows = x.cols → z.rows = x.rows → z.cols = y.cols → (x.alg = y.alg ∨ x.alg = 0 ∨ y.alg = 0) → z.alg = k →
      operandFmt x.fmt = true → operandFmt y.fmt = true → (if isIntFmt x.fmt && isIntFmt y.fmt then z.fmt = 9 else z.fmt ∈ [17, 18, 19]) →
      let flight (dst : Nat) (cbuf : Bool) : MmaFlight :=
        let n := cfgBytes z.cfg z.d
        let r := mmaResult ⟨cb, ca, ba⟩ (c.alg k) (c.alg x.alg) (c.alg y.alg)
          { z with codes := (readRows z.fmt z.rows (z.cols * z.d) (s.bytes dst n)).1 } x y
        { dst := dst, cbuf := cbuf, touched := [], algs := [x.alg, y.alg, z.alg], bytes := (writeRows z.fmt r.1 (s.bytes dst n)).1,
          flags := r.2, due := s.clock + mmaBound x y z.d }
      exec (.mma g cb ca ba d a b) s = .next (s.setMe { st with mma := some (flight (image s d) false), wait := none })
      ∧ ∀ r, isPort r = false → st.window = [] → st.wcbuf = none → st.poison = [] → (∀ line, s.isPoisoned line = false) →
          (st.g r).toNat % 64 = 0 → (st.g r).toNat + cfgBytes z.cfg z.d ≤ 65536 →
          exec (.mmaCbuf g cb ca ba d a b r) s
            = .next (s.setMe { st with mma := some (flight (cbufBase (cellOf s.actor) + (st.g r).toNat) true), wait := none }))
  ∧ (∀ n s st m, s.strand? n = some st → st.mma = some m → (m.cbuf = true → m.touched = []) →
      ∃ t, exec (.mmaCompletion n) s = .next t
        ∧ t.strand? n = some ({ st.orFlags m.flags with mma := none }.advance (if m.cbuf then 3 else 1))
        ∧ t.mem = (if m.cbuf then s.storeHome m.dst m.bytes else s.setBytes m.dst m.bytes).mem)

/-- R18, R164: a tile outside the strand's grant raises TILE_GRANT before anything else is looked at. -/
def Sys2Proof.Claims.TileGrantTrap : Prop :=
  (∀ i g ts, TileRow i g ts → ∀ s st, Runs s st g → (∃ t ∈ ts, t.toNat < st.tfirst ∨ st.tfirst + st.tcount ≤ t.toNat) →
    exec i s = .next (s.deliver s.actor tileGrant))


/-- R18, R20, R79, R164: tiles within the grant hold what is written to them, and tiles outside it trap. -/
def Obligations.TileReadBack : Prop := Sys2Proof.Claims.TileReadBack ∧ Sys2Proof.Claims.TileGrantTrap


namespace Sys2Proof.Claims
open Sys2Proof.Machine

/-- A waiting instruction of a strand that is no codelet (R211). -/
structure RunsWaiting (s : State) (st : Strand) (g : Guard) : Prop where
  me : s.me? = some st
  go : st.allows g = true
  noCodelet : st.cdl = false

/-- The instructions at which a strand can wait, and which a codelet may not execute (R211), with their scalar sources and destination;
TAGW has its own clauses. -/
inductive WaitRow : Instr → Guard → List Reg → Option Reg → Prop
  | recvw (g d) : WaitRow (.recvw g d) g [] (some d)
  | deq (g d a) : WaitRow (.deq g d a) g [a] (some d)
  | bar (g) : WaitRow (.bar g) g [] none
  | semw (g a b) : WaitRow (.semw g a b) g [a, b] none
  | waitpred (g) : WaitRow (.waitpred g) g [] none
  | tagf (g d) : WaitRow (.tagf g d) g [] (some d)

/-- A handle of a device queue with its number and generation (Table 10-2). -/
def deviceHandle (gen : BitVec 16) (q : Nat) : BitVec 64 := BitVec.ofNat 64 (gen.toNat * 2 ^ 48 + q)
/-- A handle of a stage queue. -/
def stageHandle (src : Nat) : BitVec 64 := BitVec.ofNat 64 (2 ^ 46 + src)

/-- The READY bits a TAGW names: all of them, or some. -/
def tagsReady (all : Bool) (c : Cell) (m : BitVec 64) : Prop :=
  m = 0 ∨ if all then ∀ t, t < 64 → m.getLsbD t = true → c.tagReady.getLsbD t = true
    else ∃ t, t < 64 ∧ m.getLsbD t = true ∧ c.tagReady.getLsbD t = true

end Sys2Proof.Claims

/-! ### Messages, tasks and synchronisation (10_message_task_engine_instructions) -/

/-- R205 to R207: RECVW and DEQ take the oldest value of their queue into gD, ENQ appends its value to a live device queue or to the stage queue of
its own stage, and a handle that names no live queue of the partition traps. -/
def Sys2Proof.Claims.QueueInstructions : Prop :=
  (∀ g d s st s1 m, RunsWaiting s st g → st.msgb = true → readSources st s [] (some d) = .ok ([], s1) → s.slotBind s.actor st = 2 →
      m = s.portMask st → m ≠ 0 → exec (.recvw g d) s = .next (s.setMe ((st.setG d (BitVec.ofNat 64 m)).advance 1)))
  ∧ (∀ g d s st, RunsWaiting s st g → st.msgb = false → exec (.recvw g d) s = .next (s.deliver s.actor (permission 3)))
  ∧ (∀ g d a s st h s1 q x v vs, RunsWaiting s st g → readSources st s [a] (some d) = .ok ([h], s1) → q < 4096 →
      s.part? st.part ≠ none → x = s.devq st.part q → h = deviceHandle x.gen q → x.live = true → x.values = v :: vs →
      ∃ t, exec (.deq g d a) s = .next t ∧ t.me? = some ((st.setG d v).advance 1) ∧ t.devq st.part q = { x with values := vs } ∧ t.mem = s.mem)
  ∧ (∀ g a b s st h v s1 q x, Runs s st g → st.Settled → readSources st s [a, b] none = .ok ([h, v], s1) → q < 4096 → isPort a = false → isPort b = false →
      s.part? st.part ≠ none → x = s.devq st.part q → h = deviceHandle x.gen q → x.live = true → x.values.length < x.cap →
      ∃ t, exec (.enq g a b) s = .next t ∧ t.me? = some (st.advance 1) ∧ t.devq st.part q = { x with values := x.values ++ [v] } ∧ t.mem = s.mem)
  ∧ (∀ g a b s st h v s1 q x, Runs s st g → readSources st s [a, b] none = .ok ([h, v], s1) → q < 4096 →
      x = s.devq st.part q → h = deviceHandle x.gen q → x.live = false → exec (.enq g a b) s = .next (s.deliver s.actor (permission 5)))
  ∧ (∀ g a b s st h v s1 q c, Runs s st g → st.Settled → readSources st s [a, b] none = .ok ([h, v], s1) → isPort a = false → isPort b = false → q < 4 →
      h = stageHandle q → st.stage = q → s.crew? st.part st.launch st.crew = some c → (c.stageValues q).length < s.stageDepth st q →
      ∃ t, exec (.enq g a b) s = .next t ∧ t.me? = some (st.advance 1) ∧ t.mem = s.mem
        ∧ (t.crew? st.part st.launch st.crew).map (fun y => y.stageValues q) = some (c.stageValues q ++ [v]))
  ∧ (∀ g d s st s1 c v vs, RunsWaiting s st g → st.msgb = true → readSources st s [] (some d) = .ok ([], s1) → s.slotBind s.actor st = 1 →
      st.stage ≠ 0 → s.crew? st.part st.launch st.crew = some c → c.takers = [] → c.stageValues (st.stage - 1) = v :: vs →
      ∃ t, exec (.recvw g d) s = .next t ∧ t.me? = some ((st.setG d v).advance 1)
        ∧ (t.crew? st.part st.launch st.crew).map (fun y => y.stageValues (st.stage - 1)) = some vs)

/-- R208: MIGR stays where it is when its target is the strand's own cluster; otherwise the strand leaves its slot as a packet for the target cluster, with
its PC past the instruction; that ivrange and ivstat are in every packet is assumption 69. The strand has no open procedure and no tag outstanding, and its launch holds a crew there. -/
def Sys2Proof.Claims.Migration : Prop :=
  ∀ g a s st va s1 ord k l, Runs s st g → st.Settled → readSources st s [a] none = .ok ([va], s1) → isPort a = false →
    s.migrTarget st va = .ok ord → s.clusterAt st.part ord = some k → s.launch? st.part st.launch = some l →
    (∃ c ∈ l.crews, c.2.cluster = some k) → st.depth = 0 → (s.cell (cellOf s.actor)).outstanding (slotOf s.actor) = [] →
    (k = clusterOf s.actor → exec (.migr g a) s = .next (s.setMe (st.advance 1)))
    ∧ (k ≠ clusterOf s.actor → ∃ t, exec (.migr g a) s = .next t ∧ t.me? = none
        ∧ (t.cluster k).migrants = (s.cluster k).migrants ++ [(false, ({ st with pc := st.pc + 4 } : Strand).packet)] ∧ t.mem = s.mem)

/-- R205 to R208: queues of messages, and migration. -/
def Obligations.QueueInstructions : Prop := Sys2Proof.Claims.QueueInstructions ∧ Sys2Proof.Claims.Migration


/-- R209, R211, R212: SPAWN copies a record to a cell's local run queue, with the crew that holds a window there, and pD says whether it fitted; CDEC
counts a codelet record down; TASKGET takes a range from its launch's dispenser. -/
def Sys2Proof.Claims.TaskInstructions : Prop :=
  (∀ g d a b s st va t s1 cell spot bs, Runs s st g → st.Settled → readSources st s [a, b] none = .ok ([va, t], s1) → isPort a = false → isPort b = false →
      va.toNat % 128 = 0 → t.toNat < 2 ^ 16 → s.cellAt st.part t.toNat = some cell → (∀ line, s.isPoisoned line = false) →
      s.reach st .read va = .ok spot → spot.cls = 0 → spot.mt = 0 → spot.flat < peerBase → overWindow va 128 = false → bs = s.bytes spot.flat 128 →
      recLaunch bs = st.launch → recNmax bs = 0 →
      (∀ crew w1 w2, ((s.launch? st.part st.launch).bind fun l => l.windowOn cell) = some (crew, w1, w2) → (s.cell cell).runq.length < 32 →
        ∃ u, exec (.spawn g d a b) s = .next u ∧ u.me? = some ((st.setP d 0xFFFF).advance 1)
          ∧ (u.cell cell).runq = (s.cell cell).runq ++ [(s.serial, bs.set 117 (BitVec.ofNat 8 crew))] ∧ u.mem = s.mem)
      ∧ (((s.launch? st.part st.launch).bind fun l => l.windowOn cell) = none ∨ 32 ≤ (s.cell cell).runq.length →
          exec (.spawn g d a b) s = .next (s.setMe ((st.setP d 0).advance 1))))
  ∧ (∀ g a s st va s1 cell off, Runs s st g → st.Settled → readSources st s [a] none = .ok ([va], s1) → isPort a = false →
      s.codeletAt st.part va = some (cell, off) → va.toNat % 128 = 0 → s.isPoisoned (lineOf (lmemBase cell + off)) = false →
      exec (.cdec g a) s = .next (retire (s.decrement st.part cell off) 1))
  ∧ (∀ g d s st s1 l, Runs s st g → readSources st s [] (some d) = .ok ([], s1) → s.launch? st.part st.launch = some l →
      0 < l.nCrews * l.nCells * l.nSlots →
      (l.remaining = 0 → ∃ t, exec (.taskget g d) s = .next t ∧ t.me? = some ((st.setG d 0).advance 1))
      ∧ (0 < l.remaining → ∃ n t, 0 < n ∧ n ≤ l.remaining ∧ exec (.taskget g d) s = .next t
          ∧ t.me? = some ((st.setG d (BitVec.ofNat 64 (l.next % 2 ^ 32 + n * 2 ^ 32))).advance 1)
          ∧ t.launch? st.part st.launch = some { l with next := l.next + n, remaining := l.remaining - n }))

/-- R213, R214: the last strand of a crew to arrive at BAR opens it and goes on, an earlier one waits and its crew counts it, and one that was
saved while it waited does not arrive again; HINTSUCC marks the strand;
WAITPRED goes on when no predecessor of its launch runs. A codelet may execute none of the instructions at which a strand waits. -/
def Sys2Proof.Claims.BarrierAndDependence : Prop :=
  (∀ g s st c, RunsWaiting s st g → st.Settled → (∀ ph, (st.wait.map Wait.kind) ≠ some (.bar ph)) → st.arrived = none → s.crew? st.part st.launch st.crew = some c →
      (c.a + 1 = c.m → ∃ t, exec (.bar g) s = .next t ∧ t.me? = some (st.advance 1)
        ∧ t.crew? st.part st.launch st.crew = some { c with a := 0, phase := c.phase + 1 } ∧ t.mem = s.mem)
      ∧ (c.a + 1 < c.m → ∃ t, exec (.bar g) s = .next t ∧ t.crew? st.part st.launch st.crew = some { c with a := c.a + 1 }
        ∧ (t.me?.bind Strand.wait).map Wait.kind = some (.bar c.phase)))
  ∧ (∀ g s st c ph, RunsWaiting s st g → (∀ p, (st.wait.map Wait.kind) ≠ some (.bar p)) → st.arrived = some ph →
      s.crew? st.part st.launch st.crew = some c →
      (c.phase = ph → exec (.bar g) s = .next (s.setMe (st.await (.bar ph) s.clock)))
      ∧ (c.phase ≠ ph → exec (.bar g) s = .next (s.setMe (({ st with arrived := none } : Strand).advance 1))))
  ∧ (∀ g s st, Runs s st g → exec (.hintsucc g) s = .next (s.setMe (({ st with hinted := true } : Strand).advance 1)))
  ∧ (∀ g s st, RunsWaiting s st g → (∀ e ∈ s.predsOf st, s.predRuns st.part e = false) → exec (.waitpred g) s = .next (s.setMe (st.advance 1)))
  ∧ (∀ i g srcs d, WaitRow i g srcs d → ∀ s st, Runs s st g → st.cdl = true →
      (s.portTrap st srcs d = none → exec i s = .next (s.deliver s.actor (permission 18)))
      ∧ (∀ t, s.portTrap st srcs d = some t → exec i s = .next (s.deliver s.actor t)))
  ∧ (∀ g d a s st x s1, Runs s st g → st.cdl = true → readSources st s [a] (some d) = .ok ([x], s1) →
      exec (.waitrs g d a) s = .next (s.deliver s.actor (permission 18)))

/-- R209 to R214: records, ranges, barriers and predecessors. -/
def Obligations.TasksAndBarriers : Prop := Sys2Proof.Claims.TaskInstructions ∧ Sys2Proof.Claims.BarrierAndDependence


/-- R215: SEMW takes its count from a semaphore that holds it and that nobody waits for first, and else joins the waiters; SEMS adds to one,
stopping at 2³² − 1. -/
def Sys2Proof.Claims.Semaphores : Prop :=
  (∀ g a b s st x y s1, RunsWaiting s st g → readSources st s [a, b] none = .ok ([x, y], s1) →
      let k := clusterOf s.actor
      let i := x.toNat % 256
      let n := y.toNat % 2 ^ 32
      (n = 0 → exec (.semw g a b) s = .next (s.setMe (st.advance 1)))
      ∧ (n ≠ 0 → (s.cluster k).semWaiters = [] → n ≤ (s.cluster k).sem i → ∃ t, exec (.semw g a b) s = .next t ∧ t.me? = some (st.advance 1)
          ∧ (∀ j, (t.cluster k).sem j = if j = i then (s.cluster k).sem i - n else (s.cluster k).sem j) ∧ (t.cluster k).semWaiters = [])
      ∧ (n ≠ 0 → (s.cluster k).semWaiters = [] → (s.cluster k).sem i < n → ∃ t, exec (.semw g a b) s = .next t
          ∧ (t.cluster k).semWaiters = [⟨i, .slot s.actor, 0, n⟩] ∧ (t.me?.bind Strand.wait).map Wait.kind = some .sem
          ∧ ∀ j, (t.cluster k).sem j = (s.cluster k).sem j))
  ∧ (∀ g a b s st x y s1, Runs s st g → st.Settled → readSources st s [a, b] none = .ok ([x, y], s1) → isPort a = false → isPort b = false →
      let k := clusterOf s.actor
      ∃ t, exec (.sems g a b) s = .next t ∧ t.me? = some (st.advance 1)
        ∧ ∀ j, (t.cluster k).sem j = if j = x.toNat % 256 then min ((s.cluster k).sem j + y.toNat % 2 ^ 32) (2 ^ 32 - 1) else (s.cluster k).sem j)

/-- R211, R224, R225: TAGW goes on when the READY bits of its mask say so and every tag named belongs to the slot, which is looked at before the
rule that a codelet may not wait (R74); TAGF gives the lowest owned tag that has
become READY and forgets it, and −1 when none is outstanding. -/
def Sys2Proof.Claims.Tags : Prop :=
  (∀ (all : Bool) g a s st m s1, Runs s st g → readSources st s [a] none = .ok ([m], s1) →
      let c := s.cell (cellOf s.actor)
      let reg : Instr := if all then .tagwAll g a else .tagwAny g a
      let lit : Instr := if all then .tagwAllLiteral g m else .tagwAnyLiteral g m
      ((∀ t, t < 64 → m.getLsbD t = true → c.ownsTag (slotOf s.actor) t = true) → st.cdl = true →
        exec reg s = .next (s.deliver s.actor (permission 18)) ∧ exec lit s = .next (s.deliver s.actor (permission 18)))
      ∧ ((∀ t, t < 64 → m.getLsbD t = true → c.ownsTag (slotOf s.actor) t = true) → st.cdl = false → tagsReady all c m →
        exec reg s = .next (s.setMe (st.advance 1)) ∧ exec lit s = .next (s.setMe (st.advance 3)))
      ∧ ((∃ t, t < 64 ∧ m.getLsbD t = true ∧ c.ownsTag (slotOf s.actor) t = false) →
        exec reg s = .next (s.deliver s.actor (permission 1)) ∧ exec lit s = .next (s.deliver s.actor (permission 1))))
  ∧ (∀ g d s st s1, RunsWaiting s st g → readSources st s [] (some d) = .ok ([], s1) →
      let n := slotOf s.actor
      let c := s.cell (cellOf s.actor)
      let done (t : Nat) : Bool := c.ownsTag n t && c.tagReady.getLsbD t && NMap.get? c.tagSlot t == some n
      (∀ i, i < 64 → done i = true → (∀ j, j < i → done j = false) → ∃ t, exec (.tagf g d) s = .next t
          ∧ t.me? = some ((st.setG d (BitVec.ofNat 64 i)).advance 1) ∧ NMap.get? (t.cell (cellOf s.actor)).tagSlot i = none)
      ∧ ((∀ i, i < 64 → done i = false) → c.outstanding n = [] → exec (.tagf g d) s = .next (s.setMe ((st.setG d (BitVec.allOnes 64)).advance 1))))


/-- R215, R224, R225: semaphores and tags. -/
def Obligations.SemaphoresAndTags : Prop := Sys2Proof.Claims.Semaphores ∧ Sys2Proof.Claims.Tags


namespace Sys2Proof.Claims
open Sys2Proof.Machine

/-- The privileged instructions (R227). -/
inductive PrivRow : Instr → Guard → Prop
  | stab (g a b) : PrivRow (.stab g a b) g
  | tlbi (g a) : PrivRow (.tlbi g a) g
  | tlbiAll (g) : PrivRow (.tlbiAll g) g
  | preempt (g a) : PrivRow (.preempt g a) g
  | ctxsave (g a) : PrivRow (.ctxsave g a) g
  | ctxload (g a) : PrivRow (.ctxload g a) g

/-- A privileged strand whose guard allows. -/
structure RunsPriv (s : State) (st : Strand) (g : Guard) : Prop where
  me : s.me? = some st
  go : st.allows g = true
  priv : st.priv = true

/-- ovfptr as a write leaves it: an invalid size is 0, and the address keeps bits [55:3] (R27). -/
def region (v : BitVec 64) : BitVec 64 :=
  let n := (v.extractLsb' 58 6).toNat
  BitVec.ofNat 64 ((if n = 0 ∨ 12 ≤ n ∧ n ≤ 27 then n else 0) * 2 ^ 58) ||| ((v.extractLsb' 3 53).setWidth 64 <<< 3)

/-- What SYSW makes of a strand, by register number, for the registers that a write can change (R233, Tables 1-6 to 1-9). -/
def written (st : Strand) (num : Nat) (v : BitVec 64) : Strand :=
  match num with
  | 0x00 => { st with rm := v.extractLsb' 8 2, ftz := v.getLsbD 2 }
  | 0x01 => if st.hm then { st with epc := (v.extractLsb' 2 54).setWidth 64 <<< 2 } else st
  | 0x02 => if st.hm then { st with cause := v.extractLsb' 0 16 } else st
  | 0x03 => if st.hm then { st with faddr := v } else st
  | 0x05 => { st with eps := v.extractLsb' 48 16, cdrop := v.extractLsb' 40 8 }
  | 0x06 => { st with ivlate := v.extractLsb' 48 16, ivdrop := v.extractLsb' 32 16, ivmerge := v.extractLsb' 16 16 }
  | 0x07 => { st with tmax := v.extractLsb' 32 32, tmin := v.extractLsb' 0 32 }
  | 0x09 => { st with ovfptr := region v }
  | 0x11 => { st with fpflags := v.extractLsb' 0 6 }
  | _ => st

/-- The contents of a control register of the acting strand, by its number, field by field from the top (Tables 1-6 to 1-9). The fields that
a strand or a cell holds as numbers stand at their bits. -/
def ControlWord (s : State) (st : Strand) (num : Nat) (w : BitVec 64) : Prop :=
  let c := s.cell (cellOf s.actor)
  match num with
  | 0x00 => w = BitVec.ofNat 16 st.depth ++ 0#34 ++ BitVec.ofBool st.cdl ++ BitVec.ofBool st.msgb ++ 0#2 ++ st.rm ++ 0#4
      ++ BitVec.ofBool (st.nmax != 0) ++ BitVec.ofBool st.ftz ++ BitVec.ofBool st.priv ++ BitVec.ofBool st.hm
  | 0x01 => w = st.epc
  | 0x02 => w = 0#48 ++ st.cause
  | 0x03 => w = st.faddr
  | 0x04 => ∀ t, t < 64 → w.getLsbD t = (c.tagReady.getLsbD t && c.ownsTag (slotOf s.actor) t)
  | 0x05 => w = st.eps ++ st.cdrop ++ 0#4 ++ st.nmax ++ st.ncap ++ 0#28 ++ BitVec.ofNat 4 st.recs.length
  | 0x06 => w = st.ivlate ++ st.ivdrop ++ st.ivmerge ++ 0#15 ++ BitVec.ofBool st.opaq
  | 0x07 => w = st.tmax ++ st.tmin
  | 0x08 => w = BitVec.ofNat 64 st.winbase
  | 0x09 => w = st.ovfptr
  | 0x0A => w = BitVec.ofNat 64 (st.carveSize * 2 ^ 16 + st.carveBase)
  | 0x0B => w = BitVec.ofNat 64 st.allot
  | 0x0C => w = BitVec.ofNat 64 (st.tcount * 2 ^ 4 + st.tfirst)
  | 0x0D => w = BitVec.ofNat 64 (st.index * 2 ^ 8 + st.crew)
  | 0x0E => w = BitVec.ofNat 64 st.stage
  | 0x0F => w = BitVec.ofNat 64 st.launch
  | 0x10 => w = BitVec.ofNat 64 s.clock
  | 0x11 => w = 0#58 ++ st.fpflags
  | _ => False

end Sys2Proof.Claims

/-! ### System instructions and traps (11_system_and_trap_instructions, 16_traps_and_preemption) -/

/-- R230: TRAP raises BREAK with its code as the subcode once the guard allows, and a TRAP whose guard is false, as (!p0) TRAP always is, raises
nothing. BREAK's saved PC is past the TRAP. -/
def Obligations.TrapBreaks : Prop :=
  (∀ g code s st, Runs s st g → exec (.trap g code) s = .next (s.deliver s.actor ⟨0x0F, code.setWidth 8, 0, true⟩)
      ∧ (st.drained = true → st.hm = false → s.vectorOf st ≠ 0 → ∃ t, exec (.trap g code) s = .next t ∧ ∃ u, t.me? = some u
          ∧ u.cause = BitVec.ofNat 16 (code.toNat * 256 + 0x0F) ∧ u.epc = st.pc + 4 ∧ u.faddr = 0 ∧ u.hm = true
          ∧ u.pc = BitVec.ofNat 64 (s.vectorOf st)))
  ∧ (∀ g code s st, s.me? = some st → st.allows g = false → exec (.trap g code) s = .next (s.setMe (st.advance 1)))
  ∧ (∀ st : Strand, st.allows ⟨true, 0⟩ = false)

/-- R229: a trap of a strand whose accesses are performed saves the PC, the cause and the address, sets HM and goes to the launch's trap vector, with
every other register and all memory as they were; with HM set, or no vector, the strand leaves rotation with a crew error record of
Table 16-2, whose cause in a handler is HANDLER_NEST with the new cause as its subcode (R309); a trap that must wait for accesses is
kept. -/
def Obligations.TrapEntry : Prop :=
  ∀ (s : State) n (st : Strand) (t : Trap), s.strand? n = some st →
    (st.drained = true → st.hm = false → s.vectorOf st ≠ 0 → ∃ p, s.deliver n t = s.setStrand n { st with
        wait := none, held := none, trapPend := none, poison := p, hm := true, faddr := t.faddr, pc := BitVec.ofNat 64 (s.vectorOf st),
        epc := if t.brk then st.pc + 4 else st.pc, cause := BitVec.ofNat 16 (t.sub.toNat * 256 + t.cause.toNat) })
    ∧ (st.drained = true → st.hm = true ∨ s.vectorOf st = 0 → ∀ u, (s.deliver n t).strand? n = some u → u.halting = true ∧ u.hm = st.hm)
    ∧ (st.drained = true → st.hm = true ∨ s.vectorOf st = 0 → ∀ x, s.part? st.part = some x →
        let code := if st.hm then t.cause.toNat * 2 ^ 8 + 0x0D else t.sub.toNat * 2 ^ 8 + t.cause.toNat
        let epc := if t.brk then st.pc + 4 else st.pc
        let ids := st.launch * 2 ^ 48 + st.crew * 2 ^ 40 + st.index * 2 ^ 32 + st.stage * 2 ^ 24 + code
        ∃ y, (s.deliver n t).part? st.part = some y ∧ (s.deliver n t).mem = s.mem
          ∧ y.errs = x.errs ++ [leBytes epc.toNat 8 ++ leBytes ids 8 ++ leBytes t.faddr.toNat 8 ++ leBytes (s.pcn (cellOf n)) 8])
    ∧ (st.drained = false → s.deliver n t = s.setStrand n { st with trapPend := some t, wait := none, held := none })

/-- R75, R231: ERET in handler mode clears HM and goes to epc, bits [1:0] of a PC being zero, leaving cause and faddr and everything else; outside it raises PERMISSION. -/
def Obligations.ReturnFromTrap : Prop :=
  ∀ g s st, Runs s st g →
    (st.hm = true → exec (.eret g) s
      = .next (s.setMe { st with hm := false, pc := st.epc &&& 0xFFFFFFFFFFFFFFFC, wait := none, held := none }))
    ∧ (st.hm = false → exec (.eret g) s = .next (s.deliver s.actor (permission 8)))

/-- R24 to R27, R232, R233: SYSR writes gD with a control register, whose fields stand where Tables 1-6 to 1-9 put them; SYSW writes the
writable fields and no other, and where it gives the strand another overflow region it makes the spill locations there unpredictable
(R13); a number that names no register raises ILLEGAL_INSTR. That the cycle register reads the one clock that all cells share is
assumption 9. -/
def Obligations.ControlRegisters : Prop :=
  (∀ d num s st s1, s.me? = some st → readSources st s [] (some d) = .ok ([], s1) → num.toNat ≤ 0x11 → st.recs.length ≤ 8 →
      ∃ v, ControlWord s st num.toNat v ∧ exec (.sysr d num) s = .next (s.setMe ((st.setG d v).advance 1)))
  ∧ (∀ a num s st v s1, s.me? = some st → st.Settled → readSources st s [a] none = .ok ([v], s1) → isPort a = false → num.toNat ≤ 0x11 →
      let u := written st num.toNat v
      let t := s.setMe (u.advance 1)
      (num ≠ 9 ∨ u.carveSize = 0 ∧ u.log2sz = 0 → exec (.sysw a num) s = .next t)
      ∧ (num = 9 → ¬ (u.carveSize = 0 ∧ u.log2sz = 0) → exec (.sysw a num) s = .next (t.blurAll (t.spillPlaces s.actor u u.resident))))
  ∧ (∀ r num s st, s.me? = some st → 0x11 < num.toNat → exec (.sysr r num) s = .next (s.deliver s.actor (illegal 0))
      ∧ exec (.sysw r num) s = .next (s.deliver s.actor (illegal 0)))

/-- R227: a privileged instruction of a strand whose status.PRIV is 0 raises PERMISSION with the privilege subcode. -/
def Sys2Proof.Claims.PrivilegeTrap : Prop :=
  ∀ i g, PrivRow i g → ∀ s st, Runs s st g → st.priv = false → exec i s = .next (s.deliver s.actor (permission 7))

/-- R234, R235: STAB replaces a class table of the partition by the 256 entries at its address and TLBI drops the translations of a
page, or all of them, once no access in flight uses one: none in a window or a combining buffer, and none parked (assumption 48). -/
def Sys2Proof.Claims.TablesAndTranslations : Prop :=
  (∀ g a b s st c va s1 spot x, RunsPriv s st g → st.Settled → readSources st s [a, b] none = .ok ([c, va], s1) → isPort a = false → isPort b = false →
      3 ≤ c.toNat → c.toNat ≤ 63 → va.toNat % 64 = 0 → va.toNat % 2 ^ 16 + 512 ≤ 2 ^ 16 → (∀ line, s.isPoisoned line = false) →
      s.reach st .read va = .ok spot → spot.cls = 0 → spot.mt = 0 → spot.loc = 0 → s.part? st.part = some x → overWindow va 512 = false →
      let bs := s.bytes spot.flat 512
      ((∀ i, i < 256 → field bs (2 * i) 2 < 2 ^ 10) → ∃ t, exec (.stab g a b) s = .next t
        ∧ (∀ i st' tr, st' < 16 → tr < 16 → i = 16 * st' + tr → t.tumbler st.part c.toNat st' tr = BitVec.ofNat 16 (field bs (2 * i) 2))
        ∧ (t.me?.map Strand.pc) = some (st.pc + 4) ∧ t.mem = s.mem)
      ∧ ((∃ i, i < 256 ∧ 2 ^ 10 ≤ field bs (2 * i) 2) → exec (.stab g a b) s = .next (s.deliver s.actor (permission 10 va))))
  ∧ (∀ g a s st va s1, RunsPriv s st g → st.Settled → readSources st s [a] none = .ok ([va], s1) → isPort a = false → va.toNat < 2 ^ 56 →
      s.usesPages st.part (s.pagesOf st.part va.toNat) = false → s.parkedIn st.part (s.framesOf st.part va.toNat) = false →
      ∃ t, exec (.tlbi g a) s = .next t ∧ t.me? = some (st.advance 1)
        ∧ t.mem = s.mem ∧ (∀ k, tlbHit (t.cluster k).tlb st.part va.toNat = none)
        ∧ (∀ k e, e ∈ (s.cluster k).tlb → e.part ≠ st.part ∨ e.va ≠ va.toNat / levelSize e.level → e ∈ (t.cluster k).tlb))
  ∧ (∀ g s st, RunsPriv s st g → st.Settled → (∀ n ∈ s.slots, n.2.part = st.part →
        (∀ x ∈ n.2.window, x.translated = false) ∧ ∀ b, n.2.wcbuf = some b → b.translated = false) →
      s.parkedIn st.part [(0, deviceEnd)] = false → ∃ t, exec (.tlbiAll g) s = .next t ∧ t.me? = some (st.advance 1) ∧ ∀ k, ∀ e ∈ (t.cluster k).tlb, e.part ≠ st.part)

/-- R227, R234, R235: the privileged instructions trap outside PRIV, and in it they write the tables and drop translations. -/
def Obligations.PrivilegedOperations : Prop := Sys2Proof.Claims.PrivilegeTrap ∧ Sys2Proof.Claims.TablesAndTranslations


/-- R236, R237: PREEMPT of an empty slot only advances the PC, of a busy one requests its pre-emption and waits until the slot has been saved; CTXSAVE
writes a cached context to its area and frees its entry; CTXLOAD reads one back into a free entry, with the hint (R301) and the arrival at a
barrier (R213) that its launch has kept for it. -/
def Obligations.ContextMoves : Prop :=
  (∀ g a s st v s1 cell, RunsPriv s st g → (∀ n u, (st.wait.map Wait.kind) ≠ some (.preempt n u)) → readSources st s [a] none = .ok ([v], s1) →
      isPort a = false → v.toNat < 2 ^ 16 → s.cellAt st.part (v.toNat / 16) = some cell → cell * 16 + v.toNat % 16 ≠ s.actor →
      let n := cell * 16 + v.toNat % 16
      (s.strand? n = none → exec (.preempt g a) s = .next (s.setMe (st.advance 1)))
      ∧ (∀ x, s.strand? n = some x → x.preReq = none → ∃ t, exec (.preempt g a) s = .next t
          ∧ ((t.strand? n).bind Strand.preReq).map PreReq.reason = some 0 ∧ (t.me?.bind Strand.wait).map Wait.kind = some (.preempt n x.uid)))
  ∧ (∀ g a s st n u, RunsPriv s st g → (st.wait.map Wait.kind) = some (.preempt n u) → s.strand? n = none →
      exec (.preempt g a) s = .next (s.setMe (st.advance 1)))
  ∧ (∀ g a s st v s1 va e x ps, RunsPriv s st g → st.Settled → readSources st s [a] none = .ok ([v], s1) → isPort a = false →
      contextOperand v = .ok (va, e) → NMap.get? (s.cluster (clusterOf s.actor)).ctxs e = some x → s.areaSpots st va = (ps, .ok ()) →
      s.firstBar st.part 15 ps = none → s.poisonIn ps = none → (pagesType ps = 4 ∨ s.anyRelease st.part 15 ps = true → s.owes st.origin = false) →
      let k := clusterOf s.actor
      let s2 := (s.storePieces st.origin k ps x.image).takeAll st.part 15 ps
      let c := s2.cluster k
      exec (.ctxsave g a) s = .next (ordered (pagesType ps) (retire (((s2.setCluster k { c with ctxs := NMap.erase c.ctxs e }).sendAway x).unqueue x) 1)))
  ∧ (∀ g a s st v s1 va e ps, RunsPriv s st g → st.Settled → readSources st s [a] none = .ok ([v], s1) → isPort a = false →
      contextOperand v = .ok (va, e) → NMap.get? (s.cluster (clusterOf s.actor)).ctxs e = none → s.wideSpots st 0 va 131072 = (ps, .ok ()) →
      (∀ p ∈ ps, p.spot.cls = 0 ∧ p.spot.mt = 0 ∧ p.spot.flat + p.len ≤ peerBase) → (∀ line, s.isPoisoned line = false) →
      let bs := ps.flatMap (s.pieceBytes none)
      contextBad bs = false → ∀ l, s.launch? st.part (recLaunch bs) = some l →
      let x := Ctx.ofImage bs st.part (cellOf s.actor) s.serial
      let same (y : Away) : Bool := y.ctx.names x && y.ctx.image == bs
      ∃ t u, exec (.ctxload g a) s = .next t ∧ t.me? = some (st.advance 1)
        ∧ (NMap.get? (t.cluster (clusterOf s.actor)).ctxs e).map Ctx.strand = some u
        ∧ ((∀ y ∈ l.away, y.ctx.names x = false) → u = x.strand)
        ∧ (∀ y, l.away.find? same = some y → u = y.ctx.strand)
        ∧ (∀ y, l.away.find? same = none → l.away.find? (fun z => z.ctx.names x) = some y →
            u.hinted = y.ctx.strand.hinted ∧ u.poison = y.ctx.strand.poison ∧ u.halting = y.ctx.strand.halting))


namespace Sys2Proof.Claims
open Sys2Proof.Machine

/-- The bytes of a width. -/
def bytesOf (dw : Bool) : Nat := if dw then 8 else 4
/-- The words of a form with an optional displacement. -/
def wordsOf (x : Option (BitVec 64)) : Nat := if x.isSome then 5 else 3
/-- A sum of registers and a displacement (R131). -/
def total (vs : List (BitVec 64)) (disp : BitVec 64) : BitVec 64 := vs.foldl (· + ·) disp

/-- The forms of LD: guard, words, destination, address registers, displacement, space, bytes, qualifier (R131, R132). -/
inductive LoadRow : Instr → Guard → Nat → Reg → List Reg → BitVec 64 → BitVec 3 → Nat → BitVec 4 → Prop
  | ldD (d a i) : LoadRow (.ldD d a i) .always 1 d [a] (i.signExtend 64) 0 8 0
  | ldDLiteral (d a x) : LoadRow (.ldDLiteral d a x) .always 3 d [a] x 0 8 0
  | ldW (d a i) : LoadRow (.ldW d a i) .always 1 d [a] (i.signExtend 64) 0 4 0
  | ldWLiteral (d a x) : LoadRow (.ldWLiteral d a x) .always 3 d [a] x 0 4 0
  | ldIndexed (g dw d a b) : LoadRow (.ldIndexed g dw d a b) g 1 d [a, b] 0 0 (bytesOf dw) 0
  | ldExtended (g dw d a b sp q x) : LoadRow (.ldExtended g dw d a b sp q x) g (wordsOf x) d [a, b] (x.getD 0) sp (bytesOf dw) q

/-- The forms of ST. -/
inductive StoreRow : Instr → Guard → Nat → Reg → List Reg → BitVec 64 → BitVec 3 → Nat → BitVec 4 → Prop
  | stD (d a i) : StoreRow (.stD d a i) .always 1 d [a] (i.signExtend 64) 0 8 0
  | stDLiteral (d a x) : StoreRow (.stDLiteral d a x) .always 3 d [a] x 0 8 0
  | stW (d a i) : StoreRow (.stW d a i) .always 1 d [a] (i.signExtend 64) 0 4 0
  | stWLiteral (d a x) : StoreRow (.stWLiteral d a x) .always 3 d [a] x 0 4 0
  | stIndexed (g dw d a b) : StoreRow (.stIndexed g dw d a b) g 1 d [a, b] 0 0 (bytesOf dw) 0
  | stExtended (g dw d a b sp q x) : StoreRow (.stExtended g dw d a b sp q x) g (wordsOf x) d [a, b] (x.getD 0) sp (bytesOf dw) q

/-- new of R139 at 32 or 64 bits, from the datum and the register. -/
def swap (f : {n : Nat} → BitVec n → BitVec n → BitVec n) (dw : Bool) (old b : BitVec 64) : BitVec 64 :=
  if dw then f old b else (f (old.setWidth 32) (b.setWidth 32)).setWidth 64

/-- The functions of AMO with their two forms (R138, R139). -/
inductive AmoRow : (Guard → Bool → Reg → Reg → Reg → Instr) → (Guard → Bool → Reg → Reg → Reg → BitVec 3 → BitVec 4 → Instr) →
    ({n : Nat} → BitVec n → BitVec n → BitVec n) → Prop
  | add : AmoRow .amoAdd .amoAddExtended fun x y => x + y
  | and : AmoRow .amoAnd .amoAndExtended fun x y => x &&& y
  | or : AmoRow .amoOr .amoOrExtended fun x y => x ||| y
  | xor : AmoRow .amoXor .amoXorExtended fun x y => x ^^^ y
  | min : AmoRow .amoMin .amoMinExtended least
  | max : AmoRow .amoMax .amoMaxExtended greatest
  | swap : AmoRow .amoSwap .amoSwapExtended fun _ y => y

/-- The value a register receives from a datum: 4 bytes are sign-extended (R132, R139). -/
def seen (dw : Bool) (x : BitVec 64) : BitVec 64 := if dw then x else (x.setWidth 32).signExtend 64

/-- An access of the acting strand may be performed at once: it is quiet and the page is of class 0, its line is not poisoned and a link leads
there, and where the page is strongly ordered no store of the strand is on its way out. -/
structure Serves (s : State) (st : Strand) (spot : Spot) : Prop where
  quiet : st.Settled
  cls : spot.cls = 0
  sound : s.noStore spot.flat = false
  acked : spot.mt = 4 → s.owes st.origin = false

/-- The forms of SLD: guard, transition, destination, address registers, words, whether the datum has 4 bytes, qualifier and displacement
(R143). -/
inductive SldRow : Instr → Guard → BitVec 4 → Reg → Reg → Reg → Nat → Bool → BitVec 4 → BitVec 64 → Prop
  | sld (g t d a b) : SldRow (.sld g t d a b) g t d a b 1 false 0 0
  | sldExtended (g t d a b w q x) : SldRow (.sldExtended g t d a b w q x) g t d a b (wordsOf x) w q (x.getD 0)
/-- The forms of SST. -/
inductive SstRow : Instr → Guard → BitVec 4 → Reg → Reg → Reg → Nat → Bool → BitVec 4 → BitVec 64 → Prop
  | sst (g t d a b) : SstRow (.sst g t d a b) g t d a b 1 false 0 0
  | sstExtended (g t d a b w q x) : SstRow (.sstExtended g t d a b w q x) g t d a b (wordsOf x) w q (x.getD 0)

/-- The acting strand writes a scalar destination and retires. -/
def finish (s : State) (w : Nat) (d : Reg) (v : BitVec 64) : State :=
  match s.me? with
  | some st => writeDest (st.advance w) s d v
  | none => s

/-- The acting cluster. -/
def here (s : State) : Nat := clusterOf s.actor

/-- The state after an atomic or staged access of the acting strand that only reads its line at the home: the cluster's copy of a read-mostly
line goes (Table 6-2), and an access to peer memory has crossed a link (R356; how its flits count is assumption 13). -/
def readHome (s : State) (spot : Spot) (n : Nat) : State :=
  (if spot.mt = 1 then s.dropCopy (here s) (lineOf spot.flat) else s).flitsTo spot.flat n

end Sys2Proof.Claims

/-! ### Memory instructions (06_memory_atomic_staged_instructions) -/

/-- R124 to R128, R132, R133: a plain load of class 0 reads its bytes, little-endian, and a 4-byte datum is sign-extended. -/
def Obligations.LoadResult : Prop :=
  ∀ i g w d regs disp sp n q, LoadRow i g w d regs disp sp n q → ∀ s st vs s1 spot, Runs s st g → readSources st s regs (some d) = .ok (vs, s1) →
    s1.locate st .read sp (total vs disp) n = .ok spot → Serves s1 st spot → spot.mt ≠ 5 →
    qRelaxed q = false ∨ (d :: regs).any isPort = true ∨ spot.mt = 3 ∨ spot.mt = 4 →
    exec i s = .next (ordered spot.mt (writeDest (st.advance w) (s1.flitsRead none (here s) spot.mt spot.flat n) d
      (seen (decide (n ≠ 4)) (BitVec.ofNat 64 (leNat (s1.loadBytes none (here s) spot.mt spot.flat n))))))

/-- R124 to R128, R132, R133, R245: a plain store of class 0 writes the low bytes of its register at its address, and a store to
write-combining memory enters the buffer and writes no memory; one that is a release too (R249), where no store of the strand waits for its
acknowledgement. -/
def Obligations.StoreResult : Prop :=
  ∀ i g w d regs disp sp n q, StoreRow i g w d regs disp sp n q → ∀ s st vs s1 spot, Runs s st g →
    readSources st s (regs ++ [d]) none = .ok (vs, s1) → vs.length = regs.length + 1 →
    let va := total (vs.take regs.length) disp
    let bs := leBytes (nth vs regs.length).toNat n
    s1.locate st .write sp va n = .ok spot → Serves s1 st spot → spot.mt ≠ 5 → (sp = 5 → va.toNat < 0xFF000) → (qRelease q = true → s.owes st.origin = false) →
    qRelaxed q = false ∨ regs.any isPort = true ∨ spot.mt = 3 ∨ spot.mt = 4 →
    (spot.mt ≠ 2 → exec i s = .next (ordered spot.mt (retire (s1.storeFrom st.origin (here s) spot.mt spot.flat bs) w)))
    ∧ (spot.mt = 2 → ∃ t, exec i s = .next t ∧ t.mem = s1.mem ∧ t.unk = s1.unk
        ∧ ((t.me?.bind Strand.wcbuf).map fun b => (b.line, (List.range n).map fun k => NMap.get? b.bytes (spot.flat % 64 + k)))
            = some (spot.flat / 64, bs.map some))

/-- R127 to R129, R243, R246: a relaxed load or store of a plain page of class 0 that names no port retires at once into the access window, and
its performing, when the order of Table 12-2 allows it, gives the register its value, or memory the bytes. -/
def Obligations.RelaxedAccess : Prop :=
  (∀ i g w d regs disp sp n q, LoadRow i g w d regs disp sp n q → ∀ s st vs spot, Runs s st g → st.Settled → qRelaxed q = true →
      (d :: regs).any isPort = false → readSources st s regs (some d) = .ok (vs, s) → s.locate st .read sp (total vs disp) n = .ok spot →
      spot.cls = 0 → (spot.mt = 0 ∨ spot.mt = 1 ∨ spot.mt = 2) →
      exec i s = .next (({ s with serial := s.serial + 1 } : State).setMe ({ st with window := [
        { id := s.serial, store := false, width := n, whole := true, parts := [(spot.flat, 0, [])], va := total vs disp, acquire := qAcquire q,
          release := false, memType := spot.mt, dest := .reg d (n == 4), got := [] }] }.advance w)))
  ∧ (∀ i g w d regs disp sp n q, StoreRow i g w d regs disp sp n q → ∀ s st vs spot, Runs s st g → st.Settled → qRelaxed q = true →
      regs.any isPort = false → isPort d = false → readSources st s (regs ++ [d]) none = .ok (vs, s) →
      let va := total (vs.take regs.length) disp
      s.locate st .write sp va n = .ok spot → spot.cls = 0 → (spot.mt = 0 ∨ spot.mt = 1) → (sp = 5 → va.toNat < 0xFF000) →
      exec i s = .next (({ s with serial := s.serial + 1 } : State).setMe ({ st with window := [
        { id := s.serial, store := true, width := n, whole := true, parts := [(spot.flat, 0, leBytes (nth vs regs.length).toNat n)],
          va := va, acquire := false, release := qRelease q, memType := spot.mt, dest := .none, got := [] }] }.advance w)))
  ∧ (∀ s n i (st : Strand) (x : Access) a d sext, s.strand? n = some st → st.window[i]? = some x → x.store = false → x.whole = true →
      x.parts = [(a, 0, [])] → x.got = [] → x.dest = .reg d sext → mayPerform st.window i x = true → x.release = false →
      s.loadPoison st.wcbuf (clusterOf n) x.memType a x.width = false → st.inLanes = false →
      exec (.loadPerformed (.slot n) i) s = .next ((s.flitsRead st.wcbuf (clusterOf n) x.memType a x.width).setStrand n ({ st with window := st.window.eraseIdx i }.setG d
        (loadValue (s.loadBytes st.wcbuf (clusterOf n) x.memType a x.width) sext))))
  ∧ (∀ s n i (st : Strand) (x : Access) a bs, s.strand? n = some st → st.window[i]? = some x → x.store = true → x.whole = true →
      x.parts = [(a, 0, bs)] → mayPerform st.window i x = true → (x.release = true → s.owes st.origin = false) → s.noStore a = false → st.inLanes = false →
      ∃ t, exec (.storePerformed (.slot n) i) s = .next t ∧ t.mem = (s.storeFrom st.origin (clusterOf n) x.memType a bs).mem
        ∧ (t.strand? n).map Strand.window = some (st.window.eraseIdx i))

/-- R125: a misaligned address of a load, a store, an AMO, a CAS, an LR, an SC or a staged access raises ALIGN with the address, before the
access is looked up and with nothing done. -/
def Obligations.Misaligned : Prop :=
  (∀ i g w d regs disp sp n q, LoadRow i g w d regs disp sp n q → ∀ s st vs s1, Runs s st g → readSources st s regs (some d) = .ok (vs, s1) →
      (total vs disp).toNat % n ≠ 0 → exec i s = .next (s.deliver s.actor (alignTrap 0 (total vs disp))))
  ∧ (∀ i g w d regs disp sp n q, StoreRow i g w d regs disp sp n q → ∀ s st vs s1, Runs s st g → readSources st s (regs ++ [d]) none = .ok (vs, s1) →
      (total (vs.take regs.length) disp).toNat % n ≠ 0 →
      exec i s = .next (s.deliver s.actor (alignTrap 0 (total (vs.take regs.length) disp))))
  ∧ (∀ r e f, AmoRow r e f → ∀ g dw d a b sp q s st x y s1, Runs s st g → readSources st s [a, b] (some d) = .ok ([x, y], s1) →
      x.toNat % bytesOf dw ≠ 0 → exec (r g dw d a b) s = .next (s.deliver s.actor (alignTrap 0 x))
        ∧ exec (e g dw d a b sp q) s = .next (s.deliver s.actor (alignTrap 0 x)))
  ∧ (∀ g dw d a b sp q s st x y z s1, Runs s st g → readSources st s [a, b, d] none = .ok ([x, y, z], s1) → x.toNat % bytesOf dw ≠ 0 →
      exec (.cas g dw d a b) s = .next (s.deliver s.actor (alignTrap 0 x))
      ∧ exec (.casExtended g dw d a b sp q) s = .next (s.deliver s.actor (alignTrap 0 x)))
  ∧ (∀ g dw d a q s st x s1, Runs s st g → readSources st s [a] (some d) = .ok ([x], s1) → x.toNat % bytesOf dw ≠ 0 →
      exec (.lr g dw d a) s = .next (s.deliver s.actor (alignTrap 0 x)) ∧ exec (.lrExtended g dw d a q) s = .next (s.deliver s.actor (alignTrap 0 x)))
  ∧ (∀ g dw d a b q s st x y s1, Runs s st g → readSources st s [a, b] (some d) = .ok ([x, y], s1) → x.toNat % bytesOf dw ≠ 0 →
      exec (.sc g dw d a b) s = .next (s.deliver s.actor (alignTrap 0 x)) ∧ exec (.scExtended g dw d a b q) s = .next (s.deliver s.actor (alignTrap 0 x)))
  ∧ (∀ i g tr d a b k w q disp, SldRow i g tr d a b k w q disp → ∀ s st x y s1, Runs s st g → readSources st s [a, b] (some d) = .ok ([x, y], s1) →
      (x + y + disp).toNat % bytesOf (!w) ≠ 0 → exec i s = .next (s.deliver s.actor (alignTrap 0 (x + y + disp))))
  ∧ (∀ i g tr d a b k w q disp, SstRow i g tr d a b k w q disp → ∀ s st x y z s1, Runs s st g → readSources st s [a, b, d] none = .ok ([x, y, z], s1) →
      (x + y + disp).toNat % bytesOf (!w) ≠ 0 → exec i s = .next (s.deliver s.actor (alignTrap 0 (x + y + disp))))
  ∧ (∀ g tr d a b aop w q c disp s st x y z s1, Runs s st g → readSources st s [a, b, c] (some d) = .ok ([x, y, z], s1) →
      (x + y + disp.getD 0).toNat % bytesOf (!w) ≠ 0 →
      exec (.samo g tr d a b aop w q c disp) s = .next (s.deliver s.actor (alignTrap 0 (x + y + disp.getD 0))))

/-- R138, R139, R248: AMO stores its function of the datum and the register and returns the old datum; CAS stores when the datum equals the
register it names and returns the old datum either way; a release does so once no store of the strand waits for its acknowledgement (R249). -/
def Obligations.AtomicUpdate : Prop :=
  (∀ r e f, AmoRow r e f → ∀ g dw d a b sp q s st x y s1 spot, Runs s st g → readSources st s [a, b] (some d) = .ok ([x, y], s1) →
      s1.locate st .rmw sp x (bytesOf dw) = .ok spot → Serves s1 st spot → spot.mt ≠ 5 → (sp = 5 → x.toNat < 0xFF000) →
      (qRelease q = true → s.owes st.origin = false) →
      let old := datum s1 spot.flat (bytesOf dw)
      let t := s1.storeFrom st.origin (here s) spot.mt spot.flat (leBytes (swap f dw old y).toNat (bytesOf dw))
      exec (e g dw d a b sp q) s = .next (ordered spot.mt (finish t 3 d (seen dw old)))
        ∧ (sp = 0 → exec (r g dw d a b) s = .next (ordered spot.mt (finish t 1 d (seen dw old)))))
  ∧ (∀ g dw d a b sp q s st x y z s1 spot, Runs s st g → readSources st s [a, b, d] none = .ok ([x, y, z], s1) →
      s1.locate st .rmw sp x (bytesOf dw) = .ok spot → Serves s1 st spot → spot.mt ≠ 5 → (sp = 5 → x.toNat < 0xFF000) →
      (qRelease q = true → s.owes st.origin = false) →
      let old := datum s1 spot.flat (bytesOf dw)
      (seen dw old = seen dw z →
        let t := s1.storeFrom st.origin (here s) spot.mt spot.flat (leBytes y.toNat (bytesOf dw))
        exec (.casExtended g dw d a b sp q) s = .next (ordered spot.mt (finish t 3 d (seen dw old)))
          ∧ (sp = 0 → exec (.cas g dw d a b) s = .next (ordered spot.mt (finish t 1 d (seen dw old)))))
      ∧ (seen dw old ≠ seen dw z →
        let t := readHome s1 spot (bytesOf dw)
        exec (.casExtended g dw d a b sp q) s = .next (ordered spot.mt (finish t 3 d (seen dw old)))
          ∧ (sp = 0 → exec (.cas g dw d a b) s = .next (ordered spot.mt (finish t 1 d (seen dw old))))))

/-- R133, R135 to R137: LR returns the datum and takes the strand's one reservation; SC stores and answers 0 while that reservation of the same
address, width and line stands (that a page mapped elsewhere since the LR makes it fail is assumption 32), and else answers 1 and stores
nothing; either way the strand holds none afterwards; WAITRS says whether it was lost, at once or when its time is up, and drops the cluster's
copy of a reserved line that is read-mostly (Table 6-2). An SC that is a release stores once no store of the strand waits for its
acknowledgement (R249). -/
def Obligations.Reservations : Prop :=
  (∀ g dw d a q s st x s1 spot, Runs s st g → readSources st s [a] (some d) = .ok ([x], s1) → s1.locate st .rmw 0 x (bytesOf dw) = .ok spot →
      Serves s1 st spot → spot.mt ∉ [3, 5] → isPort d = false →
      let v := seen dw (datum s1 spot.flat (bytesOf dw))
      let r : Reservation := ⟨st.part, st.launch, st.crew, st.index, lineOf spot.flat, x.toNat, bytesOf dw, 0, false, spot.mt⟩
      let t := { readHome s1 spot (bytesOf dw) with resv := (s1.resv.filter fun (r : Reservation) => !r.ownedBy st) ++ [r] }
      exec (.lr g dw d a) s = .next (ordered spot.mt (t.setMe ((st.setG d v).advance 1)))
        ∧ exec (.lrExtended g dw d a q) s = .next (ordered spot.mt (t.setMe ((st.setG d v).advance 3))))
  ∧ (∀ g dw d a b q s st x y s1 spot, Runs s st g → readSources st s [a, b] (some d) = .ok ([x, y], s1) →
      s1.locate st .rmw 0 x (bytesOf dw) = .ok spot → Serves s1 st spot → spot.mt ∉ [3, 5] → isPort d = false → (qRelease q = true → s.owes st.origin = false) →
      ((∃ r, s1.reservation st = some r ∧ r.isLost = false ∧ r.addr = x.toNat ∧ r.width = bytesOf dw ∧ r.line = lineOf spot.flat) →
        ∃ t, exec (.sc g dw d a b) s = .next t ∧ (∃ t', exec (.scExtended g dw d a b q) s = .next t' ∧ t'.mem = t.mem ∧ t'.resv = t.resv)
          ∧ t.mem = (s1.storeFrom st.origin (here s) spot.mt spot.flat (leBytes y.toNat (bytesOf dw))).mem ∧ t.reservation st = none
          ∧ t.me?.map (fun u => u.g d) = some 0 ∧ t.me?.map Strand.pc = some (st.pc + 4))
      ∧ ((∀ r, s1.reservation st = some r → r.isLost = true ∨ r.addr ≠ x.toNat ∨ r.width ≠ bytesOf dw ∨ r.line ≠ lineOf spot.flat) →
        let u := { s1 with resv := s1.resv.filter fun (r : Reservation) => !r.ownedBy st }
        let t := if spot.mt = 1 then u.dropCopy (here s) (lineOf spot.flat) else u
        exec (.sc g dw d a b) s = .next (ordered spot.mt (t.setMe ((st.setG d 1).advance 1)))
          ∧ exec (.scExtended g dw d a b q) s = .next (ordered spot.mt (t.setMe ((st.setG d 1).advance 3)))))
  ∧ (∀ g d a s st x s1, RunsWaiting s st g → st.Settled → readSources st s [a] (some d) = .ok ([x], s1) →
      let n := x.toNat % 2 ^ 32
      (s.reservation st = none → exec (.waitrs g d a) s = .next (writeDest (st.advance 1) s1 d 2))
      ∧ (∀ r, s.reservation st = some r → (r.memType = 4 → s.owes st.origin = false) →
          let at_ (t : State) : State := if r.memType = 1 then t.dropCopy (here s) r.line else t
          (r.isLost = true → exec (.waitrs g d a) s = .next (ordered r.memType (writeDest (st.advance 1) (at_ s1) d 0)))
          ∧ (r.isLost = false → (∀ t, st.wait.map Wait.kind ≠ some (.waitrs t)) →
              (n = 0 → exec (.waitrs g d a) s = .next (ordered r.memType (writeDest (st.advance 1) (at_ s1) d 1)))
              ∧ (n ≠ 0 → exec (.waitrs g d a) s = .next ((at_ s).setMe (st.await (.waitrs (s.clock + n)) s.clock))))
          ∧ (∀ t since, r.isLost = false → st.wait = some ⟨.waitrs t, since⟩ → since + n ≤ s.clock →
              exec (.waitrs g d a) s = .next (ordered r.memType (writeDest (st.advance 1) (at_ s1) d 1)))))

/-- R140 to R142, R241, R244: a FENCE whose accesses are performed retires, at system scope once the strand's stores are acknowledged; CINV and
CINV.all retire, and leave the cluster without read-mostly copies of the lines they name: CINV of every line that a read-mostly page of
its range holds there, or, from 2³⁰ bytes on and for CINV.all, of any. -/
def Obligations.FencesAndCopies : Prop :=
  (∀ g sc (m : BitVec 5) s st, Runs s st g → st.Settled →
      let out := sc = 4 ∧ (m.getLsbD 0 = true ∨ m.getLsbD 1 = true) ∧ s.owes st.origin = true
      (¬ out → exec (.fence g sc m) s = .next (s.setMe (st.advance 1)))
      ∧ (out → exec (.fence g sc m) s = .next (s.setMe (st.await .acks s.clock))))
  ∧ (∀ g sc (m : BitVec 5) s st, Runs s st g → (∃ x ∈ st.window, (if x.store then m.getLsbD 1 else m.getLsbD 0) = true) →
      ∃ t, exec (.fence g sc m) s = .next t ∧ t.me?.map Strand.pc = some st.pc ∧ t.me?.map Strand.window = some st.window)
  ∧ (∀ g s st, Runs s st g → st.Settled → ∃ t, exec (.cinvAll g) s = .next t ∧ t.me? = some (st.advance 1) ∧ (t.cluster (here s)).copies = []
      ∧ t.mem = s.mem)
  ∧ (∀ g a b s st x y s1, Runs s st g → st.Settled → readSources st s [a, b] none = .ok ([x, y], s1) → isPort a = false → isPort b = false →
      ∃ t, exec (.cinv g a b) s = .next t ∧ t.me? = some (st.advance 1) ∧ t.mem = s.mem
        ∧ (∀ c ∈ (t.cluster (here s)).copies, c ∈ (s.cluster (here s)).copies) ∧ (2 ^ 30 ≤ y.toNat → (t.cluster (here s)).copies = [])
        ∧ (∀ va level e k, y.toNat < 2 ^ 30 → x.toNat ≤ va → va < 2 ^ 56 → va / 2 ^ 48 ≠ 0xFF → (va = x.toNat ∨ va % 2 ^ 16 = 0) →
            s.lookup st.part (here s) false va = .leaf level e → leafType e = 1 → va % 2 ^ 16 + k < 2 ^ 16 → va + k < x.toNat + y.toNat →
            NMap.get? (t.cluster (here s)).copies (lineOf (s.leafFlat st.part level e va + k)) = none))

/-- R143, R144, R254 to R258, R262, Table 6-3: what SLD, SST and SAMO do by the entry of their line's class for its state and their transition. An entry
that allows moves the line to NEXT after the access it names, one that parks puts the access on the line's FIFO, one that faults, and
a transition other than 0 on class 0, trap. A release waits for the acknowledgements of the strand's stores (R249), and of a poisoned line
the poison would be met first (assumption 35). -/
def Obligations.StagedAccess : Prop :=
  ∀ i1 i2 g tr d a b k1 k2 w q x aop c, SldRow i1 g tr d a b k1 w q (x.getD 0) → SstRow i2 g tr d a b k2 w q (x.getD 0) →
    ∀ s st spot, Runs s st g → st.Settled → d.toNat < 28 → a.toNat < 28 → b.toNat < 28 → c.toNat < 28 →
    let n := bytesOf !w
    let va := st.g a + st.g b + x.getD 0
    s.locate st .rmw 0 va n = .ok spot → spot.mt ∉ [3, 5] → s.noStore spot.flat = false →
    let line := lineOf spot.flat
    let e := s.entryAt st.part spot.cls line tr.toNat
    (spot.mt = 4 ∨ qRelease q = true ∨ (verdictOf e = .allow ∧ rlOf e = true) → s.owes st.origin = false) →
    let old := datum s spot.flat n
    let sld := exec i1 s
    let sst := exec i2 s
    let samo := exec (.samo g tr d a b aop w q c x) s
    let k3 := wordsOf x
    let put (v : BitVec 64) := s.storeFrom st.origin (here s) spot.mt spot.flat (leBytes v.toNat n)
    let seen_ := seen (!w) old
    let moved (t : State) := t.moveLine line (nextOf e)
    let read := moved (readHome s spot n)
    (spot.cls = 0 → tr = 0 → sld = .next (ordered spot.mt (finish (readHome s spot n) k1 d seen_))
        ∧ sst = .next (ordered spot.mt (retire (put (st.g d)) k2))
        ∧ samo = .next (ordered spot.mt (finish (put ((amoOf aop).at n old (st.g c))) k3 d seen_)))
    ∧ (spot.cls = 0 → tr ≠ 0 → sld = .next (s.deliver s.actor (stagedFault 2 va)) ∧ sst = .next (s.deliver s.actor (stagedFault 2 va))
        ∧ samo = .next (s.deliver s.actor (stagedFault 2 va)))
    ∧ (spot.cls ≠ 0 → verdictOf e = .allow →
        (accessOf e = 0 → sld = .next (ordered spot.mt (finish read k1 d 0)) ∧ sst = .next (ordered spot.mt (retire read k2))
            ∧ samo = .next (ordered spot.mt (finish read k3 d 0)))
        ∧ (accessOf e = 1 → sld = .next (ordered spot.mt (finish read k1 d seen_)) ∧ sst = .next (ordered spot.mt (retire read k2))
            ∧ samo = .next (ordered spot.mt (finish read k3 d seen_)))
        ∧ (2 ≤ accessOf e → sld = .next (s.deliver s.actor (stagedFault 1 va)))
        ∧ (accessOf e = 2 → sst = .next (ordered spot.mt (retire (moved (put (st.g d))) k2))
            ∧ samo = .next (ordered spot.mt (finish (moved (put (st.g c))) k3 d seen_)))
        ∧ (accessOf e = 3 → sst = .next (s.deliver s.actor (stagedFault 1 va))
            ∧ samo = .next (ordered spot.mt (finish (moved (put ((amoOf aop).at n old (st.g c)))) k3 d seen_))))
    ∧ (spot.cls ≠ 0 → verdictOf e = .park → st.cdl = false → s.parkCount (here s) < 256 → ∃ t, sld = .next t ∧ sst = .next t ∧ samo = .next t
        ∧ t.parked = s.parked ++ [⟨line, tr.toNat, .slot s.actor, st.part, spot.cls⟩] ∧ t.mem = s.mem ∧ t.me?.map Strand.pc = some st.pc)
    ∧ (spot.cls ≠ 0 → verdictOf e = .fault → sld = .next (s.deliver s.actor (stagedFault 0 va)) ∧ sst = .next (s.deliver s.actor (stagedFault 0 va))
        ∧ samo = .next (s.deliver s.actor (stagedFault 0 va)))


namespace Sys2Proof.Claims
open Sys2Proof.Machine

/-- The instructions that a guard allows or not as a whole (R73). -/
inductive GuardRow : Instr → Guard → Prop
  | yield (g) : GuardRow (.yield g) g
  | halt (g) : GuardRow (.halt g) g
  | movhFromShared (g d a) : GuardRow (.movhFromShared g d a) g
  | movhToShared (g d a) : GuardRow (.movhToShared g d a) g
  | rng (g d a b) : GuardRow (.rng g d a b) g
  | jmpx (g a) : GuardRow (.jmpx g a) g
  | ret (g) : GuardRow (.ret g) g
  | add (g d a b) : GuardRow (.add g d a b) g
  | addLiteral (g d a lit) : GuardRow (.addLiteral g d a lit) g
  | sub (g d a b) : GuardRow (.sub g d a b) g
  | subLiteral (g d a lit) : GuardRow (.subLiteral g d a lit) g
  | mul (g d a b) : GuardRow (.mul g d a b) g
  | mulLiteral (g d a lit) : GuardRow (.mulLiteral g d a lit) g
  | mulh (g d a b) : GuardRow (.mulh g d a b) g
  | mulhLiteral (g d a lit) : GuardRow (.mulhLiteral g d a lit) g
  | div (g d a b) : GuardRow (.div g d a b) g
  | divLiteral (g d a lit) : GuardRow (.divLiteral g d a lit) g
  | rem (g d a b) : GuardRow (.rem g d a b) g
  | remLiteral (g d a lit) : GuardRow (.remLiteral g d a lit) g
  | and (g d a b) : GuardRow (.and g d a b) g
  | andLiteral (g d a lit) : GuardRow (.andLiteral g d a lit) g
  | or (g d a b) : GuardRow (.or g d a b) g
  | orLiteral (g d a lit) : GuardRow (.orLiteral g d a lit) g
  | xor (g d a b) : GuardRow (.xor g d a b) g
  | xorLiteral (g d a lit) : GuardRow (.xorLiteral g d a lit) g
  | andn (g d a b) : GuardRow (.andn g d a b) g
  | andnLiteral (g d a lit) : GuardRow (.andnLiteral g d a lit) g
  | min (g d a b) : GuardRow (.min g d a b) g
  | minLiteral (g d a lit) : GuardRow (.minLiteral g d a lit) g
  | max (g d a b) : GuardRow (.max g d a b) g
  | maxLiteral (g d a lit) : GuardRow (.maxLiteral g d a lit) g
  | addW (g d a b) : GuardRow (.addW g d a b) g
  | addWLiteral (g d a lit) : GuardRow (.addWLiteral g d a lit) g
  | subW (g d a b) : GuardRow (.subW g d a b) g
  | subWLiteral (g d a lit) : GuardRow (.subWLiteral g d a lit) g
  | mulW (g d a b) : GuardRow (.mulW g d a b) g
  | mulWLiteral (g d a lit) : GuardRow (.mulWLiteral g d a lit) g
  | mulhW (g d a b) : GuardRow (.mulhW g d a b) g
  | mulhWLiteral (g d a lit) : GuardRow (.mulhWLiteral g d a lit) g
  | divW (g d a b) : GuardRow (.divW g d a b) g
  | divWLiteral (g d a lit) : GuardRow (.divWLiteral g d a lit) g
  | remW (g d a b) : GuardRow (.remW g d a b) g
  | remWLiteral (g d a lit) : GuardRow (.remWLiteral g d a lit) g
  | andW (g d a b) : GuardRow (.andW g d a b) g
  | andWLiteral (g d a lit) : GuardRow (.andWLiteral g d a lit) g
  | orW (g d a b) : GuardRow (.orW g d a b) g
  | orWLiteral (g d a lit) : GuardRow (.orWLiteral g d a lit) g
  | xorW (g d a b) : GuardRow (.xorW g d a b) g
  | xorWLiteral (g d a lit) : GuardRow (.xorWLiteral g d a lit) g
  | andnW (g d a b) : GuardRow (.andnW g d a b) g
  | andnWLiteral (g d a lit) : GuardRow (.andnWLiteral g d a lit) g
  | minW (g d a b) : GuardRow (.minW g d a b) g
  | minWLiteral (g d a lit) : GuardRow (.minWLiteral g d a lit) g
  | maxW (g d a b) : GuardRow (.maxW g d a b) g
  | maxWLiteral (g d a lit) : GuardRow (.maxWLiteral g d a lit) g
  | shl (g w d a b) : GuardRow (.shl g w d a b) g
  | shlLiteral (g w d a lit) : GuardRow (.shlLiteral g w d a lit) g
  | shr (g w d a b) : GuardRow (.shr g w d a b) g
  | shrLiteral (g w d a lit) : GuardRow (.shrLiteral g w d a lit) g
  | sar (g w d a b) : GuardRow (.sar g w d a b) g
  | sarLiteral (g w d a lit) : GuardRow (.sarLiteral g w d a lit) g
  | rol (g w d a b) : GuardRow (.rol g w d a b) g
  | rolLiteral (g w d a lit) : GuardRow (.rolLiteral g w d a lit) g
  | clz (g w d a) : GuardRow (.clz g w d a) g
  | ctz (g w d a) : GuardRow (.ctz g w d a) g
  | popc (g w d a) : GuardRow (.popc g w d a) g
  | brev (g w d a) : GuardRow (.brev g w d a) g
  | lea (g sc d a b) : GuardRow (.lea g sc d a b) g
  | leaLiteral (g sc d a b lit) : GuardRow (.leaLiteral g sc d a b lit) g
  | cmpEq (g w d a b) : GuardRow (.cmpEq g w d a b) g
  | cmpEqLiteral (g w d a lit) : GuardRow (.cmpEqLiteral g w d a lit) g
  | cmpNe (g w d a b) : GuardRow (.cmpNe g w d a b) g
  | cmpNeLiteral (g w d a lit) : GuardRow (.cmpNeLiteral g w d a lit) g
  | cmpLt (g w d a b) : GuardRow (.cmpLt g w d a b) g
  | cmpLtLiteral (g w d a lit) : GuardRow (.cmpLtLiteral g w d a lit) g
  | cmpGe (g w d a b) : GuardRow (.cmpGe g w d a b) g
  | cmpGeLiteral (g w d a lit) : GuardRow (.cmpGeLiteral g w d a lit) g
  | cmpLtu (g w d a b) : GuardRow (.cmpLtu g w d a b) g
  | cmpLtuLiteral (g w d a lit) : GuardRow (.cmpLtuLiteral g w d a lit) g
  | cmpGeu (g w d a b) : GuardRow (.cmpGeu g w d a b) g
  | cmpGeuLiteral (g w d a lit) : GuardRow (.cmpGeuLiteral g w d a lit) g
  | plogAnd (g d a b) : GuardRow (.plogAnd g d a b) g
  | plogOr (g d a b) : GuardRow (.plogOr g d a b) g
  | plogXor (g d a b) : GuardRow (.plogXor g d a b) g
  | plogAndn (g d a b) : GuardRow (.plogAndn g d a b) g
  | plogOrn (g d a b) : GuardRow (.plogOrn g d a b) g
  | plogNand (g d a b) : GuardRow (.plogNand g d a b) g
  | plogNor (g d a b) : GuardRow (.plogNor g d a b) g
  | plogXnor (g d a b) : GuardRow (.plogXnor g d a b) g
  | sel (g inv sel d a b) : GuardRow (.sel g inv sel d a b) g
  | br (g off) : GuardRow (.br g off) g
  | call (g k off) : GuardRow (.call g k off) g
  | callLiteral (g k lit) : GuardRow (.callLiteral g k lit) g
  | jmp (g lit) : GuardRow (.jmp g lit) g
  | callx (g k a) : GuardRow (.callx g k a) g
  | ldIndexed (g dw d a b) : GuardRow (.ldIndexed g dw d a b) g
  | ldExtended (g dw d a b sp q disp) : GuardRow (.ldExtended g dw d a b sp q disp) g
  | stIndexed (g dw d a b) : GuardRow (.stIndexed g dw d a b) g
  | stExtended (g dw d a b sp q disp) : GuardRow (.stExtended g dw d a b sp q disp) g
  | lr (g dw d a) : GuardRow (.lr g dw d a) g
  | lrExtended (g dw d a q) : GuardRow (.lrExtended g dw d a q) g
  | sc (g dw d a b) : GuardRow (.sc g dw d a b) g
  | scExtended (g dw d a b q) : GuardRow (.scExtended g dw d a b q) g
  | amoAdd (g dw d a b) : GuardRow (.amoAdd g dw d a b) g
  | amoAddExtended (g dw d a b sp q) : GuardRow (.amoAddExtended g dw d a b sp q) g
  | amoAnd (g dw d a b) : GuardRow (.amoAnd g dw d a b) g
  | amoAndExtended (g dw d a b sp q) : GuardRow (.amoAndExtended g dw d a b sp q) g
  | amoOr (g dw d a b) : GuardRow (.amoOr g dw d a b) g
  | amoOrExtended (g dw d a b sp q) : GuardRow (.amoOrExtended g dw d a b sp q) g
  | amoXor (g dw d a b) : GuardRow (.amoXor g dw d a b) g
  | amoXorExtended (g dw d a b sp q) : GuardRow (.amoXorExtended g dw d a b sp q) g
  | amoMin (g dw d a b) : GuardRow (.amoMin g dw d a b) g
  | amoMinExtended (g dw d a b sp q) : GuardRow (.amoMinExtended g dw d a b sp q) g
  | amoMax (g dw d a b) : GuardRow (.amoMax g dw d a b) g
  | amoMaxExtended (g dw d a b sp q) : GuardRow (.amoMaxExtended g dw d a b sp q) g
  | amoSwap (g dw d a b) : GuardRow (.amoSwap g dw d a b) g
  | amoSwapExtended (g dw d a b sp q) : GuardRow (.amoSwapExtended g dw d a b sp q) g
  | cas (g dw d a b) : GuardRow (.cas g dw d a b) g
  | casExtended (g dw d a b sp q) : GuardRow (.casExtended g dw d a b sp q) g
  | fence (g scope mask) : GuardRow (.fence g scope mask) g
  | waitrs (g d a) : GuardRow (.waitrs g d a) g
  | sld (g t d a b) : GuardRow (.sld g t d a b) g
  | sldExtended (g t d a b w q disp) : GuardRow (.sldExtended g t d a b w q disp) g
  | sst (g t d a b) : GuardRow (.sst g t d a b) g
  | sstExtended (g t d a b w q disp) : GuardRow (.sstExtended g t d a b w q disp) g
  | samo (g t d a b aop w q c disp) : GuardRow (.samo g t d a b aop w q c disp) g
  | cinv (g a b) : GuardRow (.cinv g a b) g
  | cinvAll (g) : GuardRow (.cinvAll g) g
  | vextr (g d a b) : GuardRow (.vextr g d a b) g
  | vins (g d a b) : GuardRow (.vins g d a b) g
  | valloc (g d a) : GuardRow (.valloc g d a) g
  | vfree (g a) : GuardRow (.vfree g a) g
  | tcfg (g d a) : GuardRow (.tcfg g d a) g
  | tcfgr (g d a) : GuardRow (.tcfgr g d a) g
  | tzero (g d) : GuardRow (.tzero g d) g
  | tmov (g d a) : GuardRow (.tmov g d a) g
  | tconj (g d a) : GuardRow (.tconj g d a) g
  | txp (g d a) : GuardRow (.txp g d a) g
  | tnorm (g d a) : GuardRow (.tnorm g d a) g
  | tld (g d a b) : GuardRow (.tld g d a b) g
  | tldExtended (g d a b sp planar disp) : GuardRow (.tldExtended g d a b sp planar disp) g
  | tst (g d a b) : GuardRow (.tst g d a b) g
  | tstExtended (g d a b sp planar disp) : GuardRow (.tstExtended g d a b sp planar disp) g
  | mma (g cb ca ba d a b) : GuardRow (.mma g cb ca ba d a b) g
  | mmaCbuf (g cb ca ba d a b c) : GuardRow (.mmaCbuf g cb ca ba d a b c) g
  | tsca (g d a b) : GuardRow (.tsca g d a b) g
  | qnt (g d a b) : GuardRow (.qnt g d a b) g
  | dqnt (g d a b) : GuardRow (.dqnt g d a b) g
  | talg (g d a) : GuardRow (.talg g d a) g
  | boxv (g d a b) : GuardRow (.boxv g d a b) g
  | boxvExtended (g d a b sp) : GuardRow (.boxvExtended g d a b sp) g
  | trix (g d a b) : GuardRow (.trix g d a b) g
  | trixExtended (g d a b sp) : GuardRow (.trixExtended g d a b sp) g
  | splt (g d a b) : GuardRow (.splt g d a b) g
  | spltExtended (g d a b sp) : GuardRow (.spltExtended g d a b sp) g
  | volseg (g d a b) : GuardRow (.volseg g d a b) g
  | volsegExtended (g d a b sp) : GuardRow (.volsegExtended g d a b sp) g
  | ivmake (g d a b) : GuardRow (.ivmake g d a b) g
  | ivins (g a) : GuardRow (.ivins g a) g
  | ivget (g d a) : GuardRow (.ivget g d a) g
  | ivqry (g d b) : GuardRow (.ivqry g d b) g
  | ivcut (g a) : GuardRow (.ivcut g a) g
  | ivclr (g) : GuardRow (.ivclr g) g
  | ivcomp (g d) : GuardRow (.ivcomp g d) g
  | ivcfg (g a) : GuardRow (.ivcfg g a) g
  | recvw (g d) : GuardRow (.recvw g d) g
  | migr (g a) : GuardRow (.migr g a) g
  | spawn (g d a b) : GuardRow (.spawn g d a b) g
  | cdec (g a) : GuardRow (.cdec g a) g
  | hintsucc (g) : GuardRow (.hintsucc g) g
  | waitpred (g) : GuardRow (.waitpred g) g
  | enq (g a b) : GuardRow (.enq g a b) g
  | deq (g d a) : GuardRow (.deq g d a) g
  | taskget (g d) : GuardRow (.taskget g d) g
  | bar (g) : GuardRow (.bar g) g
  | semw (g a b) : GuardRow (.semw g a b) g
  | sems (g a b) : GuardRow (.sems g a b) g
  | copy (g d a b e disp) : GuardRow (.copy g d a b e disp) g
  | getx (g d a b e disp) : GuardRow (.getx g d a b e disp) g
  | putx (g d a b e) : GuardRow (.putx g d a b e) g
  | coll (g a e) : GuardRow (.coll g a e) g
  | tagwAll (g a) : GuardRow (.tagwAll g a) g
  | tagwAllLiteral (g lit) : GuardRow (.tagwAllLiteral g lit) g
  | tagwAny (g a) : GuardRow (.tagwAny g a) g
  | tagwAnyLiteral (g lit) : GuardRow (.tagwAnyLiteral g lit) g
  | tagf (g d) : GuardRow (.tagf g d) g
  | xreqLayout (g d a b) : GuardRow (.xreqLayout g d a b) g
  | xreqQuant (g d a b) : GuardRow (.xreqQuant g d a b) g
  | xreqCksum (g d a b) : GuardRow (.xreqCksum g d a b) g
  | trap (g code) : GuardRow (.trap g code) g
  | eret (g) : GuardRow (.eret g) g
  | stab (g a b) : GuardRow (.stab g a b) g
  | tlbi (g a) : GuardRow (.tlbi g a) g
  | tlbiAll (g) : GuardRow (.tlbiAll g) g
  | preempt (g a) : GuardRow (.preempt g a) g
  | ctxsave (g a) : GuardRow (.ctxsave g a) g
  | ctxload (g a) : GuardRow (.ctxload g a) g

/-- The instructions whose guard chooses the acting lanes (R73, R148). -/
inductive LaneGuardRow : Instr → Guard → Prop
  | vadd (g d a b) : LaneGuardRow (.vadd g d a b) g
  | vaddExtended (g d a b fa) : LaneGuardRow (.vaddExtended g d a b fa) g
  | vsub (g d a b) : LaneGuardRow (.vsub g d a b) g
  | vsubExtended (g d a b fa) : LaneGuardRow (.vsubExtended g d a b fa) g
  | vmul (g d a b) : LaneGuardRow (.vmul g d a b) g
  | vmulExtended (g d a b fa) : LaneGuardRow (.vmulExtended g d a b fa) g
  | vmin (g d a b) : LaneGuardRow (.vmin g d a b) g
  | vminExtended (g d a b fa) : LaneGuardRow (.vminExtended g d a b fa) g
  | vmax (g d a b) : LaneGuardRow (.vmax g d a b) g
  | vmaxExtended (g d a b fa) : LaneGuardRow (.vmaxExtended g d a b fa) g
  | vabs (g d a) : LaneGuardRow (.vabs g d a) g
  | vabsExtended (g d a fa) : LaneGuardRow (.vabsExtended g d a fa) g
  | vneg (g d a) : LaneGuardRow (.vneg g d a) g
  | vnegExtended (g d a fa) : LaneGuardRow (.vnegExtended g d a fa) g
  | vrcp (g d a) : LaneGuardRow (.vrcp g d a) g
  | vrcpExtended (g d a fa) : LaneGuardRow (.vrcpExtended g d a fa) g
  | vrsq (g d a) : LaneGuardRow (.vrsq g d a) g
  | vrsqExtended (g d a fa) : LaneGuardRow (.vrsqExtended g d a fa) g
  | vex2 (g d a) : LaneGuardRow (.vex2 g d a) g
  | vex2Extended (g d a fa) : LaneGuardRow (.vex2Extended g d a fa) g
  | vlg2 (g d a) : LaneGuardRow (.vlg2 g d a) g
  | vlg2Extended (g d a fa) : LaneGuardRow (.vlg2Extended g d a fa) g
  | vsqrt (g d a) : LaneGuardRow (.vsqrt g d a) g
  | vsqrtExtended (g d a fa) : LaneGuardRow (.vsqrtExtended g d a fa) g
  | vfma (g d a b) : LaneGuardRow (.vfma g d a b) g
  | vfmaExtended (g d a b fa) : LaneGuardRow (.vfmaExtended g d a b fa) g
  | vfms (g d a b) : LaneGuardRow (.vfms g d a b) g
  | vfmsExtended (g d a b fa) : LaneGuardRow (.vfmsExtended g d a b fa) g
  | vcvt (g d a fa fb hs hd) : LaneGuardRow (.vcvt g d a fa fb hs hd) g
  | vcmpFeq (g d a b) : LaneGuardRow (.vcmpFeq g d a b) g
  | vcmpFeqExtended (g d a b fa half) : LaneGuardRow (.vcmpFeqExtended g d a b fa half) g
  | vcmpFne (g d a b) : LaneGuardRow (.vcmpFne g d a b) g
  | vcmpFneExtended (g d a b fa half) : LaneGuardRow (.vcmpFneExtended g d a b fa half) g
  | vcmpFlt (g d a b) : LaneGuardRow (.vcmpFlt g d a b) g
  | vcmpFltExtended (g d a b fa half) : LaneGuardRow (.vcmpFltExtended g d a b fa half) g
  | vcmpFle (g d a b) : LaneGuardRow (.vcmpFle g d a b) g
  | vcmpFleExtended (g d a b fa half) : LaneGuardRow (.vcmpFleExtended g d a b fa half) g
  | vcmpFunord (g d a b) : LaneGuardRow (.vcmpFunord g d a b) g
  | vcmpFunordExtended (g d a b fa half) : LaneGuardRow (.vcmpFunordExtended g d a b fa half) g
  | vcmpIeq (g d a b) : LaneGuardRow (.vcmpIeq g d a b) g
  | vcmpIne (g d a b) : LaneGuardRow (.vcmpIne g d a b) g
  | vcmpIlt (g d a b) : LaneGuardRow (.vcmpIlt g d a b) g
  | vcmpIle (g d a b) : LaneGuardRow (.vcmpIle g d a b) g
  | vcmpIltu (g d a b) : LaneGuardRow (.vcmpIltu g d a b) g
  | vcmpIleu (g d a b) : LaneGuardRow (.vcmpIleu g d a b) g
  | vsel (g inv sel d a b) : LaneGuardRow (.vsel g inv sel d a b) g
  | vand (g d a b) : LaneGuardRow (.vand g d a b) g
  | vor (g d a b) : LaneGuardRow (.vor g d a b) g
  | vxor (g d a b) : LaneGuardRow (.vxor g d a b) g
  | vshl (g d a b) : LaneGuardRow (.vshl g d a b) g
  | vshr (g d a b) : LaneGuardRow (.vshr g d a b) g
  | viadd (g d a b) : LaneGuardRow (.viadd g d a b) g
  | vimul (g d a b) : LaneGuardRow (.vimul g d a b) g
  | vperm (g d a b) : LaneGuardRow (.vperm g d a b) g
  | vbcast (g d a) : LaneGuardRow (.vbcast g d a) g
  | vredFadd (g d a) : LaneGuardRow (.vredFadd g d a) g
  | vredFaddExtended (g d a fa) : LaneGuardRow (.vredFaddExtended g d a fa) g
  | vredFmin (g d a) : LaneGuardRow (.vredFmin g d a) g
  | vredFminExtended (g d a fa) : LaneGuardRow (.vredFminExtended g d a fa) g
  | vredFmax (g d a) : LaneGuardRow (.vredFmax g d a) g
  | vredFmaxExtended (g d a fa) : LaneGuardRow (.vredFmaxExtended g d a fa) g
  | vredIadd (g d a) : LaneGuardRow (.vredIadd g d a) g
  | vredImin (g d a) : LaneGuardRow (.vredImin g d a) g
  | vredImax (g d a) : LaneGuardRow (.vredImax g d a) g
  | vdotS8 (g d a b) : LaneGuardRow (.vdotS8 g d a b) g
  | vdotU8s8 (g d a b) : LaneGuardRow (.vdotU8s8 g d a b) g
  | vdotF16 (g d a b) : LaneGuardRow (.vdotF16 g d a b) g
  | vdotBf16 (g d a b) : LaneGuardRow (.vdotBf16 g d a b) g
  | vld (g d a b) : LaneGuardRow (.vld g d a b) g
  | vldExtended (g d a b sp q disp) : LaneGuardRow (.vldExtended g d a b sp q disp) g
  | vst (g d a b) : LaneGuardRow (.vst g d a b) g
  | vstExtended (g d a b sp q disp) : LaneGuardRow (.vstExtended g d a b sp q disp) g
  | vgath (g d a b) : LaneGuardRow (.vgath g d a b) g
  | vgathExtended (g d a b sp q) : LaneGuardRow (.vgathExtended g d a b sp q) g
  | vscat (g d a b) : LaneGuardRow (.vscat g d a b) g
  | vscatExtended (g d a b sp q) : LaneGuardRow (.vscatExtended g d a b sp q) g

end Sys2Proof.Claims

/-! ### Guards (01_machine_state, 03_encoding_and_opcode_map) -/

/-- R73: an instruction whose guard is false has no effect but the PC's advance past its words: no read, pop, write, access, trap or
wait; a lane-guarded one has none when no lane acts. -/
def Obligations.FalseGuard : Prop :=
  (∀ i g, GuardRow i g → ∀ s st, s.me? = some st → st.allows g = false → exec i s = .next (s.setMe (st.advance (encode i).length)))
  ∧ (∀ i g, LaneGuardRow i g → ∀ s st, s.me? = some st → st.mask g = 0 → exec i s = .next (s.setMe (st.advance (encode i).length)))

namespace Sys2Proof.Claims
open Sys2Proof.Machine

/-- A strand but for what steps of other strands may do to it: the pre-emption asked of it and the bytes noted under its MMA. -/
def outline (st : Strand) : Strand := { st with mma := none, preReq := none }

/-- A strand but for its PC, registers, predicates, fpflags and exception registers, and for what belongs to the instruction in hand:
what is left holds its special registers, grants, interval list and identity. -/
def kept (st : Strand) : Strand :=
  { outline st with pc := 0, fixed := [], stk := [], vregs := [], preds := [], fpflags := 0, epc := 0, cause := 0, faddr := 0, hm := false,
                    window := [], wcbuf := none, poison := [], wait := none, held := none, trapPend := none, halting := false, fenced := false }

/-- What is left of a strand apart from its interval list. -/
def keptButList (st : Strand) : Strand :=
  { kept st with eps := 0, cdrop := 0, ncap := 0, ivlate := 0, ivdrop := 0, ivmerge := 0, opaq := false, tmax := 0, recs := [] }

/-- What is left of a strand apart from the place of its register window. -/
def keptButWindow (st : Strand) : Strand := { kept st with winbase := 0, depth := 0 }

/-- The frame of an instruction of the acting slot with these destinations: every other scalar register, predicate and vector register keeps its
value, fpflags stays or, for an instruction that raises flags, only gains bits, every special register that `keep` leaves stays, the exception
registers change only with a trap, and no other strand's registers change. -/
structure Frame (keep : Strand → Strand) (s t : State) (gs : List Reg) (ps : List (BitVec 3)) (vs : List Reg) (flags : Bool) : Prop where
  others : ∀ n, n ≠ s.actor → (t.strand? n).map outline = (s.strand? n).map outline
  scalars : ∀ st u : Strand, s.me? = some st → t.me? = some u → ∀ r, r ∉ gs → u.g r = st.g r
  predicates : ∀ st u : Strand, s.me? = some st → t.me? = some u → ∀ k, k ∉ ps → u.p k = st.p k
  vectors : ∀ st u : Strand, s.me? = some st → t.me? = some u → ∀ r, r ∉ vs → u.v r = st.v r
  flags : ∀ st u : Strand, s.me? = some st → t.me? = some u → if flags then u.fpflags &&& st.fpflags = st.fpflags else u.fpflags = st.fpflags
  special : ∀ st u : Strand, s.me? = some st → t.me? = some u → keep u = keep st
  exception : ∀ st u : Strand, s.me? = some st → t.me? = some u →
    (u.hm = st.hm ∧ u.epc = st.epc ∧ u.cause = st.cause ∧ u.faddr = st.faddr) ∨ (st.hm = false ∧ u.hm = true)

/-- The instructions that work on registers alone, with their destinations and whether they raise flags. -/
inductive PlainRow : Instr → List Reg → List (BitVec 3) → List Reg → Bool → Prop
  | scalar {i g w d srcs f} (h : ScalarRow i g w d srcs f) : PlainRow i [d] [] [] false
  | cond {r l} {c : {n : Nat} → BitVec n → BitVec n → Prop} (h : CondRow r l c) (g w d a b) : PlainRow (r g w d a b) [] [d] [] false
  | condLiteral {r l} {c : {n : Nat} → BitVec n → BitVec n → Prop} (h : CondRow r l c) (g w d a x) : PlainRow (l g w d a x) [] [d] [] false
  | plog {r f} (h : PlogRow r f) (g d a b) : PlainRow (r g d a b) [] [d] [] false
  | sel (g inv sel d a b) : PlainRow (.sel g inv sel d a b) [d] [] [] false
  | nop (g) : PlainRow (.nop g) [] [] [] false
  | br (g off) : PlainRow (.br g off) [] [] [] false
  | jmp (g x) : PlainRow (.jmp g x) [] [] [] false
  | jmpx (g a) : PlainRow (.jmpx g a) [] [] [] false
  | loop (d imm) : PlainRow (.loop d imm) [d] [] [] false
  | lane {i g w d vs f} (h : LaneRow i g w d vs f) : PlainRow i [] [] [d] true
  | mask {i g w d vs f} (h : MaskRow i g w d vs f) : PlainRow i [] [d] [] true
  | red {i g w d a f} (h : RedRow i g w d a f) : PlainRow i [d] [] [] true
  | vcvt (g d a fa fb hs hd) : PlainRow (.vcvt g d a fa fb hs hd) [] [] [d] true
  | vbcast (g d a) : PlainRow (.vbcast g d a) [] [] [d] false
  | vextr (g d a b) : PlainRow (.vextr g d a b) [d] [] [] false
  | vins (g d a b) : PlainRow (.vins g d a b) [] [] [d] false
  | vredImin (g d a) : PlainRow (.vredImin g d a) [d] [] [] false
  | vredImax (g d a) : PlainRow (.vredImax g d a) [d] [] [] false
  | movhFromShared (g d a) : PlainRow (.movhFromShared g d a) [d] [] [] false
  | movhToShared (g d a) : PlainRow (.movhToShared g d a) [] [] [] false
  | sysr (d num) : PlainRow (.sysr d num) [d] [] [] false

/-- The instructions that access memory by one datum, with their scalar destination. -/
inductive AccessRow : Instr → List Reg → Prop
  | load {i g w d regs disp sp n q} (h : LoadRow i g w d regs disp sp n q) : AccessRow i [d]
  | store {i g w d regs disp sp n q} (h : StoreRow i g w d regs disp sp n q) : AccessRow i []
  | lr (g dw d a) : AccessRow (.lr g dw d a) [d]
  | lrExtended (g dw d a q) : AccessRow (.lrExtended g dw d a q) [d]
  | sc (g dw d a b) : AccessRow (.sc g dw d a b) [d]
  | scExtended (g dw d a b q) : AccessRow (.scExtended g dw d a b q) [d]
  | amo {r e} {f : {n : Nat} → BitVec n → BitVec n → BitVec n} (h : AmoRow r e f) (g dw d a b) : AccessRow (r g dw d a b) [d]
  | amoExtended {r e} {f : {n : Nat} → BitVec n → BitVec n → BitVec n} (h : AmoRow r e f) (g dw d a b sp q) : AccessRow (e g dw d a b sp q) [d]
  | cas (g dw d a b) : AccessRow (.cas g dw d a b) [d]
  | casExtended (g dw d a b sp q) : AccessRow (.casExtended g dw d a b sp q) [d]
  | sld {i g tr d a b k w q disp} (h : SldRow i g tr d a b k w q disp) : AccessRow i [d]
  | sst {i g tr d a b k w q disp} (h : SstRow i g tr d a b k w q disp) : AccessRow i []
  | samo (g tr d a b aop w q c disp) : AccessRow (.samo g tr d a b aop w q c disp) [d]

/-- Where an access of the acting strand that need not wait finds its datum: as the translation stands, or, of an access that is not
write-combining, as the strand's buffer leaves it (R280). -/
def Finds (s : State) (st : Strand) (k : AccKind) (sp : BitVec 3) (va : BitVec 64) (n : Nat) (spot : Spot) : Prop :=
  ∃ plain release, s.locateAfter st k sp va n plain release = .ok spot

/-- Where a form stores: the flat address and the bytes that its sources and the translation of their sum give. -/
inductive StoresAt (s : State) (st : Strand) : Instr → Nat → Nat → Prop
  | store {i g w d regs disp sp n q vs s1 spot} (h : StoreRow i g w d regs disp sp n q) (reads : readSources st s (regs ++ [d]) none = .ok (vs, s1))
      (place : Finds s1 st .write sp (total (vs.take regs.length) disp) n spot) : StoresAt s st i spot.flat n
  | sc {g dw d a b x y s1 spot} (reads : readSources st s [a, b] (some d) = .ok ([x, y], s1))
      (place : Finds s1 st .rmw 0 x (bytesOf dw) spot) : StoresAt s st (.sc g dw d a b) spot.flat (bytesOf dw)
  | scExtended {g dw d a b q x y s1 spot} (reads : readSources st s [a, b] (some d) = .ok ([x, y], s1))
      (place : Finds s1 st .rmw 0 x (bytesOf dw) spot) : StoresAt s st (.scExtended g dw d a b q) spot.flat (bytesOf dw)
  | amo {r e} {f : {n : Nat} → BitVec n → BitVec n → BitVec n} {g dw d a b x y s1 spot} (h : AmoRow r e f)
      (reads : readSources st s [a, b] (some d) = .ok ([x, y], s1)) (place : Finds s1 st .rmw 0 x (bytesOf dw) spot) :
      StoresAt s st (r g dw d a b) spot.flat (bytesOf dw)
  | amoExtended {r e} {f : {n : Nat} → BitVec n → BitVec n → BitVec n} {g dw d a b sp q x y s1 spot} (h : AmoRow r e f)
      (reads : readSources st s [a, b] (some d) = .ok ([x, y], s1)) (place : Finds s1 st .rmw sp x (bytesOf dw) spot) :
      StoresAt s st (e g dw d a b sp q) spot.flat (bytesOf dw)
  | cas {g dw d a b x y z s1 spot} (reads : readSources st s [a, b, d] none = .ok ([x, y, z], s1))
      (place : Finds s1 st .rmw 0 x (bytesOf dw) spot) : StoresAt s st (.cas g dw d a b) spot.flat (bytesOf dw)
  | casExtended {g dw d a b sp q x y z s1 spot} (reads : readSources st s [a, b, d] none = .ok ([x, y, z], s1))
      (place : Finds s1 st .rmw sp x (bytesOf dw) spot) : StoresAt s st (.casExtended g dw d a b sp q) spot.flat (bytesOf dw)
  | sst {i g tr d a b k w q disp x y z s1 spot} (h : SstRow i g tr d a b k w q disp) (reads : readSources st s [a, b, d] none = .ok ([x, y, z], s1))
      (place : Finds s1 st .rmw 0 (x + y + disp) (bytesOf !w) spot) : StoresAt s st i spot.flat (bytesOf !w)
  | samo {g tr d a b aop w q c disp x y z s1 spot} (reads : readSources st s [a, b, c] (some d) = .ok ([x, y, z], s1))
      (place : Finds s1 st .rmw 0 (x + y + disp.getD 0) (bytesOf !w) spot) : StoresAt s st (.samo g tr d a b aop w q c disp) spot.flat (bytesOf !w)

/-- An address outside the strand's combining buffer, whose bytes an instruction may drain. -/
def OffBuffer (st : Strand) (a : Nat) : Prop := ∀ b, st.wcbuf = some b → ∀ ob ∈ b.bytes, a ≠ b.line * 64 + ob.1

/-- An address outside the image that an eviction of the acting strand may write to its place in a context area (R264, R313): that of the oldest
context of a full cache; which place is assumption 50. -/
def OffSpill (s : State) (a : Nat) : Prop :=
  ∀ i x p, freeEntry (s.cluster (clusterOf s.actor)).ctxs = none → oldestCtx (s.cluster (clusterOf s.actor)).ctxs = some (i, x) →
    s.part? x.strand.part = some p →
    a < p.ctxArea + freePlace p.area * 2 ^ 17 ∨ p.ctxArea + freePlace p.area * 2 ^ 17 + x.image.length ≤ a

/-- The instructions that store to no memory and yet are not of registers alone, with their destinations and what they keep of their strand. -/
inductive QuietRow : Instr → List Reg → List (BitVec 3) → List Reg → (Strand → Strand) → Prop
  | vld (g d a b) : QuietRow (.vld g d a b) [] [] [d] kept
  | vldExtended (g d a b sp q disp) : QuietRow (.vldExtended g d a b sp q disp) [] [] [d] kept
  | vgath (g d a b) : QuietRow (.vgath g d a b) [] [] [d] kept
  | vgathExtended (g d a b sp q) : QuietRow (.vgathExtended g d a b sp q) [] [] [d] kept
  | ray {r e n f} (h : RayRow r e n f) (g d a b) : QuietRow (r g d a b) [] [] [d] kept
  | rayExtended {r e n f} (h : RayRow r e n f) (g d a b sp) : QuietRow (e g d a b sp) [] [] [d] kept
  | ivmake (g d a b) : QuietRow (.ivmake g d a b) [] [] [d] kept
  | ivget (g d a) : QuietRow (.ivget g d a) [] [] [d] kept
  | ivqry (g d b) : QuietRow (.ivqry g d b) [] [b] [d] kept
  | ivcomp (g d) : QuietRow (.ivcomp g d) [] [] [d] kept
  | ivins (g a) : QuietRow (.ivins g a) [] [] [] keptButList
  | ivcut (g a) : QuietRow (.ivcut g a) [] [] [] keptButList
  | ivclr (g) : QuietRow (.ivclr g) [] [] [] keptButList
  | ivcfg (g a) : QuietRow (.ivcfg g a) [] [] [] keptButList
  | recvw (g d) : QuietRow (.recvw g d) [d] [] [] kept
  | deq (g d a) : QuietRow (.deq g d a) [d] [] [] kept
  | taskget (g d) : QuietRow (.taskget g d) [d] [] [] kept
  | tagf (g d) : QuietRow (.tagf g d) [d] [] [] kept
  | waitrs (g d a) : QuietRow (.waitrs g d a) [d] [] [] kept
  | enq (g a b) : QuietRow (.enq g a b) [] [] [] kept
  | semw (g a b) : QuietRow (.semw g a b) [] [] [] kept
  | sems (g a b) : QuietRow (.sems g a b) [] [] [] kept
  | tagwAll (g a) : QuietRow (.tagwAll g a) [] [] [] kept
  | tagwAllLiteral (g m) : QuietRow (.tagwAllLiteral g m) [] [] [] kept
  | tagwAny (g a) : QuietRow (.tagwAny g a) [] [] [] kept
  | tagwAnyLiteral (g m) : QuietRow (.tagwAnyLiteral g m) [] [] [] kept
  | waitpred (g) : QuietRow (.waitpred g) [] [] [] kept
  | hintsucc (g) : QuietRow (.hintsucc g) [] [] [] fun st => { kept st with hinted := false }
  | bar (g) : QuietRow (.bar g) [] [] [] fun st => { kept st with arrived := none }
  | spawn (g d a b) : QuietRow (.spawn g d a b) [] [d] [] kept
  | migr (g a) : QuietRow (.migr g a) [] [] [] kept
  | copy (g d a b e disp) : QuietRow (.copy g d a b e disp) [] [] [] kept
  | getx (g d a b e disp) : QuietRow (.getx g d a b e disp) [] [] [] kept
  | putx (g d a b e) : QuietRow (.putx g d a b e) [] [] [] kept
  | coll (g a e) : QuietRow (.coll g a e) [] [] [] kept
  | xreqLayout (g d a b) : QuietRow (.xreqLayout g d a b) [] [d] [] kept
  | xreqQuant (g d a b) : QuietRow (.xreqQuant g d a b) [] [d] [] kept
  | xreqCksum (g d a b) : QuietRow (.xreqCksum g d a b) [] [d] [] kept
  | stab (g a b) : QuietRow (.stab g a b) [] [] [] kept
  | tlbi (g a) : QuietRow (.tlbi g a) [] [] [] kept
  | tlbiAll (g) : QuietRow (.tlbiAll g) [] [] [] kept
  | preempt (g a) : QuietRow (.preempt g a) [] [] [] kept
  | ctxload (g a) : QuietRow (.ctxload g a) [] [] [] kept
  | trap (g code) : QuietRow (.trap g code) [] [] [] kept
  | tcfgr (g d a) : QuietRow (.tcfgr g d a) [d] [] [] kept
  | talg (g d a) : QuietRow (.talg g d a) [] [] [] kept
  | mma (g cb ca ba d a b) : QuietRow (.mma g cb ca ba d a b) [] [] [] kept
  | mmaCbuf (g cb ca ba d a b c) : QuietRow (.mmaCbuf g cb ca ba d a b c) [] [] [] kept
  | fence (g scope mask) : QuietRow (.fence g scope mask) [] [] [] kept
  | cinv (g a b) : QuietRow (.cinv g a b) [] [] [] kept
  | cinvAll (g) : QuietRow (.cinvAll g) [] [] [] kept

/-- The registers of a window, and the link register. -/
def linkAndWindow : List Reg := (List.range 25).map fun i => BitVec.ofNat 5 (7 + i)

/-- The instructions that store by vector, tile, context, codelet block or register stack, with their scalar destinations, whether they raise
flags, and what they keep of their strand. -/
inductive StoringRow : Instr → List Reg → Bool → (Strand → Strand) → Prop
  | vst (g d a b) : StoringRow (.vst g d a b) [] false kept
  | vstExtended (g d a b sp q disp) : StoringRow (.vstExtended g d a b sp q disp) [] false kept
  | vscat (g d a b) : StoringRow (.vscat g d a b) [] false kept
  | vscatExtended (g d a b sp q) : StoringRow (.vscatExtended g d a b sp q) [] false kept
  | tcfg (g d a) : StoringRow (.tcfg g d a) [] false kept
  | tzero (g d) : StoringRow (.tzero g d) [] false kept
  | tmov (g d a) : StoringRow (.tmov g d a) [] false kept
  | tconj (g d a) : StoringRow (.tconj g d a) [] true kept
  | txp (g d a) : StoringRow (.txp g d a) [] false kept
  | tnorm (g d a) : StoringRow (.tnorm g d a) [] true kept
  | tsca (g d a b) : StoringRow (.tsca g d a b) [] true kept
  | qnt (g d a b) : StoringRow (.qnt g d a b) [] true kept
  | dqnt (g d a b) : StoringRow (.dqnt g d a b) [] true kept
  | tld (g d a b) : StoringRow (.tld g d a b) [] false kept
  | tldExtended (g d a b sp planar disp) : StoringRow (.tldExtended g d a b sp planar disp) [] false kept
  | tst (g d a b) : StoringRow (.tst g d a b) [] false kept
  | tstExtended (g d a b sp planar disp) : StoringRow (.tstExtended g d a b sp planar disp) [] false kept
  | cdec (g a) : StoringRow (.cdec g a) [] false kept
  | ctxsave (g a) : StoringRow (.ctxsave g a) [] false kept
  | call (g k off) : StoringRow (.call g k off) linkAndWindow false keptButWindow
  | callLiteral (g k lit) : StoringRow (.callLiteral g k lit) linkAndWindow false keptButWindow
  | callx (g k a) : StoringRow (.callx g k a) linkAndWindow false keptButWindow
  | ret (g) : StoringRow (.ret g) linkAndWindow false keptButWindow

/-- The tiles whose images an instruction of the tile unit writes at once (R19); an MMA writes when it completes. -/
inductive WritesTile : Instr → BitVec 4 → Prop
  | tcfg (g d a) : WritesTile (.tcfg g d a) d
  | tzero (g d) : WritesTile (.tzero g d) d
  | tmov (g d a) : WritesTile (.tmov g d a) d
  | tconj (g d a) : WritesTile (.tconj g d a) d
  | txp (g d a) : WritesTile (.txp g d a) d
  | tnorm (g d a) : WritesTile (.tnorm g d a) d
  | tsca (g d a b) : WritesTile (.tsca g d a b) d
  | qnt (g d a b) : WritesTile (.qnt g d a b) d
  | scale (g d a b) : WritesTile (.qnt g d a b) b
  | dqnt (g d a b) : WritesTile (.dqnt g d a b) d
  | tld (g d a b) : WritesTile (.tld g d a b) d
  | tldExtended (g d a b sp planar disp) : WritesTile (.tldExtended g d a b sp planar disp) d

/-- The instructions that write a tile's configuration. -/
inductive WritesConfig : Instr → BitVec 4 → Prop
  | tcfg (g d a) : WritesConfig (.tcfg g d a) d
  | tmov (g d a) : WritesConfig (.tmov g d a) d
  | tconj (g d a) : WritesConfig (.tconj g d a) d
  | txp (g d a) : WritesConfig (.txp g d a) d

/-- A call of k slots from a state that has read its sources. -/
inductive CallFrom (s : State) (st : Strand) : Instr → Nat → State → Prop
  | call (g k off) : CallFrom s st (.call g k off) (k.toNat + 1) s
  | callLiteral (g k lit) : CallFrom s st (.callLiteral g k lit) (k.toNat + 1) s
  | callx (g k a) {x s1} (reads : readSources st s [a] none = .ok ([x], s1)) : CallFrom s st (.callx g k a) (k.toNat + 1) s1

/-- Where the storing instructions store: flat address and bytes, as their sources, their tiles and the translations give them. -/
inductive StoresTo (s : State) (st : Strand) : Instr → Nat → Nat → Prop
  | vst {g d a b x y s1} (i : Nat) (acts : (st.mask g).getLsbD i = true) (reads : readSources st s [a, b] none [d] = .ok ([x, y], s1)) :
      StoresTo s st (.vst g d a b) (localBase 1 (cellOf s.actor) + (x + y + BitVec.ofNat 64 (4 * i)).toNat) 4
  | vstExtended {g d a b sp q disp x y s1} (i : Nat) (acts : (st.mask g).getLsbD i = true) (reads : readSources st s [a, b] none [d] = .ok ([x, y], s1)) :
      StoresTo s st (.vstExtended g d a b sp q disp) (localBase sp (cellOf s.actor) + (x + y + disp.getD 0 + BitVec.ofNat 64 (4 * i)).toNat) 4
  | vscat {g d a b x s1} (i : Nat) (acts : (st.mask g).getLsbD i = true) (reads : readSources st s [a] none [d, b] = .ok ([x], s1)) :
      StoresTo s st (.vscat g d a b) (localBase 1 (cellOf s.actor) + (x + (vlane st b i).setWidth 64).toNat) 4
  | vscatExtended {g d a b sp q x s1} (i : Nat) (acts : (st.mask g).getLsbD i = true) (reads : readSources st s [a] none [d, b] = .ok ([x], s1)) :
      StoresTo s st (.vscatExtended g d a b sp q) (localBase sp (cellOf s.actor) + (x + (vlane st b i).setWidth 64).toNat) 4
  | tile {i d} (h : WritesTile i d) : StoresTo s st i (image s d) 4096
  | tst {g d a b x y s1} (reads : readSources st s [a, b] none = .ok ([x, y], s1)) :
      StoresTo s st (.tst g d a b) (localBase 3 (cellOf s.actor) + (x + y).toNat) (transferBytes (tileOf s d) false)
  | tstExtended {g d a b sp planar disp x y s1} (reads : readSources st s [a, b] none = .ok ([x, y], s1)) :
      StoresTo s st (.tstExtended g d a b sp planar disp) (localBase sp (cellOf s.actor) + (x + y + disp.getD 0).toNat)
        (transferBytes (tileOf s d) planar)
  | cdec {g a x s1 cell off} (reads : readSources st s [a] none = .ok ([x], s1)) (block : s.codeletAt st.part x = some (cell, off)) :
      StoresTo s st (.cdec g a) (lmemBase cell + off) 8
  | ctxsave {g a x s1 op st1 piece} (reads : readSources st s [a] none = .ok ([x], s1)) (area : contextOperand x = .ok op)
      (strand : (s.drainWc s.actor).me? = some st1) (place : piece ∈ ((s.drainWc s.actor).areaSpots st1 op.1).1) :
      StoresTo s st (.ctxsave g a) piece.spot.flat piece.len
  | spill {i k s0 st1 j va spot} (h : CallFrom s st i k s0) (strand : (s0.drainWc s.actor).me? = some st1)
      (entry : j ∈ indexRange (lowResident st1.winbase) (lowResident (st1.winbase + 20 - k)))
      (place : (s0.drainWc s.actor).entrySpot st1 .write j = .ok (va, spot)) : StoresTo s st i spot.flat 8
  | resident {i k s0 st1 a} (h : CallFrom s st i k s0) (strand : (s0.drainWc s.actor).me? = some st1)
      (place : a ∈ incoming (s0.drainWc s.actor) st1 k) : StoresTo s st i a 8
  | fill {g st1 j va spot} (strand : (s.drainWc s.actor).me? = some st1)
      (entry : j ∈ indexRange (lowResident (st1.winbase - (20 - ((st1.g 7).extractLsb' 56 5).toNat))) (lowResident st1.winbase))
      (place : (s.drainWc s.actor).entrySpot st1 .read j = .ok (va, spot)) : StoresTo s st (.ret g) spot.flat 8

end Sys2Proof.Claims

/-! ### Frames -/

/-- The frame of the instructions that work on registers alone: no register but the destinations changes, no special register, no other strand,
no line state, no tile and no byte of memory, whatever the next state is: retired, waiting or trapped. -/
def Obligations.RegisterFrame : Prop :=
  ∀ i gs ps vs flags, PlainRow i gs ps vs flags → ∀ s t, exec i s = .next t →
    Frame kept s t gs ps vs flags ∧ t.lines = s.lines ∧ (∀ a, t.byte a = s.byte a)
    ∧ ∀ c, (t.cell c).tileCfg = (s.cell c).tileCfg ∧ (t.cell c).algs = (s.cell c).algs

/-- The frame of the loads, stores and atomics of one datum: no register but the destination changes, and no byte of memory but those at the
address stored to, those that were waiting in the strand's combining buffer, and the place in the context area to which an eviction may write.
A form that stores nothing has no such address. -/
def Sys2Proof.Claims.AccessFrame : Prop :=
  ∀ i gs, AccessRow i gs → ∀ s st t, s.me? = some st → exec i s = .next t →
    Frame kept s t gs [] [] false
    ∧ ∀ a, (∀ flat n, StoresAt s st i flat n → a < flat ∨ flat + n ≤ a) → OffBuffer st a → OffSpill s a → t.byte a = s.byte a

/-- The frame of the instructions that store no memory of their own: vector loads, ray and list instructions, messages, tasks, tags and
semaphores, the kicks of commands, system instructions, TCFGR, TALG, MMA as it issues, and the fences. No register but the destinations changes,
no tile's configuration, and no byte but those of the strand's combining buffer and those an eviction may write. -/
def Sys2Proof.Claims.QuietFrame : Prop :=
  ∀ i gs ps vs keep, QuietRow i gs ps vs keep → ∀ s st t, s.me? = some st → exec i s = .next t →
    Frame keep s t gs ps vs false ∧ (∀ c, (t.cell c).tileCfg = (s.cell c).tileCfg)
    ∧ (∀ c k, (∀ g d a, i = .talg g d a → c = cellOf s.actor → k ≠ d.toNat) → (t.cell c).alg k = (s.cell c).alg k)
    ∧ ∀ a, OffBuffer st a → OffSpill s a → t.byte a = s.byte a

/-- The frame of the instructions that store by vector, tile, context, codelet block or register stack: no register but the destinations changes,
no tile's configuration but the destination's of TCFG, TMOV, TCONJ and TXP, and no byte but those stored to, those of the strand's combining
buffer, and those an eviction may write; CALL and RET slide the window and leave a free value at the places of entries that become resident. -/
def Sys2Proof.Claims.StoringFrame : Prop :=
  ∀ i gs flags keep, StoringRow i gs flags keep → ∀ s st t, s.me? = some st → exec i s = .next t →
    Frame keep s t gs [] [] flags ∧ (∀ c, (t.cell c).algs = (s.cell c).algs)
    ∧ (∀ c u, (∀ d, WritesConfig i d → c = cellOf s.actor → u ≠ d) → (t.cell c).cfg u = (s.cell c).cfg u)
    ∧ ∀ a, (∀ flat n, StoresTo s st i flat n → a < flat ∨ flat + n ≤ a) → OffBuffer st a → OffSpill s a → t.byte a = s.byte a

/-- The frames of the instructions that access memory or that are not of registers alone; where an eviction may write is assumption 50. -/
def Obligations.AccessFrame : Prop := Sys2Proof.Claims.AccessFrame ∧ Sys2Proof.Claims.QuietFrame ∧ Sys2Proof.Claims.StoringFrame

/-! ### Encoding (03_encoding_and_opcode_map) -/

/-- The words that the spec writes out decode to the instructions they stand for (its worked encodings in 03, 05, 06, 07, 09, 10, 11, 20 and 21). -/
def Obligations.SpecWords : Prop :=
  decodeList [0] = .ok (.nop .always, [])
  ∧ decodeList [0x035A9204] = .ok (.add ⟨false, 3⟩ 9 10 11, [])
  ∧ decodeList [0x00811840] = .ok (.ldD 12 4 16, [])
  ∧ decodeList [0xFFC0524C] = .ok (.stW 9 1 (-8), [])
  ∧ decodeList [0xFAFFF62C] = .ok (.br ⟨true, 2⟩ (-5), [])
  ∧ decodeList [0x00001015, 0x9ABCDEF0, 0x12345678] = .ok (.moviLiteral 8 0x123456789ABCDEF0, [])
  ∧ decodeList [0x40291252, 0x00000020, 0x30000000] = .ok (.ldExtended .always true 9 4 5 1 3 none, [])
  ∧ decodeList [0x005A9316, 0x00000005, 0x01040203]
      = .ok (.copy .always 9 10 11 ⟨false, false, false, 0, 0, 0, 0, 5, 0, 1, 4, 2, 3⟩ none, [])
  ∧ decodeList [0x00000C30] = .ok (.call .always 0 6, [])
  ∧ decodeList [0xFFF8143C] = .ok (.loop 10 (-1), [])
  ∧ decodeList [0x70000000] = .ok (.ret .always, [])
  ∧ decodeList [0x8029125A, 0x000000A0, 0x70000000] = .ok (.amoAddExtended .always true 9 4 5 5 7, [])
  ∧ decodeList [0x30001460] = .ok (.fence .always 3 10, [])
  ∧ decodeList [0x30291272, 0x00000106, 0x00000000] = .ok (.samo .always 3 9 4 5 0 true 0 6 none, [])
  ∧ decodeList [0x10009268] = .ok (.sld .always 1 9 2 0, [])
  ∧ decodeList [0x00080484] = .ok (.vfma .always 2 0 1, [])
  ∧ decodeList [0x2010C28C] = .ok (.vcmpFlt .always 1 3 2, [])
  ∧ decodeList [0x1500C0E4] = .ok (.ivins ⟨false, 5⟩ 3, [])
  ∧ decodeList [0x128006E0] = .ok (.trix ⟨false, 2⟩ 3 0 16, [])
  ∧ decodeList [0x007BC110] = .ok (.semw .always 15 15, [])
  ∧ decodeList [0x00380140] = .ok (.trap .always 7, [])
  ∧ decodeList [0x00101344] = .ok (.sysr 9 2, [])
  ∧ decodeList [0x10024154] = .ok (.ctxsave .always 9, [])
  ∧ decodeList [0x30310EC8] = .ok (.mma .always false true true 7 4 6, [])

/-- Decode and encode agree: the words of every instruction whose operands the spec allows decode to that instruction, whatever words follow. -/
def Sys2Proof.Claims.DecodesItsEncoding : Prop :=
  ∀ i rest, i.encodable = true → i.wf = true → decodeList (encode i ++ rest) = .ok (i, rest)

/-- Every word sequence has at most one meaning and no bit is dropped: what decodes is an instruction whose operands the spec allows, and its
encoding is the words it was decoded from. -/
def Sys2Proof.Claims.DecodingIsExact : Prop :=
  ∀ ws i rest, decodeList ws = .ok (i, rest) → i.encodable = true ∧ i.wf = true ∧ ws = encode i ++ rest

/-- Decode and encode agree, in both directions. -/
def Obligations.DecodesItsEncoding : Prop := Sys2Proof.Claims.DecodesItsEncoding ∧ Sys2Proof.Claims.DecodingIsExact


/-- R121: NOP is OP 0x00, F 0 and L 00 with D, A and B 0, ignores G and N, and changes nothing but the PC; with a nonzero D, A or B the word, and OP 0x00
with F 8 to 15 any word, raises ILLEGAL_INSTR when it is issued. -/
def Obligations.NopEncoding : Prop :=
  (∀ g rest, decodeList (packR 0 0 0 0 0 g 0 :: rest) = .ok (.nop g, rest))
  ∧ (∀ g s st, s.me? = some st → st.wait = none → st.held = some (.nop g) → exec (.nop g) s = .next (s.setMe { st with pc := st.pc + 4, held := none }))
  ∧ (∀ (d a b : BitVec 5) g (f : BitVec 4) (s s1 : State) n st, (f = 0 ∧ (d ≠ 0 ∨ a ≠ 0 ∨ b ≠ 0)) ∨ 8 ≤ f.toNat →
      s.strand? n = some st → st.firstTrap = none → s.fetchWords n st = .ok (⟨packR 0 0 d a b g f, 0, 0, 0, 0⟩, s1) →
      ∀ late, s.issueSlot exec late n = .next ((s1.setStrand n { st with wait := none, yielded := none }).deliver n (illegal 0)))

/-- R112: SEL is OP 0x0A, L 00 with the predicate in F[2:0] and the inversion in F[3]; it writes a when pS[0] xor F[3] is 1 and else b; a false guard leaves
everything but the PC; a port in A or in B is popped in either case. -/
def Obligations.SelChooses : Prop :=
  (∀ g inv sel d a b rest, decodeList (packR 0 0x0A d a b g (bit inv ++ sel) :: rest) = .ok (.sel g inv sel d a b, rest))
  ∧ (∀ g inv sel d a b s st x y s1, Runs s st g → readSources st s [a, b] (some d) = .ok ([x, y], s1) →
      exec (.sel g inv sel d a b) s = .next (writeDest (st.advance 1) s1 d (if ((st.p sel).getLsbD 0 ^^ inv) = true then x else y)))
  ∧ (∀ g inv sel d a b s st, s.me? = some st → st.allows g = false → exec (.sel g inv sel d a b) s = .next (s.setMe (st.advance 1)))
  ∧ (∀ g inv sel d (p r : Reg) (q : Nat) s st x xs, Runs s st g → st.Settled → st.cdl = false → isPort d = false → isPort r = false → q < 4 → p.toNat = 28 + q →
      ((s.cell (cellOf s.actor)).port q).owner = some (st.part, st.launch, slotOf s.actor) → ((s.cell (cellOf s.actor)).port q).words = x :: xs →
      ∃ t u : State, exec (.sel g inv sel d p r) s = .next t ∧ exec (.sel g inv sel d r p) s = .next u
        ∧ ((t.cell (cellOf s.actor)).port q).words = xs ∧ ((u.cell (cellOf s.actor)).port q).words = xs
        ∧ t.me? = some ((st.setG d (if ((st.p sel).getLsbD 0 ^^ inv) = true then x else st.g r)).advance 1)
        ∧ u.me? = some ((st.setG d (if ((st.p sel).getLsbD 0 ^^ inv) = true then st.g r else x)).advance 1))

/-! ### Steps, reset and invariants -/

/-- R72, R75, R76: a word is fetched at the PC's translation and, where no store has changed it since the launch was queued, is the four bytes memory holds there,
little-endian; an instruction is its first word, and the words that the first announces after it. -/
def Sys2Proof.Claims.FetchReadsMemory : Prop :=
  (∀ (s : State) n st va spot, s.translate st.part (clusterOf n) st.afresh .fetch va = .ok spot → spot.mt ≠ 5 → s.isPoisoned (lineOf spot.flat) = false → spot.flat < peerBase →
      NMap.get? s.codeLog (spot.flat / 4) = none →
      s.fetchWord n st va = .ok (BitVec.ofNat 32 (leNat (s.bytes (4 * (spot.flat / 4)) 4)), s))
  ∧ (∀ (s : State) n st w0, s.fetchWord n st st.pc = .ok (w0, s) → headCheck w0 = none →
      (wordCount w0 = 1 → s.fetchWords n st = .ok (⟨w0, 0, 0, 0, 0⟩, s))
      ∧ (∀ w1 w2, wordCount w0 = 3 → s.fetchWord n st (st.pc + 4) = .ok (w1, s) → s.fetchWord n st (st.pc + 8) = .ok (w2, s) →
          s.fetchWords n st = .ok (⟨w0, w1, w2, 0, 0⟩, s))
      ∧ (∀ w1 w2 w3 w4, wordCount w0 = 5 → s.fetchWord n st (st.pc + 4) = .ok (w1, s) → s.fetchWord n st (st.pc + 8) = .ok (w2, s) →
          s.fetchWord n st (st.pc + 12) = .ok (w3, s) → s.fetchWord n st (st.pc + 16) = .ok (w4, s) →
          s.fetchWords n st = .ok (⟨w0, w1, w2, w3, w4⟩, s)))

/-- The turn that the agenda put first has led to a state: spill locations that it has moved are unpredictable (R13, assumption 37), and its cycle
passes. -/
def Sys2Proof.Claims.done (s : State) (rest : List Turn) (t : State) : State := (({ s with agenda := rest } : State).blurMoved t).pass 1

/-- A step runs the decoded instruction: at the issue turn of a cell, the words at the PC of the slot whose turn it is decode to i, and the step is exec of i for that
strand, followed by the count of a retirement and the cycle of the step; words that do not decode raise ILLEGAL_INSTR; a memory instruction may issue in one turn and be
executed in a later one (R242; assumption 33), any other is executed at once; a waiting strand's turn executes the instruction it holds again; and the turn of an event is
that event. -/
def Sys2Proof.Claims.StepRunsDecoded : Prop :=
  (∀ (s s0 s1 : State) cell rest j n st w, s.agenda = .issue cell :: rest → ({ s with agenda := rest } : State).nextSlot cell = some j →
      s0 = ({ s with agenda := rest } : State).takeTurn cell j → n = cell * 16 + j → s0.strand? n = some st → st.firstTrap = none →
      s0.fetchWords n st = .ok (w, s1) →
      (∀ i t, decodeWords w = .ok i → exec i (s1.enter n st i) = .next t →
        step s = .next (done s rest (if t.retired n st i then t.progressed st.part st.launch else t)))
      ∧ (∀ r, decodeWords w = .error r → step s = .next (done s rest (s1.illegalIssue n))))
  ∧ (∀ (s s0 s1 : State) cell rest j n st w i, s.agenda = .issueLate cell :: rest → ({ s with agenda := rest } : State).nextSlot cell = some j →
      s0 = ({ s with agenda := rest } : State).takeTurn cell j → n = cell * 16 + j → s0.strand? n = some st → st.firstTrap = none →
      s0.fetchWords n st = .ok (w, s1) → decodeWords w = .ok i →
      (accessesMemory i = true → step s = .next (done s rest ((s1.enter n st i).setStrand n
        { st with held := some i, wait := some ⟨.late, s.clock⟩, yielded := none, fenced := false })))
      ∧ (accessesMemory i = false → ∀ t, exec i (s1.enter n st i) = .next t →
        step s = .next (done s rest (if t.retired n st i then t.progressed st.part st.launch else t))))
  ∧ (∀ (s : State) n rest st i k since t, s.agenda = .retry n :: rest → s.strand? n = some st → st.held = some i → st.wait = some ⟨k, since⟩ →
      k ≠ .parked → (∀ q va, k ≠ .faultPending q va) → k ≠ .xreq → k ≠ .lanes → st.preReq = none → st.trapPend = none → st.halting = false →
      exec i { s with agenda := rest, actor := n } = .next t →
      step s = .next (done s rest (if t.retired n st i then t.progressed st.part st.launch else t)))
  ∧ (∀ (s : State) e rest t, s.agenda = .event e :: rest → e.encodable = false → (∀ n, e ≠ .illegalInstrIssue n) → (∀ n, e ≠ .instructionFetchFault n) →
      exec e { s with agenda := rest } = .next t → step s = .next (done s rest t))

/-- R72, R75, R76, R294: the bytes at the PC are read and the instruction they decode to is executed by the step. -/
def Obligations.StepRunsDecoded : Prop := Sys2Proof.Claims.FetchReadsMemory ∧ Sys2Proof.Claims.StepRunsDecoded


/-- Every turn goes on: no step faults and none refuses, from any state. -/
def Sys2Proof.Claims.StepGoesOn : Prop := ∀ s, ∃ t, step s = .next t

/-- An instruction stops the machine only in a slot that holds no strand, and never refuses. -/
def Sys2Proof.Claims.ExecGoesOn : Prop :=
  ∀ i s, (∃ t, exec i s = .next t) ∨ (i.encodable = true ∧ s.me? = none ∧ exec i s = .fault .noStrand)

/-- The model stops nowhere but at an empty slot: every step answers a next state (a property of the model, not a rule). -/
def Obligations.MachineGoesOn : Prop := Sys2Proof.Claims.StepGoesOn ∧ Sys2Proof.Claims.ExecGoesOn


/-- R70, R74, R75: an instruction that does not decode raises ILLEGAL_INSTR with subcode 0 at its own PC, and a fetch that faults raises its fault there; a fetch from a page that
is not present opens or joins the page's fault record and waits. -/
def Obligations.IssueFaults : Prop :=
  ∀ (s : State) n st, s.strand? n = some st →
    exec (.illegalInstrIssue n) s = .next ((s.setStrand n { st with wait := none, yielded := none }).deliver n (illegal 0))
    ∧ (∀ t, s.fetchWords n st = .trap t →
        exec (.instructionFetchFault n) s = .next ((s.setStrand n { st with wait := none, yielded := none }).deliver n t))
    ∧ (∀ va k, s.fetchWords n st = .notPresent va k → ∃ t : State, ∃ u : Strand, exec (.instructionFetchFault n) s = .next t ∧ t.strand? n = some u ∧ u.pc = st.pc
        ∧ t.mem = s.mem ∧ (∃ seq, u.wait.map Wait.kind = some (.faultPending seq va)
            ∧ ∀ x, s.part? st.part = some x → ∃ y r, t.part? st.part = some y ∧ r ∈ y.faults ∧ r.seq = seq ∧ Agent.slot n ∈ r.joined))

/-- Memory is listed in its one canonical form after reset: it lists nothing. -/
def Sys2Proof.Claims.ResetMemory : Prop := State.reset.memOk ∧ ∀ a, State.reset.byte a = 0

/-- Memory keeps its canonical form: from any state whose memory is canonical every step leads to such a state. -/
def Obligations.StepKeepsMemory : Prop := ∀ s t, s.memOk → step s = .next t → t.memOk

/-- R366, R335, R336, R354, R356, R365, R369: what the host reads of a module that reset has just left: READY, PHASE, FWFAIL, HBMOK, HASPUP and WBASE 0, every queue
register, view-engine register, link register, mailbox field and error counter 0, no partition, and no strand, crew or launch. -/
def Sys2Proof.Claims.ResetState : Prop :=
  State.reset.bar0Read 0 = 0 ∧ State.reset.bar0Read 8 = 0
  ∧ (∀ k, k < 192 → State.reset.bar0Read (0x1000 + 8 * k) = 0)
  ∧ (∀ off, 0x100000 ≤ off → off < 0x31C000 → State.reset.bar0Read off = 0)
  ∧ (∀ off, 0x700000 ≤ off → off < 0x701000 → State.reset.bar0Read off = 0)
  ∧ State.reset.bar0Read 0x400040 = 0
  ∧ State.reset.parts = [] ∧ State.reset.slots = [] ∧ State.reset.irqs = []
  ∧ (∀ line, State.reset.lineState line = 0) ∧ (∀ c tag, tag < 64 → (State.reset.cell c).tagReady.getLsbD tag = true)

/-- R335, R336, R354, R356, R365 to R367, R369: what reset leaves; the values the spec does not give are the model's (assumption 4). -/
def Obligations.ResetState : Prop := Sys2Proof.Claims.ResetMemory ∧ Sys2Proof.Claims.ResetState


namespace Sys2Proof.Claims
open Sys2Proof.Machine

/-- The copy-engine instructions: guard, words, kind, destination, source and descriptor registers, engine words and replica address. -/
inductive CopyRow : Instr → Guard → Nat → Nat → Reg → Reg → Reg → EngineWords → Option (BitVec 64) → Prop
  | copy (g d a b e x) : CopyRow (.copy g d a b e x) g (wordsOf x) 0 d a b e x
  | getx (g d a b e x) : CopyRow (.getx g d a b e x) g (wordsOf x) 1 d a b e x
  | putx (g d a b e) : CopyRow (.putx g d a b e) g 3 2 d a b e none

/-- The acting strand issues an engine command: it owns the tag and has nothing outstanding. -/
structure RunsEngine (s : State) (st : Strand) (g : Guard) (tag : Nat) : Prop where
  runs : Runs s st g
  settled : st.Settled
  owner : (s.cell (cellOf s.actor)).ownsTag (slotOf s.actor) tag = true

/-- The bytes of a descriptor, and what it must be aligned to. -/
def descSize (kind : Nat) : Nat := if kind = 0 then 128 else 16

/-- The descriptor of a copy-engine command and its operands pass the checks of R220 or R222. -/
def CopyAccepted (kind : Nat) (e : EngineWords) (desc : List (BitVec 8)) (dst base off : BitVec 64) : Prop :=
  if kind = 0 then copyDescBad e desc = false ∧ copyChecks e desc dst base = .ok ()
  else listDescBad e desc = false ∧ off.toNat + 16 + field desc 0 4 * (4 + 4 * field desc 5 1) ≤ 98304 ∧ indexChecks (kind == 2) e desc dst base = .ok ()

/-- A command has been kicked to a hart: it stands at the tail of the hart's queue with its operands, its tag is not READY and names the slot, the
strand has retired and memory is as it was (R216). -/
structure Kicked (s t : State) (st : Strand) (words h tag : Nat) (c : Command) : Prop where
  me : t.me? = some (st.advance words)
  queue : (t.hart h).queue = (s.hart h).queue ++ [c]
  running : (t.hart h).running = (s.hart h).running
  notReady : (t.cell (cellOf s.actor)).tagReady.getLsbD tag = false
  otherTags : ∀ k, k < 64 → k ≠ tag → (t.cell (cellOf s.actor)).tagReady.getLsbD k = (s.cell (cellOf s.actor)).tagReady.getLsbD k
  slot : NMap.get? (t.cell (cellOf s.actor)).tagSlot tag = some (slotOf s.actor)
  issuer : c.cell = cellOf s.actor ∧ c.slot = slotOf s.actor ∧ c.part = st.part ∧ c.launch = st.launch
  mem : t.mem = s.mem

/-- The forms of XREQ with their function numbers (R226). -/
inductive XreqRow : (Guard → BitVec 3 → Reg → Reg → Instr) → Nat → Prop
  | layout : XreqRow .xreqLayout 0
  | quant : XreqRow .xreqQuant 1
  | cksum : XreqRow .xreqCksum 2

end Sys2Proof.Claims

/-! ### Engines (10_message_task_engine_instructions, 17_engines_and_compression) -/

/-- R216, R219, R220, R222: COPY, GETX and PUTX kick their command to a copy hart of the cluster that holds fewer commands, once the tag is READY
and the queue has room; a tag of another strand, a misaligned or malformed descriptor trap and kick nothing. The model's choices here: the
commands a hart holds, in the choice of the hart and in the room, are those queued and those running (assumption 51), and the faddr of the
trap of a malformed descriptor (assumption 36). -/
def Obligations.CopyIssue : Prop :=
  ∀ i g w kind d a b e x, CopyRow i g w kind d a b e x → ∀ s st, isPort d = false → isPort a = false → isPort b = false →
    let off := st.g b
    let flat := lmemBase (cellOf s.actor) + off.toNat
    let desc := s.bytes flat (descSize kind)
    let h := s.pickHart (here s)
    (RunsEngine s st g e.tag.toNat → off.toNat % descSize kind = 0 → off.toNat + descSize kind ≤ 98304 → s.poisonedRange flat (descSize kind) = false →
      CopyAccepted kind e desc (st.g d) (st.g a) off → (s.cell (cellOf s.actor)).tagReady.getLsbD e.tag.toNat = true → (s.hart h).held < 64 →
      ∃ t c, exec i s = .next t ∧ Kicked s t st w h e.tag.toNat c ∧ c.coll = false ∧ c.kind = kind ∧ c.dst = st.g d ∧ c.src = st.g a ∧ c.third = off
        ∧ c.desc = desc ∧ c.eng = e ∧ c.replica = x ∧ c.started = false ∧ c.startAt = 0 ∧ c.loaded = [] ∧ c.stored = [])
    ∧ (Runs s st g → st.Settled → (s.cell (cellOf s.actor)).ownsTag (slotOf s.actor) e.tag.toNat = false → exec i s = .next (s.deliver s.actor (permission 1)))
    ∧ (RunsEngine s st g e.tag.toNat → off.toNat % descSize kind ≠ 0 → exec i s = .next (s.deliver s.actor (alignTrap 2 off)))
    ∧ (RunsEngine s st g e.tag.toNat → off.toNat % descSize kind = 0 → off.toNat + descSize kind ≤ 98304 → s.poisonedRange flat (descSize kind) = false →
        (if kind = 0 then copyDescBad e desc else listDescBad e desc) = true → exec i s = .next (s.deliver s.actor (permission 6 off)))
    ∧ (RunsEngine s st g e.tag.toNat → off.toNat % descSize kind = 0 → off.toNat + descSize kind ≤ 98304 → s.poisonedRange flat (descSize kind) = false →
        CopyAccepted kind e desc (st.g d) (st.g a) off →
        (s.cell (cellOf s.actor)).tagReady.getLsbD e.tag.toNat = false ∨ 64 ≤ (s.hart h).held → exec i s = .next (s.setMe (st.await .poll s.clock)))

/-- R216, R223, R226, R332, R334: COLL kicks its command, with its descriptor and its step-table header, to the collective engine of its die; XREQ hands its parameter
block to an idle coprocessor and waits, answers 0 at once when it is busy, and at its completion gets its two results and all ones. -/
def Obligations.CollAndTransform : Prop :=
  (∀ g a e s st grp spot, isPort a = false → RunsEngine s st g e.tag.toNat → (∀ line, s.isPoisoned line = false) →
    let off := st.g a
    let desc := s.bytes (lmemBase (cellOf s.actor) + off.toNat) 64
    let va := wordAt desc 40
    let h := collHart (here s)
    off.toNat % 64 = 0 → off.toNat + 64 ≤ 98304 → (s.part? st.part).bind (fun p => NMap.get? p.groups (field desc 8 4)) = some grp →
    collDescBad desc (field grp 0 4) = false → field desc 24 8 % collWidth (field desc 2 1) = 0 → field desc 32 8 % collWidth (field desc 2 1) = 0 →
    va.toNat % 64 = 0 → overWindow va 64 = false → s.reach st .read va = .ok spot → spot.cls = 0 → spot.mt = 0 → spot.flat < peerBase →
    let hdr := s.bytes spot.flat 64
    stepHeaderBad hdr grp s.moduleNo.toNat st.part (here s / 96) = false →
    (s.cell (cellOf s.actor)).tagReady.getLsbD e.tag.toNat = true → (s.hart h).held < 16 →
    ∃ t c, exec (.coll g a e) s = .next t ∧ Kicked s t st 3 h e.tag.toNat c ∧ c.coll = true ∧ c.dst = wordAt desc 32 ∧ c.src = wordAt desc 24
      ∧ c.third = va ∧ c.desc = desc ++ hdr ∧ c.eng = e ∧ c.entry = 0)
  ∧ (∀ r fn, XreqRow r fn → ∀ g d a b s st, isPort a = false → isPort b = false → Runs s st g → st.Settled → (∀ x, st.wait ≠ some x) →
    let va := st.g a
    let flat := lmemBase (cellOf s.actor) + va.toNat
    va.toNat % 64 = 0 → va.toNat + 64 ≤ 98304 →
    ((s.cluster (here s)).coproc ≠ none → exec (r g d a b) s = .next (s.setMe ((st.setP d 0).advance 1)))
    ∧ ((s.cluster (here s)).coproc = none → ∃ t x, exec (r g d a b) s = .next t ∧ t.me? = some (st.await .xreq s.clock) ∧ t.mem = s.mem
        ∧ (t.cluster (here s)).coproc = some x ∧ x.slot = s.actor ∧ x.fn = fn ∧ x.block = s.bytes flat 64 ∧ x.loaded = [] ∧ x.stored = [] ∧ x.d = d ∧ x.ra = a ∧ x.rb = b
        ∧ (s.isPoisoned (lineOf flat) = true → x.status = 3 ∧ x.stopped = true)
        ∧ (s.isPoisoned (lineOf flat) = false → x.bad = true → x.status = 6 ∧ x.stopped = true)
        ∧ (s.isPoisoned (lineOf flat) = false → x.bad = false → x.status = 0 ∧ x.stopped = false)))
  ∧ (∀ s n st x, (s.cluster (clusterOf n)).coproc = some x → s.strand? n = some st → x.slot = n → x.done = true → isPort x.ra = false → isPort x.rb = false →
    ∃ t v, exec (.xreqCompletion n) s = .next t ∧ (t.cluster (clusterOf n)).coproc = none ∧ t.mem = s.mem
      ∧ t.strand? n = some ((((st.setG x.ra v).setG x.rb (BitVec.ofNat 64 (x.status * 2 ^ 56 + x.doneCount % 2 ^ 48))).setP x.d 0xFFFF).advance 1)
      ∧ (x.fn = 0 → v = BitVec.ofNat 64 (x.stored.length * x.srcBytes))
      ∧ (x.fn = 1 → v = BitVec.ofNat 64 (x.stored.filter fun j => decide (x.units ≤ j)).length)
      ∧ (x.fn = 2 → x.stopped = false → v = BitVec.ofNat 64 (crc32c (x.fld 24 4) (x.loaded.flatMap Prod.snd))))

/-- R215 to R218, R220, R221, R243, R249, R250, R311, R320: the steps of a hart's command. It starts from the head of the queue once its wait is satisfied, its elements are read
and written, none before an earlier access of the hart that it overlaps (assumption 52), its destination lines take their transition, its semaphore is signalled and its mailbox
word is written once the commands before it have written theirs, its tag becomes READY, and a command that is to be paused goes into its strand's context,
with its own mailbox write in the same order. -/
def Obligations.EngineSteps : Prop :=
  (∀ s h c rest, (s.hart h).queue = c :: rest →
    (c.waited = true ∨ c.eng.wt = 0 →
      exec (.engineCommandStart h) s = .next (s.setHart h ⟨rest, (s.hart h).running ++ [{ c with started := true, waited := true }]⟩))
    ∧ (c.waited = false → c.eng.wt ≠ 0 → (s.cluster (c.cell / 8)).semWaiters = [] → c.eng.wt.toNat ≤ (s.cluster (c.cell / 8)).sem c.eng.ws.toNat →
      ∃ t, exec (.engineCommandStart h) s = .next t ∧ t.hart h = ⟨rest, (s.hart h).running ++ [{ c with started := true, waited := true }]⟩
        ∧ (t.cluster (c.cell / 8)).sem c.eng.ws.toNat = (s.cluster (c.cell / 8)).sem c.eng.ws.toNat - c.eng.wt.toNat)
    ∧ (c.waited = false → c.eng.wt ≠ 0 → (s.cluster (c.cell / 8)).semWaiters = [] → (s.cluster (c.cell / 8)).sem c.eng.ws.toNat < c.eng.wt.toNat →
      ∃ t, exec (.engineCommandStart h) s = .next t ∧ t.hart h = s.hart h ∧ (t.cluster (c.cell / 8)).semWaiters = [⟨c.eng.ws.toNat, .hart h, c.id, c.eng.wt.toNat⟩]))
  ∧ (∀ s h pos j c spot, pos < 64 → s.cmd? h pos = some c → c.coll = false → c.kind = 0 → c.free (accessNo 0 j) = true → c.mayLoad j = true → s.pauseDue c = false →
    let n := c.bytesOf false
    s.engineSpot c.part c.cell .read c.afresh c.eng.ssp (c.copyPlace false j).1 n = .ok spot → spot.cls = 0 → spot.mt ≠ 5 →
    s.loadPoison none (c.cell / 8) spot.mt spot.flat n = false →
    (s.keptBack (s.beforeAccessOf h pos c 0 j) spot n = false → exec (.loadPerformed (.hart h) (64 * j + pos)) s
      = .next ((s.flitsRead none (c.cell / 8) spot.mt spot.flat n).setCmd h pos { c with loaded := NMap.set c.loaded j (s.loadBytes none (c.cell / 8) spot.mt spot.flat n), hold := .poll }))
    ∧ (s.keptBack (s.beforeAccessOf h pos c 0 j) spot n = true → exec (.loadPerformed (.hart h) (64 * j + pos)) s = .next s))
  ∧ (∀ s h pos j c spot bs, pos < 64 → s.cmd? h pos = some c → c.coll = false → c.kind = 0 → c.eng.conv = false → bs ≠ [] → NMap.get? c.loaded j = some bs →
    c.free (accessNo 1 j) = true → c.mayStore j = true →
    let n := c.bytesOf true
    s.engineSpot c.part c.cell .write c.afresh c.eng.dsp (c.copyPlace true j).1 n = .ok spot → spot.cls = 0 → spot.mt ≠ 5 → s.noStore spot.flat = false →
    s.aliased c spot.flat = false →
    (s.keptBack (s.beforeAccessOf h pos c 1 j) spot n = false → exec (.storePerformed (.hart h) (64 * j + pos)) s
      = .next ((s.storeFrom (c.origin h) (c.cell / 8) spot.mt spot.flat (leBytes (leNat bs) n)).setCmd h pos { c with stored := c.stored ++ [j], hold := .poll }))
    ∧ (s.keptBack (s.beforeAccessOf h pos c 1 j) spot n = true → exec (.storePerformed (.hart h) (64 * j + pos)) s = .next s))
  ∧ (∀ s h pos c line spot, s.cmd? h pos = some c → c.coll = false → c.eng.te = true → c.eng.dsp = 0 → c.allDone = true → c.free (accessNo 2 c.teDone) = true →
    (c.destLines s)[c.teDone]? = some line → s.engineSpot c.part c.cell .rmw c.afresh 0 (BitVec.ofNat 64 (line * 64)) 1 = .ok spot → s.isPoisoned (lineOf spot.flat) = false →
    let entry := s.entryAt c.part spot.cls (lineOf spot.flat) c.eng.q.toNat
    (spot.cls ≠ 0 → s.keptBack (s.beforeCmd h pos) spot 0 = false → verdictOf entry = .allow → (rlOf entry = true → s.clearOf h (s.beforeCmd h pos) = true) →
      exec (.teTransition h pos) s = .next ((s.moveLine (lineOf spot.flat) (nextOf entry)).setCmd h pos { c with teDone := c.teDone + 1, hold := .poll }))
    ∧ (spot.cls = 0 → ∃ t u, exec (.teTransition h pos) s = .next t ∧ t.cmd? h pos = some u ∧ u.stopped = true ∧ u.status = 5))
  ∧ (∀ s h pos c, s.cmd? h pos = some c → c.phase = 0 → s.dataDone c = true → s.hartClear h pos = true →
    let s1 := if c.eng.si = 0 then s else s.setCluster (c.cell / 8) ((s.cluster (c.cell / 8)).signal c.eng.ss.toNat c.eng.si.toNat)
    exec (.engineSignal h pos) s = .next (s1.setCmd h pos { c with phase := 1, progress := s.finalProgress c }))
  ∧ (∀ s h pos c, s.cmd? h pos = some c → s.hartClear h pos = true → (c.phase = 1 ∨ c.phase = 0 ∧ c.eng.si = 0 ∧ s.dataDone c = true) → c.status < 256 →
    OffStacks s (mailboxOf c.cell c.eng.tag.toNat) 8 →
    ∃ t, exec (.mailboxWrite h pos) s = .next t ∧ t.cmd? h pos = some { c with phase := 2 }
      ∧ datum t (mailboxOf c.cell c.eng.tag.toNat) 8 = BitVec.ofNat 64 (c.status * 2 ^ 56 + s.finalProgress c % 2 ^ 48))
  ∧ (∀ s h pos c, s.cmd? h pos = some c → s.hartClear h pos = false → exec (.engineSignal h pos) s = .next s ∧ exec (.mailboxWrite h pos) s = .next s)
  ∧ (∀ s h pos c, s.cmd? h pos = some c → c.phase = 2 →
    ∃ t, exec (.tagReady h pos) s = .next t ∧ (t.hart h).running = (s.hart h).running.eraseIdx pos
      ∧ (t.cell c.cell).tagReady.getLsbD c.eng.tag.toNat = true ∧ t.mem = s.mem
      ∧ ∀ k, k < 64 → k ≠ c.eng.tag.toNat → (t.cell c.cell).tagReady.getLsbD k = (s.cell c.cell).tagReady.getLsbD k)
  ∧ (∀ s h pos c st r p, s.cmd? h pos = some c → s.strand? (c.cell * 16 + c.slot) = some st → st.preReq = some r → s.part? c.part = some p →
    r.since + p.deadline * 1900 ≤ s.clock → c.coll = false → c.phase = 0 → c.stopped = false → s.dataDone c = false → c.atBoundary = true → c.hold ≠ .parked →
    s.hartClear h pos = true → OffStacks s (mailboxOf c.cell c.eng.tag.toNat) 8 →
    ∃ t, exec (.commandPause h pos) s = .next t ∧ (t.hart h).running = (s.hart h).running.eraseIdx pos
      ∧ (t.strand? (c.cell * 16 + c.slot)).map Strand.paused = some (st.paused ++ [(c.eng.tag.toNat, c.pausedAt)])
      ∧ datum t (mailboxOf c.cell c.eng.tag.toNat) 8 = BitVec.ofNat 64 (2 * 2 ^ 56 + c.prefixDone % 2 ^ 48))

/-- R330, R331, R357, R358: the old bytes of a compressed block are read, in a later step the new ones are encoded and appended to the log, and in a later one the map entry
names them; the collector waits at a block that a command is about to name, drops one that its owner no longer names, and copies a live one, whose entry it then makes name the
copy if it still names the block (the steps are assumptions 53 and 54; the vector and the one count of a full log are assumption 68); and a collective engine reads an entry,
which sends to, or receives from, a member of this module or of another, or ends the table (when a SEND transmits, which messages meet a RECV, and what the end waits for are
assumption 55). -/
def Obligations.CompressedAndCollective : Prop :=
  (∀ s h pos tokens c blk js spot, s.cmd? h pos = some c → c.eng.z = true → c.coll = false → c.free (accessNo 3 blk) = true → c.nextBlock = some (blk, js) →
    (∀ j ∈ js, (NMap.get? c.loaded j).isSome = true) →
    s.engineSpot c.part c.cell .write c.afresh 0 (BitVec.ofNat 64 (blk * 4096)) 1 = .ok spot → spot.mt = 5 → spot.cls = 0 →
    (∀ line, s.isPoisoned line = false) → mapHeaderOk spot.zfmt (s.bytes spot.frame 64) = true →
    let owner := entryPlaceOf spot.frame (spot.flat - spot.frame)
    let log := field (s.bytes spot.frame 64) 16 4
    (c.job = none → c.coversBlock js = true → exec (.compressedBlockRewrite h pos tokens) s
      = .next (s.setCmd h pos { c with job := some ⟨blk, List.replicate 4096 0, false, none⟩, hold := .poll }))
    ∧ (∀ b, c.job = none → c.coversBlock js = false → c.refetched = [] → c.replicas = [] → s.keptBack (s.beforeCmd h pos) spot 4096 = false →
      s.readBlock spot.zfmt spot.frame (spot.flat - spot.frame) = .ok b → b ≠ [] → exec (.compressedBlockRewrite h pos tokens) s
      = .next (s.setCmd h pos { c with job := some ⟨blk, b, false, none⟩, hold := .poll }))
    ∧ (∀ jb a s1, c.job = some jb → jb.placed = none →
      let stored := s.encodeBlock spot.zfmt spot.frame owner tokens (c.mergeBlock js jb.base)
      (s.appendLog c.part log stored = some (a, s1) → exec (.compressedBlockRewrite h pos tokens) s
        = .next (s1.setCmd h pos { c with job := some { jb with placed := some (stored.length / 64, a) }, hold := .poll }))
      ∧ (s.appendLog c.part log stored = none → exec (.compressedBlockRewrite h pos tokens) s = .next (s.logFull c.part log)))
    ∧ (∀ jb n a, c.job = some jb → jb.placed = some (n, a) → s.clearOf h (s.beforeCmd h pos) = true → exec (.compressedBlockRewrite h pos tokens) s
      = .next ((s.storeHome owner (leBytes (mapEntry n a) 8)).setCmd h pos
          { c with rewritten := c.rewritten ++ [blk], job := none, hold := .poll, status := if jb.failed then 1 else c.status })))
  ∧ (∀ (s : State) p x log l a n rest, s.part? p = some x → x.logs = [(log, l)] → l.blocks = (a, n) :: rest → (∀ line, s.isPoisoned line = false) →
    (l.moving = none → s.beingNamed p a = true → ∃ t : State, exec (.logCollectorStep p) s = .next t ∧ t.mem = s.mem ∧ t.parts = s.parts)
    ∧ (l.moving = none → s.beingNamed p a = false →
      let owner := field (s.bytes a 24) 16 8
      let entry := leNat (s.bytes owner 8)
      (inDevice owner 8 = false ∨ entryValid entry = false ∨ entryAddr entry ≠ a → ∃ t : State, ∃ y, exec (.logCollectorStep p) s = .next t ∧ t.mem = s.mem ∧ t.part? p = some y
        ∧ (NMap.get? y.logs log).map Log.blocks = some (l.blocks.filter fun b => b.1 != a))
      ∧ (inDevice owner 8 = true → entryValid entry = true → entryAddr entry = a →
        ∀ b s1, State.appendLog { s with fresh := s.fresh + 1 } p log (s.bytes a (64 * n)) = some (b, s1) →
          exec (.logCollectorStep p) s = .next (s1.modLog p log fun y => { y with moving := some (a, owner, b) })))
    ∧ (∀ m owner b, l.moving = some (m, owner, b) → OffStacks s owner 8 →
      let entry := leNat (s.bytes owner 8)
      ∃ t : State, ∃ y, exec (.logCollectorStep p) s = .next t ∧ t.part? p = some y
        ∧ (NMap.get? y.logs log).map Log.blocks = some (l.blocks.filter fun b => b.1 != m) ∧ (NMap.get? y.logs log).map Log.moving = some none
        ∧ (entryValid entry = true → entryAddr entry = m → t.bytes owner 8 = leBytes (mapEntry (entryLines entry) b) 8)
        ∧ (entryValid entry = false ∨ entryAddr entry ≠ m → t.mem = s.mem)))
  ∧ (∀ s engine data c rest e grp, (s.hart (384 + engine)).running = c :: rest → c.coll = true → c.free (accessNo 3 c.entry) = true → c.entry ≠ field c.desc 72 4 →
    c.table = some e → (s.part? c.part).bind (fun p => NMap.get? p.groups (field c.desc 8 4)) = some grp → stepEntryBad (field grp 0 4) e = false →
    let n := field e 16 8
    let peer := field e 2 2
    let clear := s.hartOwes (384 + engine) = false
    (field e 0 1 = 0xFF → clear → s.sent.any (fun m => m.cmd == c.id) = false →
        exec (.collStep engine data) s = .next (s.entryDone (384 + engine) 0 c e))
    ∧ (field e 0 1 = 0 → n ≤ c.loaded.length → clear → (memberOf grp peer).1 = s.moduleNo.toNat →
        exec (.collStep engine data) s
          = .next (State.entryDone { s with sent := s.sent ++ [⟨c.id, c.part, field c.desc 8 4, c.run, c.member, peer, c.sendBytes n⟩] } (384 + engine) 0 c e))
    ∧ (field e 0 1 = 0 → n ≤ c.loaded.length → clear → (memberOf grp peer).1 ≠ s.moduleNo.toNat →
        (∀ l, s.linkTo (memberOf grp peer).1 (field e 1 1) = some l →
          exec (.collStep engine data) s = .next ((s.sendOut (384 + engine) c l n).entryDone (384 + engine) 0 c e))
        ∧ (s.linkTo (memberOf grp peer).1 (field e 1 1) = none → ∃ t u, exec (.collStep engine data) s = .next t ∧ t.mem = s.mem
          ∧ t.cmd? (384 + engine) 0 = some u ∧ u.stopped = true ∧ u.status = 3))
    ∧ ((field e 0 1 = 1 ∨ field e 0 1 = 2) → (memberOf grp peer).1 = s.moduleNo.toNat → NMap.get? c.blocks c.entry = none → ∀ m more,
        s.sent = m :: more → m.part = c.part → m.group = field c.desc 8 4 → m.run = c.run → m.src = peer → m.dst = c.member → m.bytes.length = n * c.collBytes →
        exec (.collStep engine data) s
          = .next (State.setCmd { s with sent := more } (384 + engine) 0 { c with blocks := NMap.set c.blocks c.entry m.bytes, hold := .poll }))
    ∧ ((field e 0 1 = 1 ∨ field e 0 1 = 2) → (memberOf grp peer).1 ≠ s.moduleNo.toNat → NMap.get? c.blocks c.entry = none → data.length = n * c.collBytes →
        exec (.collStep engine data) s = .next (s.setCmd (384 + engine) 0 { c with blocks := NMap.set c.blocks c.entry data, hold := .poll }))
    ∧ ((field e 0 1 = 1 ∨ field e 0 1 = 2) → (NMap.get? c.blocks c.entry).isSome = true → n ≤ c.stored.length → clear →
        exec (.collStep engine data) s = .next (s.entryDone (384 + engine) 0 c e)))
  ∧ (∀ s engine data c rest spot, (s.hart (384 + engine)).running = c :: rest → c.coll = true → c.free (accessNo 5 c.entry) = true →
    c.entry ≠ field c.desc 72 4 → c.table = none → s.engineSpot c.part c.cell .read c.afresh 0 c.tableVa 64 = .ok spot → spot.cls = 0 → spot.mt ≠ 5 →
    s.keptBack (s.beforeAccessOf (384 + engine) 0 c 5 c.entry) spot 64 = false → s.loadPoison none (c.cell / 8) spot.mt spot.flat 64 = false →
    exec (.collStep engine data) s = .next ((s.flitsRead none (c.cell / 8) spot.mt spot.flat 64).setCmd (384 + engine) 0
      { c with table := some (s.loadBytes none (c.cell / 8) spot.mt spot.flat 64), hold := .poll }))

namespace Sys2Proof.Claims
open Sys2Proof.Machine

/-- The strand in slot n holds an instruction at which it waits, and may try it again. -/
structure Holds (s : State) (n : Nat) (st : Strand) (i : Instr) (k : WaitKind) : Prop where
  here : s.strand? n = some st
  held : st.held = some i
  waits : st.wait.map Wait.kind = some k
  free : st.preReq = none ∧ st.trapPend = none ∧ st.halting = false

/-- The state after an instruction of the strand in slot n: one that has retired advances the progress counter of its launch's queue (R317). -/
def counted (n : Nat) (st : Strand) (i : Instr) (t : State) : State := if t.retired n st i then t.progressed st.part st.launch else t

end Sys2Proof.Claims

/-! ### Events of strands and of memory (05_scalar, 06_memory, 11_system_and_trap, 12_ordering_model, 14_memory_hierarchy, 19_image) -/

/-- R122, R136, R137, R204, R207, R123, R213, R215, R229, R251, R368: what ends a strand's wait or the strand. A port or queue wait beyond its launch's limit raises
PORT_STALL; WAITRS gets 1 at its deadline; a reservation is lost after 32 instructions; a YIELD holds its slot for 16 cycles; a pending trap is
taken once the accesses are performed; a halted strand leaves its slot and its crew's barrier; the first semaphore waiter whose threshold is met
takes it; a parity error halts its strand with a crew error record. A HALT in hand that meets poison traps instead (R130). -/
def Obligations.StrandEvents : Prop :=
  (∀ s n st w l, s.strand? n = some st → st.wait = some w → s.launch? st.part st.launch = some l → w.since + l.stall < s.clock →
    (w.kind = .portSend → exec (.portStall n) s = .next (s.deliver n (mkTrap 0x09 0)))
    ∧ (w.kind = .enqFull → exec (.enqStall n) s = .next (s.deliver n (mkTrap 0x09 1))))
  ∧ (∀ s n st w l, s.strand? n = some st → st.wait = some w → s.launch? st.part st.launch = some l → s.clock ≤ w.since + l.stall →
    exec (.portStall n) s = .next s ∧ exec (.enqStall n) s = .next s)
  ∧ (∀ s n st g d a deadline since, s.strand? n = some st → st.wait = some ⟨.waitrs deadline, since⟩ → st.held = some (.waitrs g d a) →
    (∀ r x s1, s.reservation st = some r → r.isLost = false → r.memType ≠ 4 → st.wcbuf = none → st.allows g = true → st.cdl = false →
      readSources st { s with actor := n } [a] (some d) = .ok ([x], s1) → deadline ≤ s.clock → since + x.toNat % 2 ^ 32 ≤ s.clock →
      ∃ t, exec (.waitrsTimeout n) s = .next t ∧ t.mem = s.mem ∧ t.slots = (writeDest (st.advance 1) s1 d 1).slots
        ∧ t.cells = (writeDest (st.advance 1) s1 d 1).cells)
    ∧ (s.clock < deadline → exec (.waitrsTimeout n) s = .next s))
  ∧ (∀ s n st, s.strand? n = some st → ∃ t, exec (.reservationInstructionLimit n) s = .next t ∧ t.strand? n = some st ∧ t.mem = s.mem
    ∧ t.resv = s.resv.map fun r => if r.ownedBy st && decide (32 < r.count) then { r with lost := true } else r)
  ∧ (∀ s n st since slots, s.strand? n = some st → st.yielded = some (since, slots) →
    (since + 16 ≤ s.clock → exec (.yieldExpiry n) s = .next (s.setStrand n { st with yielded := none }))
    ∧ (s.clock < since + 16 → exec (.yieldExpiry n) s = .next s))
  ∧ (∀ s n st t, s.strand? n = some st → st.trapPend = some t → st.wcbuf = none →
    (st.window = [] → exec (.trapDelivery n) s = .next (s.takeTrap n t)) ∧ (st.window ≠ [] → exec (.trapDelivery n) s = .next s))
  ∧ (∀ s n st, s.strand? n = some st → st.halting = true → st.window = [] → st.wcbuf = none →
    (st.held = none ∨ st.poison = [] → s.canEnd n st = true → ∃ t, exec (.strandEnd n) s = .next t ∧ t.strand? n = none ∧ t.mem = s.mem
      ∧ ∀ c, s.crew? st.part st.launch st.crew = some c →
        ∃ d, t.crew? st.part st.launch st.crew = some d ∧ d.m = c.m - 1
          ∧ (c.a = c.m - 1 → c.a ≠ 0 → d.a = 0 ∧ d.phase = c.phase + 1) ∧ (c.a ≠ c.m - 1 → d.a = c.a ∧ d.phase = c.phase))
    ∧ (∀ p more, st.held ≠ none → st.poison = p :: more →
      exec (.strandEnd n) s = .next ((s.setStrand n { st with halting := false }).deliver n (translation 4 p.2)))
    ∧ (st.held = none ∨ st.poison = [] → s.canEnd n st = false → exec (.strandEnd n) s = .next s))
  ∧ (∀ s k i w, (s.cluster k).ripe i = some w → ∃ t, exec (.semaphoreWaitStep k i) s = .next t ∧ t.mem = s.mem
    ∧ (t.cluster k).sem i = (s.cluster k).sem i - w.need
    ∧ (∀ n st, w.who = .slot n → s.strand? n = some st → t.strand? n = some (st.advance 1))
    ∧ (∀ h, w.who = .hart h → (t.hart h).queue = (s.hart h).queue.map fun c => if c.id = w.cmd then { c with waited := true } else c))
  ∧ (∀ s n st x, s.strand? n = some st → s.part? st.part = some x → ∃ t, exec (.parityError n) s = .next t ∧ t.mem = s.mem
    ∧ (t.part? st.part).map Partition.errs = some (x.errs
        ++ [errRecord st.pc.toNat st.launch st.crew st.index st.stage 0x0406 0 0 (s.pcn (cellOf n))])
    ∧ (t.cluster (clusterOf n)).corr = min ((s.cluster (clusterOf n)).corr + 1) 0xFFFFFFFF
    ∧ (s.canEnd n st = true → t.strand? n = none))

/-- An interrupt vector is raised, or noted in the pending-bit array while it is masked (R335, R340; the mask's place is assumption 67). -/
structure Raised (s t : State) (v : Nat) : Prop where
  now : s.masked v = false → t.irqs = s.irqs ++ [v]
  later : s.masked v = true → t.irqs = s.irqs ∧ v ∈ t.msixPending

/-- No strand in a slot has spill locations, whose bytes R13 leaves unpredictable. -/
def Unspilled (s : State) : Prop := ∀ x ∈ s.slots, x.2.spills = false

/-- R5, R132, R136, R245, R246: the bytes of a store at a home read back as they were written, other bytes keep their values, the reservations on its lines are
lost and, for an agent of a cluster and a read-mostly page, that cluster's copies of them are gone; a load takes a byte from the combining buffer, else from the
cluster's copy of a read-mostly line, else from the home. -/
def Sys2Proof.Claims.MemoryBytes : Prop :=
  (∀ (s : State) a (bs : List (BitVec 8)), OffStacks s a bs.length → (s.storeHome a bs).bytes a bs.length = bs)
  ∧ (∀ (s : State) a (bs : List (BitVec 8)) x, x < a ∨ a + bs.length ≤ x → (s.storeHome a bs).byte x = s.byte x)
  ∧ (∀ (s : State) a (bs : List (BitVec 8)), ∀ r ∈ (s.storeHome a bs).resv, r.line ∈ linesOf a bs.length → r.lost = true)
  ∧ (∀ (s : State) who k mt a (bs : List (BitVec 8)) x, (s.storeFrom who k mt a bs).byte x = (s.storeHome a bs).byte x)
  ∧ (∀ (s : State) who k a (bs : List (BitVec 8)), ∀ line ∈ linesOf a bs.length, NMap.get? ((s.storeFrom who k 1 a bs).cluster k).copies line = none)
  ∧ (∀ (s : State) who k mt a (bs : List (BitVec 8)) other, other ≠ k → (s.storeFrom who k mt a bs).cluster other = s.cluster other)
  ∧ (∀ (s : State) k mt a n, (mt = 1 → ∀ line ∈ linesOf a n, NMap.get? (s.cluster k).copies line = none) → s.loadBytes none k mt a n = s.bytes a n)
  ∧ (∀ (s : State) (b : WcBuf) k mt a v, b.line = a / 64 → NMap.get? b.bytes (a % 64) = some v → s.loadByte (some b) k mt a = v)
  ∧ (∀ (s : State) b k a line, heldByte b a = none → NMap.get? (s.cluster k).copies (a / 64) = some line →
    s.loadByte b k 1 a = line.extractLsb' (8 * (a % 64)) 8)

/-- R134, R139, R144, R146, R248, R262, R263: an atomic or staged access that waited is performed at its home as its instruction says, and a parked one when its line's wake
pass comes to it: it is performed, parks again at the tail, or faults; one that retires so counts as progress (R317). That the strand's instruction is executed afresh for it is assumption 10. -/
def Sys2Proof.Claims.HomeEvents : Prop :=
  (∀ r e f, AmoRow r e f → ∀ g dw d a b sp q s n st i w k spot x y s1, Holds s n st i k → k = .poll ∨ k = .late →
    (i = e g dw d a b sp q ∧ w = 3) ∨ (i = r g dw d a b ∧ w = 1 ∧ sp = 0) → st.allows g = true →
    readSources st { s with actor := n } [a, b] (some d) = .ok ([x, y], s1) → s1.locate st .rmw sp x (bytesOf dw) = .ok spot →
    Serves s1 st spot → spot.mt ≠ 5 → (sp = 5 → x.toNat < 0xFF000) → (qRelease q = true → s.owes st.origin = false) →
    let old := datum s1 spot.flat (bytesOf dw)
    exec (.atomicPerformed n) s = .next (counted n st i (ordered spot.mt
      (finish (s1.storeFrom st.origin (clusterOf n) spot.mt spot.flat (leBytes (swap f dw old y).toNat (bytesOf dw))) w d (seen dw old)))))
  ∧ (∀ i g tr d a b w ww q disp s n st k spot, Holds s n st i k → k = .poll ∨ k = .late → st.allows g = true → st.Settled →
    d.toNat < 28 → a.toNat < 28 → b.toNat < 28 →
    let s0 := { s with actor := n }
    let m := bytesOf !ww
    s0.locate st .rmw 0 (st.g a + st.g b + disp) m = .ok spot → spot.mt ∉ [3, 4, 5] → s.noStore spot.flat = false → spot.cls ≠ 0 →
    let entry := s0.entryAt st.part spot.cls (lineOf spot.flat) tr.toNat
    verdictOf entry = .allow → (qRelease q = true ∨ rlOf entry = true → s.owes st.origin = false) →
    (SldRow i g tr d a b w ww q disp → accessOf entry = 1 → exec (.stagedAccessAtHome n) s
      = .next (counted n st i (finish ((readHome s0 spot m).moveLine (lineOf spot.flat) (nextOf entry)) w d (seen (!ww) (datum s spot.flat m)))))
    ∧ (SstRow i g tr d a b w ww q disp → accessOf entry = 2 → exec (.stagedAccessAtHome n) s
      = .next (counted n st i (retire ((s0.storeFrom st.origin (clusterOf n) spot.mt spot.flat (leBytes (st.g d).toNat m)).moveLine (lineOf spot.flat) (nextOf entry)) w))))
  ∧ (∀ i g tr d a b w ww q disp, SldRow i g tr d a b w ww q disp → ∀ s n st spot line rest, Holds s n st i .parked → s.passes = [⟨line, .slot n :: rest, false⟩] →
    st.allows g = true → st.Settled → d.toNat < 28 → a.toNat < 28 → b.toNat < 28 →
    let va := st.g a + st.g b + disp
    let m := bytesOf !ww
    let s0 := { s with actor := n, passes := [⟨line, rest, false⟩], parked := dropFirst (fun p => p.line == line && p.who == .slot n) s.parked }
    s0.locate st .rmw 0 va m = .ok spot → spot.mt ∉ [3, 4, 5] → s.noStore spot.flat = false → spot.cls ≠ 0 → lineOf spot.flat = line →
    let entry := s0.entryAt st.part spot.cls line tr.toNat
    (verdictOf entry = .allow → accessOf entry = 1 → (qRelease q = true ∨ rlOf entry = true → s.owes st.origin = false) → exec (.parkReevaluation line) s
      = .next ((counted n st i (finish ((readHome s0 spot m).moveLine line (nextOf entry)) w d (seen (!ww) (datum s spot.flat m)))).endPass line))
    ∧ (verdictOf entry = .park → (qRelease q = true → s.owes st.origin = false) → st.cdl = false → s0.parkCount (clusterOf n) < 256 → exec (.parkReevaluation line) s
      = .next ((State.setMe { s0 with parked := s0.parked ++ [⟨line, tr.toNat, .slot n, st.part, spot.cls⟩] } (st.await .parked s.clock)).endPass line))
    ∧ (verdictOf entry = .fault → (qRelease q = true → s.owes st.origin = false) → exec (.parkReevaluation line) s = .next ((s0.deliver n (stagedFault 0 va)).endPass line)))

/-- R2, R133, R245 to R247, R275, R279, R283, R285, R286, R309, R346: memory without an instruction. A cluster fills and drops copies of lines of read-mostly pages, at most 8,192 of
them, a combining buffer drains, a walk's leaf enters the TLB, records for the host are appended, and a memory error is counted, poisons its line, or drops a clean copy of it
(where an error lies is assumption 59). -/
def Sys2Proof.Claims.MemoryEvents : Prop :=
  (∀ s k vline line, s.mostlyLine k vline = some line → NMap.get? (s.cluster k).copies line = none → s.isPoisoned line = false →
    let copy := BitVec.ofNat 512 (leNat (s.bytes (line * 64) 64))
    ((s.cluster k).copies.length < 8192 → exec (.readMostlyFill k vline) s
      = .next ((s.flitsTo (line * 64) 64).setCluster k { s.cluster k with copies := NMap.set (s.cluster k).copies line copy }))
    ∧ (8192 ≤ (s.cluster k).copies.length → ∃ t, ∃ old ∈ (s.cluster k).copies.map Prod.fst, exec (.readMostlyFill k vline) s = .next t ∧ t.mem = s.mem
      ∧ (t.cluster k).copies = NMap.set (NMap.erase (s.cluster k).copies old) line copy))
  ∧ (∀ s k vline, s.mostlyLine k vline = none → exec (.readMostlyFill k vline) s = .next s)
  ∧ (∀ s k line, ∃ t, exec (.readMostlyDrop k line) s = .next t ∧ t.mem = s.mem ∧ NMap.get? (t.cluster k).copies line = none
    ∧ ∀ other, other ≠ line → NMap.get? (t.cluster k).copies other = NMap.get? (s.cluster k).copies other)
  ∧ (∀ s n st b, s.strand? n = some st → st.wcbuf = some b → s.noStore (b.line * 64) = false → (b.bytes.map Prod.fst).Nodup →
    (∀ ob ∈ b.bytes, s.underStack (b.line * 64 + ob.1) = false) →
    ∃ t, exec (.writeCombiningDrain n) s = .next t ∧ t.strand? n = some { st with wcbuf := none }
      ∧ (∀ ob ∈ b.bytes, t.byte (b.line * 64 + ob.1) = ob.2)
      ∧ ∀ a, (∀ ob ∈ b.bytes, a ≠ b.line * 64 + ob.1) → t.byte a = s.byte a)
  ∧ (∀ s n st b, s.strand? n = some st → st.wcbuf = some b → s.noStore (b.line * 64) = true →
    exec (.writeCombiningDrain n) s = .next (s.setStrand n { st with wcbuf := none, poison := st.poison ++ [(.none, b.va)] }))
  ∧ (∀ s k p o va level e, (s.cluster k).owner = some (p, o) → tlbHit (s.cluster k).tlb p va = none → va < 2 ^ 56 → va / 2 ^ 48 ≠ 0xFF →
    s.walk p va = .leaf level e → (s.cluster k).tlb.length < 2048 →
    exec (.pageWalk k va) s = .next (s.setCluster k { s.cluster k with tlb := (s.cluster k).tlb ++ [⟨p, level, va / levelSize level, e⟩] }))
  ∧ (∀ s p x f rest, s.part? p = some x → x.faults = f :: rest → f.appended = false → f.bytes.length = 32 →
    ((x.fprod - x.fcons).toNat < 1024 → ∃ t y, exec (.faultRecordAppend p) s = .next t ∧ t.part? p = some y ∧ y.fprod = x.fprod + 1
      ∧ (OffStacks s (x.fq + 32 * (x.fprod.toNat % 1024)) 32 → t.bytes (x.fq + 32 * (x.fprod.toNat % 1024)) 32 = f.bytes) ∧ Raised s t x.fvec
      ∧ y.faults.head? = some { f with appended := true })
    ∧ (1024 ≤ (x.fprod - x.fcons).toNat → exec (.faultRecordAppend p) s = .next s))
  ∧ (∀ s p x r rest, s.part? p = some x → x.errs = r :: rest → r.length = 32 →
    ((x.eprod - x.econs).toNat < 1024 → ∃ t y, exec (.errorRecordAppend p) s = .next t ∧ t.part? p = some y ∧ y.eprod = x.eprod + 1 ∧ y.errs = rest
      ∧ (OffStacks s (x.eq + 32 * (x.eprod.toNat % 1024)) 32 → t.bytes (x.eq + 32 * (x.eprod.toNat % 1024)) 32 = r) ∧ Raised s t x.evec)
    ∧ (1024 ≤ (x.eprod - x.econs).toNat → exec (.errorRecordAppend p) s = .next s))
  ∧ (∀ s line k, lineCluster line = some k → ∃ t, exec (.memoryError line false) s = .next t ∧ t.isPoisoned line = true ∧ t.mem = s.mem
    ∧ ∀ other, other ≠ line → t.isPoisoned other = s.isPoisoned other)
  ∧ (∀ s line, line * 64 < hostBase → lineCluster line = none → ∃ t, exec (.memoryError line false) s = .next t ∧ t.mem = s.mem
    ∧ ((t.isPoisoned line = true ∧ ∀ other, other ≠ line → t.isPoisoned other = s.isPoisoned other)
      ∨ ((∀ other, t.isPoisoned other = s.isPoisoned other) ∧ ∃ k, (t.cluster k).refetch = min ((s.cluster k).refetch + 1) 0xFFFF)))
  ∧ (∀ s line, hostBase ≤ line * 64 → ∃ t, exec (.memoryError line false) s = .next t ∧ t.mem = s.mem ∧ (∀ other, t.isPoisoned other = s.isPoisoned other)
    ∧ (s.copyHolders line ≠ [] → ∃ k ∈ s.copyHolders line, NMap.get? (t.cluster k).copies line = none
      ∧ (t.cluster k).refetch = min ((s.cluster k).refetch + 1) 0xFFFF))
  ∧ (∀ s line k, lineCluster line = some k → exec (.memoryError line true) s
      = .next (s.setCluster k { s.cluster k with corr := min ((s.cluster k).corr + 1) 0xFFFFFFFF }))

/-- R134, R245 to R248, R262, R263, R275, R279, R283, R285, R309, R346: what stores and loads do to bytes, accesses that are performed without an instruction, and the steps of memory
itself. -/
def Obligations.MemoryEvents : Prop := Sys2Proof.Claims.MemoryBytes ∧ Sys2Proof.Claims.HomeEvents ∧ Sys2Proof.Claims.MemoryEvents


namespace Sys2Proof.Claims
open Sys2Proof.Machine

/-- A command of a queue and the others around it: the earlier ones have been dispatched, and nothing is in its way. -/
structure Stands (s : State) (q : Nat) (c : HostCmd) (pre rest : List HostCmd) : Prop where
  cmds : (s.hq q).cmds = pre ++ c :: rest
  before : ∀ d ∈ pre, d.dispatched = true ∧ d.waiting = false ∧ d.n ≠ c.n
  after : ∀ d ∈ rest, d.waiting = false

/-- The completion of a command with a STATUS (R340). -/
def completion (c : HostCmd) (status : Nat) : List (BitVec 8) := leBytes (seqWord c.n) 4 ++ leBytes status 4 ++ leBytes c.utag 8

/-- The slot of a command in a completion ring in host memory. -/
def ringSlot (s : State) (q : Nat) (c : HostCmd) : Nat := hostBase + (s.hq q).cring.toNat + 16 * (c.n % (s.hq q).size)

/-- A command has ended: it has left its queue, and if its FLAGS ask for it its completion stands at its own slot of a completion ring in host
memory, with its sequence word, STATUS and UTAG, but for bytes that R13 makes unpredictable, and the queue's vector has been raised, or is
pending while it is masked (R335, R337, R340; the mask's place is assumption 67). -/
structure Done (s t : State) (q : Nat) (c : HostCmd) (pre rest : List HostCmd) (status : Nat) : Prop where
  cmds : (t.hq q).cmds = pre ++ rest
  written : c.flags % 2 = 1 → (s.hq q).ctrl.getLsbD 2 = false → Unspilled s → t.bytes (ringSlot s q c) 16 = completion c status
  blurred : c.flags % 2 = 1 → (s.hq q).ctrl.getLsbD 2 = false → ∀ i, i < 16 →
    t.byte (ringSlot s q c + i) = (completion c status).getD i 0 ∨ NMap.get? t.unk (ringSlot s q c + i) ≠ none
  interrupt : c.flags % 2 = 1 → c.flags / 2 % 2 = 1 →
    (s.masked (s.hq q).vector.toNat = false → t.irqs.getLast? = some (s.hq q).vector.toNat)
    ∧ (s.masked (s.hq q).vector.toNat = true → (s.hq q).vector.toNat ∈ t.msixPending)

/-- The slot's strand starts from a record (R30, R298). -/
structure StartsRecord (t : State) (w : Window) (n : Nat) (codelet : Bool) (bs : List (BitVec 8)) (st : Strand) : Prop where
  here : t.strand? n = some st
  pc : st.pc = alignPc (wordAt bs 0)
  codelet : st.cdl = codelet
  launch : st.part = w.part ∧ st.launch = w.id
  allot : st.allot = w.launch.allot
  tiles : st.tfirst = w.firstTile (slotOf n) ∧ st.tcount = w.launch.tiles
  carve : st.carveBase = w.launch.fld 10 2 ∧ st.carveSize = w.launch.fld 12 2

end Sys2Proof.Claims

/-! ### From launch to issue slot (15_scheduling, 16_traps, 19_image) -/

/-- R208, R291 to R293, R295, R298, R310, R313, R318, R319, R361: a migrant arrives behind those that have; a free slot of a started crew's window takes the first
candidate that qualifies; a crew takes one of the clusters that can hold it, on as many of its free cells as the launch asks for, and starts when every
cell has its image; a launch with nothing left, whose stores are all acknowledged, ends with its command; a requested strand leaves its slot for the context cache, whose oldest
context is spilled when it is full; and a stalled queue's strands are pre-empted, then its launches are killed. That a fill first drops codelets with no window is
assumption 30, how long a queue has stalled is assumption 28, and the place of a spilled image in the context area is assumption 50. -/
def Obligations.Scheduling : Prop :=
  (∀ s k pre m, (∀ x ∈ pre, x.1 = true) → (s.cluster k).migrants = pre ++ [(false, m)] →
    ∃ t, exec (.migrantArrival k) s = .next t ∧ (t.cluster k).migrants = pre ++ [(true, m)] ∧ t.mem = s.mem)
  ∧ (∀ s n w c, s.strand? n = none → (s.dropOrphans (cellOf n)).windowAt n = some w → NMap.get? w.launch.crews w.crew = some c → c.started = true →
    let s1 := (s.dropOrphans (cellOf n)).endPreempts w.part
    let cs := (s1.candidates w (cellOf n)).filter (s1.qualifies w n)
    (cs = [] → ∃ t, exec (.hingeFill n) s = .next t ∧ t.strand? n = none)
    ∧ (∀ d rest, cs = d :: rest → (s1.cell (cellOf n)).passed = [] →
      (∀ id bs, d.work = .spawned id bs → ∃ t st, exec (.hingeFill n) s = .next t ∧ StartsRecord t w n false bs st ∧ t.mem = s.mem
        ∧ (t.cell (cellOf n)).runq = dropFirst (fun y => y.1 == id) (s1.cell (cellOf n)).runq)
      ∧ (∀ r, d.work = .ring r → ∃ t st, exec (.hingeFill n) s = .next t ∧ StartsRecord t w n true (s.codeletRecord r.cell r.off) st ∧ st.crew = w.crew
        ∧ t.mem = s.mem ∧ (t.cell (cellOf n)).ring = dropFirst (fun y => y.id == r.id) (s1.cell (cellOf n)).ring)
      ∧ (∀ m, d.work = .packet m → (s1.part? w.part).map Partition.preempting = some [] →
        ∃ t, exec (.hingeFill n) s = .next t ∧ t.mem = s.mem
          ∧ (t.strand? n).map (fun u => { u with left := [] }) = some { w.dress (slotOf n) m.uid m with left := [] })
      ∧ (∀ x, d.work = .context x → x.strand.paused = [] → x.strand.tcount = 0 →
        ∃ t st, exec (.hingeFill n) s = .next t ∧ t.strand? n = some st ∧ t.mem = s.mem ∧ st.pc = x.strand.pc ∧ st.stk = x.strand.stk
          ∧ st.vregs = x.strand.vregs ∧ st.wait = if x.waitCode = 1 then some ⟨.bar x.phase, s.clock⟩ else none)))
  ∧ (∀ s p id l k, id < 2 ^ 16 → s.launch? p id = some l → l.nextCrew = some k → s.clustersFor p l ≠ [] →
    (∀ x, s.part? p = some x → (x.launches.any fun y => decide (y.2.order < l.order) && s.placeable p y.2) = false) →
    ∃ t c k', exec (.crewPlacement (p * 2 ^ 16 + id)) s = .next t ∧ t.crew? p id k = some c ∧ c.cluster = some k' ∧ k' ∈ s.clustersFor p l
      ∧ c.cells.length = l.nCells ∧ (∀ w ∈ c.cells, w.1 ∈ s.cellsFor p k' l) ∧ (c.boot = [] → c.m = l.nCells * l.nSlots))
  ∧ (∀ s p id l lc c, id < 2 ^ 16 → s.launch? p id = some l → NMap.get? l.crews (lc / l.nCells) = some c → c.cluster ≠ none → lc ∉ c.boot →
    let kids := c.boot.filter fun x => (kliParents ((s.container p l.kslot).getD [])).getD x 0xFFFF == lc
    kids ≠ [] →
    (s.crewBlocked p l c = false → ∃ t d, exec (.bootForward (p * 2 ^ 16 + id) lc) s = .next t ∧ t.crew? p id (lc / l.nCells) = some d
      ∧ d.boot = (c.boot.filter fun x => !kids.contains x) ∧ (d.boot = [] → d.m = c.cells.length * l.nSlots))
    ∧ (s.crewBlocked p l c = true → exec (.bootForward (p * 2 ^ 16 + id) lc) s = .next s))
  ∧ (∀ s p id l c pre rest, id < 2 ^ 16 → s.launch? p id = some l → s.launchBusy p (id, l) = false → s.launchOwes p id = false → l.node = none → c.n = l.cmd →
    (s.hq l.queue).cmds = pre ++ c :: rest → (∀ d ∈ pre, d.n ≠ c.n) →
    ∃ t, exec (.launchEnd (p * 2 ^ 16 + id)) s = .next t ∧ t.launch? p id = none ∧ Done s t l.queue c pre rest 0
      ∧ ∀ cell q j, ((t.cell cell).port q).owner ≠ some (p, id, j))
  ∧ (∀ s p id l, id < 2 ^ 16 → s.launch? p id = some l → s.launchBusy p (id, l) = true ∨ s.launchOwes p id = true → exec (.launchEnd (p * 2 ^ 16 + id)) s = .next s)
  ∧ (∀ s n st r, s.strand? n = some st → st.preReq = some r → st.window = [] → st.wcbuf = none → st.mma = none → st.trapPend = none →
    (∀ since, st.wait ≠ some ⟨.xreq, since⟩) → (∀ since, st.wait ≠ some ⟨.late, since⟩) → (s.cell (cellOf n)).outstanding (slotOf n) = [] → freeEntry (s.cluster (clusterOf n)).ctxs ≠ none →
    ∃ t i x, exec (.contextSave n) s = .next t ∧ t.strand? n = none ∧ t.mem = s.mem ∧ NMap.get? (t.cluster (clusterOf n)).ctxs i = some x
      ∧ x.reason = r.reason ∧ x.slot = slotOf n ∧ x.order = s.serial ∧ x.strand.pc = st.pc ∧ (∀ j, j ∈ st.resident → x.strand.entry j = st.entry j) ∧ x.strand.vregs = st.vregs
      ∧ x.tiles = st.grant.map fun i => s.bytes (tileBase (cellOf n) i) 4096)
  ∧ (∀ s k i x p, freeEntry (s.cluster k).ctxs = none → oldestCtx (s.cluster k).ctxs = some (i, x) → s.part? x.strand.part = some p →
    ∃ t j, exec (.contextCacheSpill k) s = .next t ∧ NMap.get? (t.cluster k).ctxs i = none ∧ NMap.get? p.area j = none
      ∧ (t.part? x.strand.part).bind (fun y => NMap.get? y.area j) = some x
      ∧ let a := p.ctxArea + j * 2 ^ 17
        (Unspilled s → a + 2 ^ 17 ≤ deviceEnd → t.bytes a x.image.length = x.image)
        ∧ ∀ b, b < a ∨ a + x.image.length ≤ b → t.byte b = s.byte b)
  ∧ (∀ s q, (s.hq q).t1 ≠ 0 → (s.hq q).t1Done = false → (s.hq q).t1.toNat * 1900 ≤ s.stalledFor q →
    ∃ t, exec (.watchdogT1 q) s = .next t ∧ (t.hq q).t1Done = true ∧ t.mem = s.mem
      ∧ ∀ n st, s.strand? n = some st → st.part = (s.hq q).part → st.launch ∈ s.launchesOf (s.hq q).part q → st.preReq = none →
        (t.strand? n).map Strand.preReq = some (some ⟨2, s.clock, none, false⟩))
  ∧ (∀ s q, (s.hq q).t1 ≠ 0 → (s.hq q).t2.toNat * 1900 ≤ s.stalledFor q →
    ∃ t, exec (.watchdogT2 q) s = .next t ∧ (t.hq q).state = 3 ∧ t.launchesOf (s.hq q).part q = [])

namespace Sys2Proof.Claims
open Sys2Proof.Machine

/-- A view engine is bound and at work in a phase on a line of the frame in hand. -/
structure ViewAt (s : State) (e : Nat) (v : ViewEngine) (p phase i : Nat) : Prop where
  view : s.view e = v
  bound : v.part = some p
  free : v.hold = .poll
  phase : v.phase = phase
  line : v.lines = i

/-- A line of the frame is reached: a sound line of a page that is not compressed. -/
structure ViewReach (s : State) (p : Nat) (k : AccKind) (va : BitVec 64) (spot : Spot) : Prop where
  found : s.translate p 0 true k va = .ok spot
  plain : spot.mt ≠ 5
  sound : s.isPoisoned (lineOf spot.flat) = false

/-- A host write that has an effect only once the module is READY (R367). -/
inductive HostWrite : Instr → Prop
  | doorbell (q v) : HostWrite (.doorbell q v)
  | queueEnable (q) : HostWrite (.queueEnable q)
  | completionConsumerWrite (q v) : HostWrite (.completionConsumerWrite q v)
  | viewConsumerWrite (e v) : HostWrite (.viewConsumerWrite e v)
  | viewFaultClear (e v) : HostWrite (.viewFaultClear e v)
  | haspReplaysClear (n v) : HostWrite (.haspReplaysClear n v)
  | haspModuleWrite (n v) : HostWrite (.haspModuleWrite n v)
  | wbaseWrite (v) : HostWrite (.wbaseWrite v)
  | errorCounterClear (k r v) : HostWrite (.errorCounterClear k r v)
  | registerWrite (o v) : HostWrite (.registerWrite o v)
  | queueConsumerIndexWrite (p b v) : HostWrite (.queueConsumerIndexWrite p b v)
  | attestationRequest (v) : HostWrite (.attestationRequest v)

/-- The fields of BAR0 that REGISTER_WRITE stores, by offset (Tables 18-2, 18-3, 18-11, 18-12, 19-5; a disabled queue for the fields of a descriptor). -/
inductive RegisterField (v : BitVec 64) (s : State) : Nat → State → Prop
  | ring (q) : q < 16384 → (s.hq q).enabled = false → RegisterField v s (0x100000 + 64 * q) (s.setHq q { s.hq q with ring := v })
  | cring (q) : q < 16384 → (s.hq q).enabled = false → RegisterField v s (0x100008 + 64 * q) (s.setHq q { s.hq q with cring := v })
  | vector (q) : q < 16384 → (s.hq q).enabled = false → RegisterField v s (0x100014 + 64 * q) (s.setHq q { s.hq q with vector := v.setWidth 16 })
  | t1 (q) : q < 16384 → (s.hq q).enabled = false → RegisterField v s (0x100020 + 64 * q) (s.setHq q { s.hq q with t1 := v.setWidth 32 })
  | t2 (q) : q < 16384 → (s.hq q).enabled = false → RegisterField v s (0x100024 + 64 * q) (s.setHq q { s.hq q with t2 := v.setWidth 32 })
  | kept (q) : q < 16384 → (s.hq q).enabled = true → RegisterField v s (0x100000 + 64 * q) s
  | viewVector (e) : e < 16 → RegisterField v s (0x300028 + 4096 * e) (s.setView e { s.view e with vector := v.setWidth 16 })
  | linkVector (n) : n < 12 → RegisterField v s (0x310020 + 4096 * n) (s.setLink n { s.link n with vector := v.setWidth 16 })
  | mailboxAddr : RegisterField v s 0x700008 { s with fwAddr := v }
  | mailboxLen : RegisterField v s 0x700010 { s with fwLen := v }
  | mailboxCmd : s.fwStatus ≠ 1 → RegisterField v s 0x700000 { s with fwCmd := v.setWidth 32, fwStatus := 1 }
  | msix (o) : 0x10000 ≤ o → o < 0x18000 →
    RegisterField v s o (State.unmask { s with msixTable := putBytes s.msixTable (o - 0x10000) (leBytes v.toNat 4) })
  | none : RegisterField v s 0x500000 s

end Sys2Proof.Claims

/-! ### View engines and links (13_staged_memory, 18_host_interface) -/

/-- R268, R351 to R356: a view engine takes the lines of its frame, reads them, encodes it, writes its record into the host's ring once there is room, and releases the lines; a fault
abandons the frame. A flit that fails its CRC is replayed and counted, and the link goes down when sixteen replays have failed too. The headers of the temporal unit
come from outside the model and are held to what R351 says of them, and its tile data are free values of the samples that were read (assumption 57); that seventeen failures in a row take the link down and that a good flit
clears the count is assumption 58. -/
def Obligations.ViewsAndLinks : Prop :=
  (∀ s e v p i spot, ViewAt s e v p 0 i → ViewReach s p .rmw (v.lineVa i) spot → spot.cls ≠ 0 →
    let entry := s.entryAt p spot.cls (lineOf spot.flat) (v.fld 1 1)
    (verdictOf entry = .allow → (rlOf entry = true → s.owes (.view e) = false) → exec (.viewTake e i) s = .next ((s.moveLine (lineOf spot.flat) (nextOf entry)).setView e
      { v with hold := .poll, lines := if i + 1 = v.frameLines then 0 else i + 1, phase := if i + 1 = v.frameLines then 1 else 0 }))
    ∧ (verdictOf entry = .fault → ∃ t, exec (.viewTake e i) s = .next t ∧ t.mem = s.mem ∧ Raised s t v.vector.toNat
      ∧ t.view e = { v with fault := true, fframe := BitVec.ofNat 64 v.frame, fphase := 0, fcause := 0x0008, phase := 0, frame := v.frame + 1, lines := 0
                            picture := [], unit := [], hold := .poll }))
  ∧ (∀ s e v p i spot, ViewAt s e v p 3 i → ViewReach s p .rmw (v.lineVa i) spot → spot.cls ≠ 0 →
    let entry := s.entryAt p spot.cls (lineOf spot.flat) (v.fld 2 1)
    verdictOf entry = .allow → (rlOf entry = true → s.owes (.view e) = false) → exec (.viewRelease e i) s = .next ((s.moveLine (lineOf spot.flat) (nextOf entry)).setView e
      (if i + 1 = v.frameLines then { v with hold := .poll, lines := 0, phase := 0, frame := v.frame + 1 } else { v with hold := .poll, lines := i + 1 })))
  ∧ (∀ s e v p k i spot, ViewAt s e v p 1 k → i < v.frameLines → v.hasLine i = false → s.viewBack v i = false → ViewReach s p .read (v.lineVa i) spot → spot.cls = 0 →
    exec (.loadPerformed (.view e) i) s
      = .next ((s.flitsTo spot.flat 64).setView e { v with hold := .poll, picture := NMap.set v.picture i (s.bytes spot.flat 64) }))
  ∧ (∀ s e v p k unit u, ViewAt s e v p 1 k → v.unitHeads unit = some u → (∀ i, i < v.frameLines → v.hasLine i = true) →
    ∃ t, exec (.viewFrameEncode e unit) s = .next t ∧ t.mem = s.mem
      ∧ t.view e = { v with phase := 2, lines := 0, picture := [], unit := s.encoded v u unit, seq := unitSeq v.seq ((readObus unit.length unit).getD []) })
  ∧ (∀ s e v p k unit, ViewAt s e v p 1 k → v.unitHeads unit = none ∨ (∃ i, i < v.frameLines ∧ v.hasLine i = false) → exec (.viewFrameEncode e unit) s = .next s)
  ∧ (∀ s e v p i, ViewAt s e v p 2 i →
    ((v.prod - v.cons).toNat + v.record.length ≤ v.rsize → ∃ t, exec (.viewRecordWrite e) s = .next t ∧ Raised s t v.vector.toNat
      ∧ t.view e = { v with prod := v.prod + BitVec.ofNat 32 v.record.length, frames := v.frames + 1, waitRing := false, phase := 3, lines := 0, unit := [] }
      ∧ (Unspilled s → v.ringBase + v.rsize ≤ 2 ^ 52 → ∀ j, j < v.record.length → t.byte (hostBase + (v.ringBase + (v.prod.toNat + j) % v.rsize) % 2 ^ 52) = v.record.getD j 0))
    ∧ (v.rsize < (v.prod - v.cons).toNat + v.record.length → exec (.viewRecordWrite e) s = .next (s.setView e { v with waitRing := true })))
  ∧ (∀ s n l, n < 12 → s.link n = l → l.up = true →
    exec (.haspFlitReceive n true) s = .next (s.setLink n { l with fails := 0 })
    ∧ (l.fails < 16 → l.replays ≠ BitVec.allOnes 64 →
      exec (.haspFlitReceive n false) s = .next (s.setLink n { l with fails := l.fails + 1, replays := l.replays + 1 }))
    ∧ (16 ≤ l.fails ∨ l.replays = BitVec.allOnes 64 → exec (.haspFlitReceive n false) s = .next (s.setLink n { l with fails := l.fails + 1 }))
    ∧ (17 ≤ l.fails → ∃ t, exec (.haspLinkDown n) s = .next t ∧ (t.link n).up = false ∧ (t.link n).downs = l.downs + 1 ∧ Raised s t l.vector.toNat)
    ∧ (l.fails < 17 → exec (.haspLinkDown n) s = .next s))

/-! ### The host's side of the module (18_host_interface, 19_image_format_and_bring_up) -/

/-- R335, R336, R338, R339, R346, R354, R356, R365, R366, R368: doorbells, the fetch of commands with its refetches, the host's registers, and the window onto device memory. The alignment
of WBASE, the eight bytes of a BAR4 read and the ignored offsets are assumption 17, the completion with STATUS 4 and the QUEUE_FAULT of a stopped queue assumption 19. -/
def Obligations.HostRegisters : Prop :=
  (∀ i s, HostWrite i → s.ready = false → exec i s = .next s)
  ∧ (∀ s q v, s.ready = true → q < 16384 → (s.hq q).enabled = true →
    ((v - (s.hq q).prod).toNat < 2 ^ 31 → ∃ t, exec (.doorbell q v) s = .next t ∧ (t.hq q).prod = v ∧ (t.hq q).cmds = (s.hq q).cmds ∧ t.mem = s.mem
      ∧ (t.hq q).state = if (s.hq q).size < (v - (s.hq q).cons).toNat then 2 else (s.hq q).state)
    ∧ (2 ^ 31 ≤ (v - (s.hq q).prod).toNat → exec (.doorbell q v) s = .next s))
  ∧ (∀ s q b, (s.hq q).mayFetch = true → s.readSlot (s.hq q) = some b →
    ((s.hq q).refetch = none → field b 0 4 = seqWord (s.hq q).cons.toNat → ∃ t d, exec (.commandFetch q) s = .next t ∧ (t.hq q).cmds = (s.hq q).cmds ++ [d]
      ∧ d.n = (s.hq q).cons.toNat ∧ d.bytes = b ∧ d.dispatched = false ∧ d.waiting = false ∧ (t.hq q).cons = (s.hq q).cons + 1)
    ∧ ((s.hq q).refetch = none → field b 0 4 ≠ seqWord (s.hq q).cons.toNat →
      exec (.commandFetch q) s = .next (s.setHq q { s.hq q with refetch := some (0, s.clock) }))
    ∧ ∀ k since, (s.hq q).refetch = some (k, since) → since + 1900 ≤ s.clock →
      (field b 0 4 = seqWord (s.hq q).cons.toNat → ∃ t d, exec (.seqRefetch q) s = .next t ∧ (t.hq q).cmds = (s.hq q).cmds ++ [d] ∧ d.bytes = b
        ∧ (t.hq q).refetch = none)
      ∧ (field b 0 4 ≠ seqWord (s.hq q).cons.toNat → k < 3 → exec (.seqRefetch q) s = .next (s.setHq q { s.hq q with refetch := some (k + 1, s.clock) }))
      ∧ (field b 0 4 ≠ seqWord (s.hq q).cons.toNat → 3 ≤ k → ∃ t, exec (.seqRefetch q) s = .next t ∧ (t.hq q).state = 2 ∧ (t.hq q).cmds = (s.hq q).cmds
        ∧ ((s.hq q).ctrl.getLsbD 2 = false → Unspilled s → t.bytes (hostBase + (s.hq q).cring.toNat + 16 * ((s.hq q).cons.toNat % (s.hq q).size)) 8
            = leBytes (seqWord (s.hq q).cons.toNat) 4 ++ leBytes 4 4)))
  ∧ (∀ s q, s.ready = true → q < 16384 → (s.hq q).enabled = false → s.queueValid q (s.hq q) = true →
    exec (.queueEnable q) s = .next (s.setHq q { s.hq q with ctrl := (s.hq q).ctrl ||| 1, state := 1, progressAt := s.clock, t1Done := false, killed := false }))
  ∧ (∀ s off v t, s.ready = true → RegisterField v s off t → exec (.registerWrite off v) s = .next t)
  ∧ (∀ s v, s.ready = true →
    (∀ q, q < 16384 → exec (.completionConsumerWrite q v) s = .next (s.setHq q { s.hq q with ccons := v }))
    ∧ (∀ e, e < 16 → exec (.viewConsumerWrite e v) s = .next (s.setView e { s.view e with cons := v }))
    ∧ (∀ e, e < 16 → v.getLsbD 1 = true → exec (.viewFaultClear e v) s = .next (s.setView e { s.view e with fault := false }))
    ∧ (∀ n, n < 12 → exec (.haspReplaysClear n v) s = .next (s.setLink n { s.link n with replays := v.setWidth 64 }))
    ∧ (∀ n, n < 12 → exec (.haspModuleWrite n v) s = .next { s with moduleNo := v.setWidth 13 })
    ∧ (∀ k, k < 192 → exec (.errorCounterClear k false v) s = .next (s.setCluster k { s.cluster k with corr := v.toNat })
        ∧ exec (.errorCounterClear k true v) s = .next (s.setCluster k { s.cluster k with refetch := v.toNat % 2 ^ 16 }))
    ∧ ∀ p x, s.part? p = some x → ∃ t u, exec (.queueConsumerIndexWrite p true v) s = .next t ∧ t.part? p = some { x with econs := v }
        ∧ exec (.queueConsumerIndexWrite p false v) s = .next u ∧ u.part? p = some { x with fcons := v })
  ∧ (∀ s v, s.ready = true → ∃ t, exec (.wbaseWrite v) s = .next t ∧ t.mem = s.mem
      ∧ t.wbase = BitVec.ofNat 64 (v.toNat / s.bar4Size * s.bar4Size))
  ∧ (∀ s off n, s.ready = true → off + n ≤ s.bar4Size → s.wbase.toNat + off + n ≤ deviceEnd → s.poisonedRange (s.wbase.toNat + off) n = false →
    (∀ bs : List (BitVec 8), bs.length = n → ∃ t, exec (.bar4Access off (some bs)) s = .next t
      ∧ (OffStacks s (s.wbase.toNat + off) n → t.bytes (s.wbase.toNat + off) n = bs)
      ∧ ∀ a, a < s.wbase.toNat + off ∨ s.wbase.toNat + off + n ≤ a → t.byte a = s.byte a)
    ∧ (n = 8 → exec (.bar4Access off none) s = .next { s with hostRead := s.bytes (s.wbase.toNat + off) 8 }))

/-- Device memory and its line states stay, and every local space is zero (R254, R272). -/
def DeviceKept (s t : State) : Prop :=
  t.lines = s.lines ∧ (∀ a, a < deviceEnd → t.byte a = s.byte a) ∧ ∀ a, deviceEnd ≤ a → a < hostBase → t.byte a = 0

/-- R254, R364, R365, R367, R369: a reset leaves nothing bound and nothing running, and READY if the firmware verifies and every stack trains (both outcomes come from
outside the model, assumption 14); the firmware mailbox stages images and manages image-signing keys; and a report answers the nonce that was asked. Only a reset that
reaches the initialisation of memory (R367 step 3) zeroes device memory and clears line states; that one that stops before leaves them as they were, by R254's
words that no later reset changes them, is assumption 14; that bytes of local spaces read zero after a reset is assumption 5, the nonce that is latched assumption 16, and a
vector of the mailbox is raised as assumption 67 says. -/
def Obligations.BringUp : Prop :=
  (∀ s hasp peers, ∃ t, exec (.moduleReset true 0xFF hasp peers) s = .next t ∧ t.ready = true ∧ t.fwfail = false ∧ t.hbmok = 0xFF ∧ t.haspup = hasp
    ∧ t.slots = [] ∧ t.cells = [] ∧ t.clusters = [] ∧ t.parts = [] ∧ t.hqs = [] ∧ t.views = [] ∧ t.lines = [] ∧ t.poisoned = []
    ∧ t.firmware = s.staged.getD s.firmware ∧ ∀ a, a < hostBase → t.byte a = 0)
  ∧ (∀ s hbm hasp peers, ∃ t, exec (.moduleReset false hbm hasp peers) s = .next t ∧ t.ready = false ∧ t.fwfail = true ∧ t.slots = [] ∧ t.parts = []
    ∧ DeviceKept s t)
  ∧ (∀ s hbm hasp peers, hbm ≠ 0xFF → ∃ t, exec (.moduleReset true hbm hasp peers) s = .next t ∧ t.ready = false ∧ t.fwfail = false ∧ t.hbmok = hbm
    ∧ t.slots = [] ∧ t.parts = [] ∧ DeviceKept s t)
  ∧ (∀ s b, s.mailboxAt 1 = true → s.deviceBytes s.fwAddr.toNat s.fwLen.toNat = some b →
    exec (.firmwareStageImage true) s = .next (State.raise { s with staged := some b, fwStatus := 2 } s.fwVector.toNat)
    ∧ exec (.firmwareStageImage false) s = .next (State.raise { s with staged := none, fwStatus := 3 } s.fwVector.toNat))
  ∧ (∀ s x k, s.mailboxAt 2 = true → s.fwKeySlot.toNat < 8 → s.part? s.fwPart.toNat = some x → s.deviceBytes s.fwAddr.toNat 2592 = some k →
    ∃ t, exec .installImageKey s = .next t ∧ t.part? s.fwPart.toNat = some { x with keys := NMap.set x.keys s.fwKeySlot.toNat k } ∧ t.fwStatus = 2
      ∧ Raised s t s.fwVector.toNat ∧ t.mem = s.mem)
  ∧ (∀ s x, s.mailboxAt 3 = true → s.fwKeySlot.toNat < 8 → s.part? s.fwPart.toNat = some x →
    ∃ t, exec .removeImageKey s = .next t ∧ t.part? s.fwPart.toNat = some { x with keys := NMap.erase x.keys s.fwKeySlot.toNat } ∧ t.fwStatus = 2
      ∧ Raised s t s.fwVector.toNat ∧ t.mem = s.mem)
  ∧ (∀ s, s.ready = true → s.fwStatus = 1 → s.fwCmd ≠ 1 → s.fwCmd ≠ 2 → s.fwCmd ≠ 3 →
    exec .firmwareBadCommand s = .next (State.raise { s with fwStatus := 4 } s.fwVector.toNat))
  ∧ (∀ s v, s.ready = true → s.nonce.length = 64 → ∃ t, exec (.attestationRequest v) s = .next t ∧ t.nonce = s.nonce.take 56 ++ leBytes v.toNat 8
    ∧ t.asked = t.nonce ∧ t.astat = 1 ∧ t.mem = s.mem)
  ∧ (∀ s, s.astat = 1 → s.asked.length = 64 → ∃ t, exec .attestationReport s = .next t ∧ t.astat = 2 ∧ t.report.take 64 = s.asked
    ∧ t.report = s.reportBody ++ (List.range 4627).map (Config.mldsaSign (sha3 s.reportBody)) ∧ t.report.length = s.reportBody.length + 4627)

namespace Sys2Proof.Claims
open Sys2Proof.Machine

/-- A command stands at the head of its queue, which the arbiter serves next, and its queue accepts it (R287, R336, R337, R341). -/
structure Due (s : State) (q opc : Nat) (c : HostCmd) (pre rest : List HostCmd) : Prop where
  stands : Stands s q c pre rest
  fresh : c.dispatched = false ∧ c.waiting = false
  code : c.opc = opc
  plain : c.flags ≤ 3 ∧ field c.bytes 6 2 = 0
  eligible : s.eligible q = true
  turn : q ≠ 0 → (s.pickQueue (s.hq q).part).map Prod.fst = some q
  accepted : ∃ code, queueCode opc = some code ∧ s.acceptsOn q code = true

/-- A dispatched command that waits in its queue's way. -/
structure Waits (s : State) (q opc : Nat) (c : HostCmd) (pre rest : List HostCmd) : Prop where
  stands : Stands s q c pre rest
  waiting : c.waiting = true
  code : c.opc = opc

/-- The command has been dispatched and stays in its queue. -/
def Stays (t : State) (q : Nat) (c : HostCmd) (pre rest : List HostCmd) (waiting : Bool) : Prop :=
  ∃ d, (t.hq q).cmds = pre ++ d :: rest ∧ d.n = c.n ∧ d.bytes = c.bytes ∧ d.dispatched = true ∧ d.waiting = waiting

/-- What a PATCH does once its bank is free: the other bank takes CUR's bytes and then the listed words, and becomes CUR (R342). -/
structure Patched (s t : State) (q p : Nat) (c : HostCmd) (pre rest : List HostCmd) (h list : List (BitVec 8)) : Prop where
  done : Done s t q c pre rest 0
  cur : (t.graph p (c.op 16 8)).cur = 1 - (s.graph p (c.op 16 8)).cur
  words : (s.hq q).ctrl.getLsbD 2 = false → Unspilled s → ∀ i, i < c.op 32 4 → (∀ j, i < j → j < c.op 32 4 → field list (16 * j) 8 ≠ field list (16 * i) 8) →
    t.bytes (field h (8 + 8 * (1 - (s.graph p (c.op 16 8)).cur)) 8 + field list (16 * i) 8) 8 = (list.drop (16 * i + 8)).take 8

/-- The operands of a PATCH keep to Table 18-6 and Table 18-10. -/
structure PatchOk (s : State) (c : HostCmd) (h list : List (BitVec 8)) : Prop where
  unused : c.unused [(16, 8), (24, 8), (32, 4)] = true
  count : 0 < c.op 32 4 ∧ c.op 32 4 ≤ 4096
  header : s.graphHeader (c.op 16 8) = some h
  listed : s.deviceBytes (c.op 24 8) (16 * c.op 32 4) = some list
  offsets : ∀ i, i < c.op 32 4 → field list (16 * i) 8 % 8 = 0 ∧ field list (16 * i) 8 < field h 4 4

end Sys2Proof.Claims

/-! ### Host commands (18_host_interface, 15_scheduling): the byte offsets of the operands are the model's (assumption 21) -/

/-- R287, R318, R336, R337, R341: the arbiter dispatches the head command of the queue it picks, which takes a command of its visit; a queue of the partition that is then not
eligible loses the rest of its own; a queue that does not
accept a command ends it with STATUS 5, an OPC that Table 18-6 does not list ends with STATUS 3. The pick is assumption 20, the order of these checks 22. -/
def Sys2Proof.Claims.ArbiterDispatch : Prop :=
  (∀ s q c pre rest, Stands s q c pre rest → c.dispatched = false → c.waiting = false → s.eligible q = true →
    (q ≠ 0 → (s.pickQueue (s.hq q).part).map Prod.fst = some q) →
    (queueCode c.opc = none → ∃ t, exec (.arbiterDispatch (if q = 0 then 16 else (s.hq q).part)) s = .next t ∧ Done s t q c pre rest 3)
    ∧ (∀ code, queueCode c.opc = some code → s.acceptsOn q code = false →
      ∃ t, exec (.arbiterDispatch (if q = 0 then 16 else (s.hq q).part)) s = .next t ∧ Done s t q c pre rest 5))
  ∧ (∀ s q c pre rest v, Stands s q c pre rest → c.dispatched = false → q ≠ 0 → s.pickQueue (s.hq q).part = some (q, v) →
    let d := { c with dispatched := true }
    let p := (s.hq q).part
    let t := State.runCommand ((((s.modPart p fun x => { x with visit := v }).setHq q { s.hq q with cmds := pre ++ d :: rest }).modPart p
      fun x => { x with heldBack := x.heldBack.map fun h => (h.1, h.2.filter (· != q)) })) q d
    exec (.arbiterDispatch p) s = .next ((t.queuesOf p).foldl State.endVisit t))
  ∧ (∀ s c pre rest, Stands s 0 c pre rest → c.dispatched = false → s.eligible 0 = true →
    let d := { c with dispatched := true }
    let t := State.runCommand ((s.setHq 0 { s.hq 0 with cmds := pre ++ d :: rest }).modPart (s.hq 0).part
      fun x => { x with heldBack := x.heldBack.map fun h => (h.1, h.2.filter (· != 0)) }) 0 d
    exec (.arbiterDispatch 16) s = .next ((t.queuesOf (s.hq 0).part).foldl State.endVisit t))
  ∧ (∀ s q c pre rest, Due s q 0x0A c pre rest → c.unused [(16, 1), (18, 2), (20, 1), (24, 8)] = true → c.op 16 1 ≤ 63 → c.op 18 2 ≤ 8191 → c.op 20 1 ≤ 15 →
    ∃ t, exec (.arbiterDispatch (s.hq q).part) s = .next t ∧ Done s t q c pre rest 0
      ∧ (t.part? (s.hq q).part).bind (fun x => NMap.get? x.hwins (c.op 16 1)) = some (c.op 18 2, c.op 20 1, c.op 24 8))
  ∧ (∀ s p, p < 16 → s.pickQueue p = none → exec (.arbiterDispatch p) s = .next s)

/-- R288 to R292, R299 to R301, R342: LAUNCH and REPLAY dispatch launches with fresh identifiers and unplaced crews; a REPLAY waits while two replays of its graph are in
flight; PATCH writes the bank that is not CUR once no replay is bound to it. -/
def Obligations.LaunchCommands : Prop :=
  (∀ s q c pre rest d, Due s q 0x01 c pre rest → c.unused [(16, 8), (24, 2)] = true → s.descAt (s.hq q).part (c.op 16 8) = some d → descBad d = false →
    s.launchBad (s.hq q).part q (c.op 24 2) d = false → (∀ e ∈ descPreds d, s.predBad (s.hq q).part e = false) →
    ∃ t id l, exec (.launch q) s = .next t ∧ s.launch? (s.hq q).part id = none ∧ t.launch? (s.hq q).part id = some l ∧ t.mem = s.mem ∧ Stays t q c pre rest false
      ∧ l.desc = d ∧ l.kslot = c.op 24 2 ∧ l.queue = q ∧ l.cmd = c.n ∧ l.node = none ∧ l.held = false ∧ l.next = field d 128 4 ∧ l.remaining = field d 132 4
      ∧ l.preds = s.pendingPreds (descPreds d) ∧ ∀ k, NMap.get? l.crews k = if k ≤ field d 0 1 then some Crew.fresh else none)
  ∧ (∀ s q c pre rest d, Due s q 0x01 c pre rest → c.unused [(16, 8), (24, 2)] = true → s.descAt (s.hq q).part (c.op 16 8) = some d →
    (descBad d = true ∨ s.launchBad (s.hq q).part q (c.op 24 2) d = true) → ∃ t, exec (.launch q) s = .next t ∧ Done s t q c pre rest 1)
  ∧ (∀ s q c pre rest h nodes, Due s q 0x02 c pre rest → c.unused [(16, 8)] = true → s.graphHeader (c.op 16 8) = some h →
    s.graphNodes (s.hq q).part h = some nodes → nodesBad h nodes = false → (∀ d ∈ nodes, s.launchBad (s.hq q).part q (field h 32 2) d = false) →
    let p := (s.hq q).part
    let g := s.graph p (c.op 16 8)
    (g.replays.length < 2 → (s.part? p).map (fun x => x.idsFor nodes.length) = some true → ∃ t, exec (.replay q) s = .next t ∧ t.mem = s.mem ∧ Stays t q c pre rest false
      ∧ (t.graph p (c.op 16 8)).replays = g.replays ++ [(q, c.n, g.cur)]
      ∧ ∀ i d, nodes[i]? = some d → ∃ id l, s.launch? p id = none ∧ t.launch? p id = some l ∧ l.desc = d ∧ l.node = some (c.op 16 8, i, g.cur) ∧ l.queue = q)
    ∧ (2 ≤ g.replays.length → ∃ t, exec (.replay q) s = .next t ∧ t.mem = s.mem ∧ Stays t q c pre rest true
      ∧ (t.graph p (c.op 16 8)).replays = g.replays))
  ∧ (∀ s q c pre rest h list, PatchOk s c h list →
    let p := (s.hq q).part
    let g := s.graph p (c.op 16 8)
    ((∀ r ∈ g.replays, r.2.2 ≠ 1 - g.cur) → g.cur ≤ 1 → Due s q 0x03 c pre rest →
      ∃ t, exec (.patch q) s = .next t ∧ Patched s t q p c pre rest h list)
    ∧ ((∃ r ∈ g.replays, r.2.2 = 1 - g.cur) → Due s q 0x03 c pre rest →
      ∃ t, exec (.patch q) s = .next t ∧ t.mem = s.mem ∧ Stays t q c pre rest true)
    ∧ ((∀ r ∈ g.replays, r.2.2 ≠ 1 - g.cur) → g.cur ≤ 1 → s.part? p ≠ none → Waits s q 0x03 c pre rest →
      ∃ t, exec (.patchApply q) s = .next t ∧ Patched s t q p c pre rest h list))

/-- R206, R262, R277, R282, R316, R331, R341, R343 to R345, R351, R359, R362: the other commands of a partition's privileged queue end with STATUS 0 once they have had
their effect; SRESET resets one line a step, PPREEMPT ends when its strands are saved, and KUNLOAD waits for the slot's launches. The byte offsets of the operands
are assumption 21, SRESET's line a step assumption 27, and what a signature is assumption 62. -/
def Obligations.PartitionCommands : Prop :=
  (∀ s q c pre rest, Due s q 0x04 c pre rest → c.unused [(16, 2), (20, 4), (24, 2), (32, 8)] = true → c.op 16 2 ≤ 4095 → 0 < c.op 20 4 → c.op 20 4 ≤ 65536 →
    s.cellAt (s.hq q).part (c.op 24 2) ≠ none → inDevice (c.op 32 8) (8 * c.op 20 4) = true → (s.devq (s.hq q).part (c.op 16 2)).live = false →
    ∃ t, exec (.qcreate q) s = .next t ∧ Done s t q c pre rest 0 ∧ t.devq (s.hq q).part (c.op 16 2) = { gen := (s.devq (s.hq q).part (c.op 16 2)).gen + 1, live := true
                                                                                                        cap := c.op 20 4, home := c.op 24 2, back := BitVec.ofNat 64 (c.op 32 8), values := [] })
  ∧ (∀ s q c pre rest, Due s q 0x05 c pre rest → c.unused [(16, 2)] = true → c.op 16 2 ≤ 4095 → (s.devq (s.hq q).part (c.op 16 2)).live = true →
    ∃ t, exec (.qdestroy q) s = .next t ∧ Done s t q c pre rest 0 ∧ (t.devq (s.hq q).part (c.op 16 2)).live = false
      ∧ (t.devq (s.hq q).part (c.op 16 2)).gen = (s.devq (s.hq q).part (c.op 16 2)).gen + 1)
  ∧ (∀ s q c pre rest x f n st va since, Due s q 0x06 c pre rest → c.unused [(16, 2), (18, 1)] = true → s.part? (s.hq q).part = some x →
    x.faults.find? (fun g => g.seq == c.op 16 2) = some f → f.joined = [.slot n] → s.strand? n = some st → st.wait = some ⟨.faultPending (c.op 16 2) va, since⟩ →
    (c.op 18 1 = 0 → ∃ t, exec (.fanswer q) s = .next t ∧ Done s t q c pre rest 0 ∧ t.strand? n = some { st with wait := some ⟨.replay, since⟩ }
      ∧ (t.part? (s.hq q).part).map Partition.faults = some (dropFirst (fun g => g.seq == c.op 16 2) x.faults))
    ∧ (c.op 18 1 = 1 → ∃ t, exec (.fanswer q) s = .next t ∧ Done s t q c pre rest 0 ∧ t.strand? n = (s.deliver n (translation 0 va)).strand? n))
  ∧ (∀ s q c pre rest, Due s q 0x07 c pre rest → c.unused [(16, 8), (24, 8), (32, 1)] = true → c.op 16 8 % 2 ^ 16 = 0 → c.op 24 8 % 2 ^ 16 = 0 → 0 < c.op 24 8 →
    c.op 16 8 + c.op 24 8 ≤ 2 ^ 56 → c.op 32 1 ≤ 1 → (∀ i, i < c.op 24 8 / 2 ^ 16 → s.mappedHere (s.hq q).part (c.op 16 8 + 2 ^ 16 * i) = true) →
    ∃ t, exec (.sreset q) s = .next t ∧ t.mem = s.mem ∧ Stays t q c pre rest true)
  ∧ (∀ s q c pre rest level e, Waits s q 0x07 c pre rest → s.walk (s.hq q).part (c.op 16 8 + 64 * c.progress) = .leaf level e →
    let line := lineOf (s.leafFlat (s.hq q).part level e (c.op 16 8 + 64 * c.progress))
    (64 * (c.progress + 1) < c.op 24 8 → ∃ t, exec (.sreset q) s = .next t ∧ t.lineState line = 0
      ∧ (t.hq q).cmds = pre ++ { c with progress := c.progress + 1 } :: rest ∧ (c.op 32 1 = 1 → Unspilled s → t.bytes (64 * line) 64 = List.replicate 64 0))
    ∧ (c.op 24 8 ≤ 64 * (c.progress + 1) → ∃ t, exec (.sreset q) s = .next t ∧ t.lineState line = 0 ∧ Done s t q c pre rest 0))
  ∧ (∀ s q c pre rest b, Due s q 0x08 c pre rest → c.unused [(16, 1), (24, 8)] = true → c.op 16 1 ≤ 15 →
    ((s.view (c.op 16 1)).part = none ∨ (s.view (c.op 16 1)).part = some (s.hq q).part) →
    (c.op 24 8 = 0 → ∃ t, exec (.vbind q) s = .next t ∧ Done s t q c pre rest 0 ∧ (t.view (c.op 16 1)).part = none)
    ∧ (c.op 24 8 ≠ 0 → s.deviceBytes (c.op 24 8) 64 = some b → bindBad b = false → ∃ t, exec (.vbind q) s = .next t ∧ Done s t q c pre rest 0
      ∧ (t.view (c.op 16 1)).part = some (s.hq q).part ∧ (t.view (c.op 16 1)).block = b ∧ (t.view (c.op 16 1)).prod = 0 ∧ (t.view (c.op 16 1)).cons = 0
      ∧ (t.view (c.op 16 1)).frames = 0 ∧ (t.view (c.op 16 1)).fault = false))
  ∧ (∀ s q c pre rest h b, Due s q 0x09 c pre rest → c.unused [(16, 4), (24, 8)] = true → c.op 24 8 % 64 = 0 → s.deviceBytes (c.op 24 8) 16 = some h →
    2 ≤ field h 0 4 → field h 0 4 ≤ 16384 → s.deviceBytes (c.op 24 8) (16 + 32 * field h 0 4) = some b → groupBad s.moduleNo.toNat (s.hq q).part b = false →
    ∃ t, exec (.group q) s = .next t ∧ Done s t q c pre rest 0 ∧ (t.part? (s.hq q).part).bind (fun x => NMap.get? x.groups (c.op 16 4)) = some b)
  ∧ (∀ s q c pre rest, Due s q 0x0A c pre rest → c.unused [(16, 1), (18, 2), (20, 1), (24, 8)] = true → c.op 16 1 ≤ 63 → c.op 18 2 ≤ 8191 → c.op 20 1 ≤ 15 →
    ∃ t, exec (.hwin q) s = .next t ∧ Done s t q c pre rest 0
      ∧ (t.part? (s.hq q).part).bind (fun x => NMap.get? x.hwins (c.op 16 1)) = some (c.op 18 2, c.op 20 1, c.op 24 8))
  ∧ (∀ s q c pre rest, Due s q 0x0B c pre rest → c.unused [(16, 1), (24, 8), (32, 8)] = true → c.op 16 1 ≤ 63 → c.op 32 8 % 2 ^ 16 = 0 → c.op 24 8 % 64 = 0 →
    inDevice (c.op 24 8) (c.op 32 8) = true → ∃ t, exec (.logset q) s = .next t ∧ Done s t q c pre rest 0
      ∧ (t.part? (s.hq q).part).bind (fun x => NMap.get? x.logs (c.op 16 1)) = some ⟨c.op 24 8, c.op 32 8, c.op 24 8, [], none, false⟩)
  ∧ (∀ s q c pre rest b, Due s q 0x0C c pre rest → c.unused [(16, 8)] = true → c.op 16 8 % 64 = 0 → s.deviceBytes (c.op 16 8) 2048 = some b →
    (∀ r ∈ maskQueues b, r ≠ 0 ∧ (s.hq r).part = (s.hq q).part) → ∃ t, exec (.ppreempt q) s = .next t ∧ t.mem = s.mem ∧ Stays t q c pre rest true
      ∧ ∀ n st r, s.strand? n = some st → st.part = (s.hq q).part → r ∈ maskQueues b → st.launch ∈ s.launchesOf (s.hq q).part r → st.preReq = none →
        (t.strand? n).map Strand.preReq = some (some ⟨1, s.clock, none, false⟩))
  ∧ (∀ s q c pre rest x e, Waits s q 0x0C c pre rest → s.part? (s.hq q).part = some x → x.preempting.find? (fun f => f.report == some (q, c.n)) = some e →
    (s.preemptDone e = true → ∃ t, exec (.ppreempt q) s = .next t ∧ Done s t q c pre rest 0) ∧ (s.preemptDone e = false → exec (.ppreempt q) s = .next s))
  ∧ (∀ s q c pre rest, Due s q 0x0D c pre rest → c.unused [(16, 2)] = true → c.op 16 2 ≠ 0 → c.op 16 2 < 16384 → (s.hq (c.op 16 2)).part = (s.hq q).part →
    ((s.hq (c.op 16 2)).state = 2 ∨ (s.hq (c.op 16 2)).state = 3) →
    ∃ t, exec (.restart q) s = .next t ∧ Done s t q c pre rest 0 ∧ (t.hq (c.op 16 2)).state = 1 ∧ (t.hq (c.op 16 2)).killed = false ∧ (t.hq (c.op 16 2)).cons = (s.hq (c.op 16 2)).cons)
  ∧ (∀ s q c pre rest x b, Due s q 0x0E c pre rest → c.unused [(16, 2), (24, 8), (32, 8)] = true → c.op 16 2 ≤ 255 → c.op 24 8 % 64 = 0 →
    s.part? (s.hq q).part = some x → NMap.get? x.klis (c.op 16 2) = none → s.deviceBytes (c.op 24 8) (c.op 32 8) = some b →
    (kliBad b = false → kliSigned (x.keys.map Prod.snd) b = true → ∃ t, exec (.kload q) s = .next t ∧ Done s t q c pre rest 0
      ∧ (t.part? (s.hq q).part).bind (fun y => NMap.get? y.klis (c.op 16 2)) = some ⟨c.op 24 8, c.op 32 8, sha3 b⟩)
    ∧ (kliBad b = true ∨ kliSigned (x.keys.map Prod.snd) b = false → ∃ t, exec (.kload q) s = .next t ∧ Done s t q c pre rest 6))
  ∧ (∀ s q c pre rest x, Due s q 0x0F c pre rest → c.unused [(16, 2)] = true → c.op 16 2 ≤ 255 → s.part? (s.hq q).part = some x →
    NMap.get? x.klis (c.op 16 2) ≠ none →
    ((∀ l ∈ x.launches, l.2.kslot ≠ c.op 16 2) → ∃ t, exec (.kunload q) s = .next t ∧ Done s t q c pre rest 0
      ∧ (t.part? (s.hq q).part).bind (fun y => NMap.get? y.klis (c.op 16 2)) = none)
    ∧ ((∃ l ∈ x.launches, l.2.kslot = c.op 16 2) → ∃ t, exec (.kunload q) s = .next t ∧ Stays t q c pre rest true ∧ t.mem = s.mem))

/-- R346 to R350: PCREATE gives a partition its clusters, PRESIZE changes them once every strand of a replaced cluster is saved, and PDESTROY kills its launches and, once
their error records are in the host's queue (assumption 26), frees them; these stand on queue 0. The offsets of the operands are assumption 21. -/
def Sys2Proof.Claims.ModuleCommands : Prop :=
  (∀ s c pre rest b, Due s 0 0x20 c pre rest → c.unused [(16, 8)] = true → s.deviceBytes (c.op 16 8) 128 = some b → createBad b = false →
    s.part? (field b 74 1) = none → (∀ k ∈ blockClusters b, (s.cluster k).owner = none) →
    ∃ t, exec (.pcreate 0) s = .next t ∧ Done s t 0 c pre rest 0 ∧ t.part? (field b 74 1) = some (Partition.ofBlock b)
      ∧ ∀ o k, (blockClusters b)[o]? = some k → (t.cluster k).owner = some (field b 74 1, o) ∧ (t.cluster k).sems = [])
  ∧ (∀ s c pre rest b, Due s 0 0x20 c pre rest → s.deviceBytes (c.op 16 8) 128 = some b → (createBad b = true ∨ s.part? (field b 74 1) ≠ none) →
    ∃ t, exec (.pcreate 0) s = .next t ∧ Done s t 0 c pre rest 3)
  ∧ (∀ s c pre rest b x, Due s 0 0x21 c pre rest → c.unused [(16, 1), (24, 8)] = true → s.part? (c.op 16 1) = some x → s.deviceBytes (c.op 24 8) 192 = some b →
    s.resizeOk (c.op 16 1) x (resizeMap b) = true →
    (replaced x.clusters (resizeMap b) = [] → ∃ t, exec (.presize 0) s = .next t ∧ Done s t 0 c pre rest 0
      ∧ (t.part? (c.op 16 1)).map Partition.clusters = some (resizeMap b))
    ∧ (replaced x.clusters (resizeMap b) ≠ [] → ∃ t, exec (.presize 0) s = .next t ∧ Stays t 0 c pre rest true ∧ t.mem = s.mem
      ∧ (t.part? (c.op 16 1)).map Partition.clusters = some x.clusters))
  ∧ (∀ s c pre rest x e, Waits s 0 0x21 c pre rest → s.part? (c.op 16 1) = some x → x.preempting.find? (fun f => f.report == some (0, c.n)) = some e →
    let m := resizeMap c.block
    (s.preemptDone e = true → (∀ k ∈ x.clusters.drop m.length, s.clusterBusy (c.op 16 1) k = false) →
      ∃ t, exec (.presize 0) s = .next t ∧ Done s t 0 c pre rest 0 ∧ (t.part? (c.op 16 1)).map Partition.clusters = some m)
    ∧ (s.preemptDone e = false ∨ (∃ k ∈ x.clusters.drop m.length, s.clusterBusy (c.op 16 1) k = true) → exec (.presize 0) s = .next s))
  ∧ (∀ s c pre rest x, Due s 0 0x22 c pre rest ∨ Waits s 0 0x22 c pre rest → c.unused [(16, 1)] = true → s.part? (c.op 16 1) = some x →
    (x.launches = [] → x.errs = [] → ∃ t, exec (.pdestroy 0) s = .next t ∧ Done s t 0 c pre rest 0 ∧ t.part? (c.op 16 1) = none
      ∧ ∀ k ∈ x.clusters, (t.cluster k).owner = none)
    ∧ ((∀ l ∈ x.launches, l.2.queue ≠ 0) → x.errs ≠ [] ∨ (∃ id l, s.launch? (c.op 16 1) id = some l ∧ l.crews ≠ []) →
      ∃ t, exec (.pdestroy 0) s = .next t ∧ Stays t 0 c pre rest true ∧ (t.part? (c.op 16 1)).map Partition.launches = some []))


/-- R287, R336, R341, R346 to R350: the arbiter's dispatch, and the commands of queue 0 (assumptions 20, 21, 22 and 26). -/
def Obligations.ModuleCommands : Prop := Sys2Proof.Claims.ArbiterDispatch ∧ Sys2Proof.Claims.ModuleCommands
end

