-- ==== Sys2Proof/Laws/Encoding.lean ====
section
/-! SUPPORT. What the decoder reads back from the words the encoder packs: one lemma per field of each word (Tables 3-2 to 3-6). -/
namespace Sys2Proof
open Sys2Proof.Machine

/-! ### The R-form word -/

@[simp] theorem packR_l (l : BitVec 2) (op : BitVec 7) (d a b : BitVec 5) (g : Guard) (f : BitVec 4) : (packR l op d a b g f).extractLsb' 0 2 = l := by
  ext i hi
  simp only [packR, bit, BitVec.getElem_extractLsb', BitVec.getLsbD_append]
  have h : i < 2 := hi
  interval_cases i <;> simp
@[simp] theorem packR_op (l : BitVec 2) (op : BitVec 7) (d a b : BitVec 5) (g : Guard) (f : BitVec 4) : (packR l op d a b g f).extractLsb' 2 7 = op := by
  ext i hi
  simp only [packR, bit, BitVec.getElem_extractLsb', BitVec.getLsbD_append]
  have h : i < 7 := hi
  interval_cases i <;> simp
@[simp] theorem packR_d (l : BitVec 2) (op : BitVec 7) (d a b : BitVec 5) (g : Guard) (f : BitVec 4) : (packR l op d a b g f).extractLsb' 9 5 = d := by
  ext i hi
  simp only [packR, bit, BitVec.getElem_extractLsb', BitVec.getLsbD_append]
  have h : i < 5 := hi
  interval_cases i <;> simp
@[simp] theorem packR_a (l : BitVec 2) (op : BitVec 7) (d a b : BitVec 5) (g : Guard) (f : BitVec 4) : (packR l op d a b g f).extractLsb' 14 5 = a := by
  ext i hi
  simp only [packR, bit, BitVec.getElem_extractLsb', BitVec.getLsbD_append]
  have h : i < 5 := hi
  interval_cases i <;> simp
@[simp] theorem packR_b (l : BitVec 2) (op : BitVec 7) (d a b : BitVec 5) (g : Guard) (f : BitVec 4) : (packR l op d a b g f).extractLsb' 19 5 = b := by
  ext i hi
  simp only [packR, bit, BitVec.getElem_extractLsb', BitVec.getLsbD_append]
  have h : i < 5 := hi
  interval_cases i <;> simp
@[simp] theorem packR_p (l : BitVec 2) (op : BitVec 7) (d a b : BitVec 5) (g : Guard) (f : BitVec 4) : (packR l op d a b g f).extractLsb' 24 3 = g.p := by
  ext i hi
  simp only [packR, bit, BitVec.getElem_extractLsb', BitVec.getLsbD_append]
  have h : i < 3 := hi
  interval_cases i <;> simp
@[simp] theorem packR_n (l : BitVec 2) (op : BitVec 7) (d a b : BitVec 5) (g : Guard) (f : BitVec 4) : (packR l op d a b g f).getLsbD 27 = g.n := by
  simp only [packR, bit, BitVec.getLsbD_append]; simp
@[simp] theorem packR_f (l : BitVec 2) (op : BitVec 7) (d a b : BitVec 5) (g : Guard) (f : BitVec 4) : (packR l op d a b g f).extractLsb' 28 4 = f := by
  ext i hi
  simp only [packR, bit, BitVec.getElem_extractLsb', BitVec.getLsbD_append]
  have h : i < 4 := hi
  interval_cases i <;> simp

/-! ### The I-form word -/

@[simp] theorem packI_l (l : BitVec 2) (op : BitVec 7) (d a : BitVec 5) (imm : BitVec 13) : (packI l op d a imm).extractLsb' 0 2 = l := by
  ext i hi
  simp only [packI, BitVec.getElem_extractLsb', BitVec.getLsbD_append]
  have h : i < 2 := hi
  interval_cases i <;> simp
@[simp] theorem packI_op (l : BitVec 2) (op : BitVec 7) (d a : BitVec 5) (imm : BitVec 13) : (packI l op d a imm).extractLsb' 2 7 = op := by
  ext i hi
  simp only [packI, BitVec.getElem_extractLsb', BitVec.getLsbD_append]
  have h : i < 7 := hi
  interval_cases i <;> simp
@[simp] theorem packI_d (l : BitVec 2) (op : BitVec 7) (d a : BitVec 5) (imm : BitVec 13) : (packI l op d a imm).extractLsb' 9 5 = d := by
  ext i hi
  simp only [packI, BitVec.getElem_extractLsb', BitVec.getLsbD_append]
  have h : i < 5 := hi
  interval_cases i <;> simp
@[simp] theorem packI_a (l : BitVec 2) (op : BitVec 7) (d a : BitVec 5) (imm : BitVec 13) : (packI l op d a imm).extractLsb' 14 5 = a := by
  ext i hi
  simp only [packI, BitVec.getElem_extractLsb', BitVec.getLsbD_append]
  have h : i < 5 := hi
  interval_cases i <;> simp
@[simp] theorem packI_imm (l : BitVec 2) (op : BitVec 7) (d a : BitVec 5) (imm : BitVec 13) : (packI l op d a imm).extractLsb' 19 13 = imm := by
  ext i hi
  simp only [packI, BitVec.getElem_extractLsb', BitVec.getLsbD_append]
  have h : i < 13 := hi
  interval_cases i <;> simp

/-! ### The B-form word -/

@[simp] theorem packB_l (l : BitVec 2) (op : BitVec 7) (lo : BitVec 15) (g : Guard) (hi : BitVec 4) : (packB l op lo g hi).extractLsb' 0 2 = l := by
  ext i hi
  simp only [packB, bit, BitVec.getElem_extractLsb', BitVec.getLsbD_append]
  have h : i < 2 := hi
  interval_cases i <;> simp
@[simp] theorem packB_op (l : BitVec 2) (op : BitVec 7) (lo : BitVec 15) (g : Guard) (hi : BitVec 4) : (packB l op lo g hi).extractLsb' 2 7 = op := by
  ext i hi
  simp only [packB, bit, BitVec.getElem_extractLsb', BitVec.getLsbD_append]
  have h : i < 7 := hi
  interval_cases i <;> simp
@[simp] theorem packB_lo (l : BitVec 2) (op : BitVec 7) (lo : BitVec 15) (g : Guard) (hi : BitVec 4) : (packB l op lo g hi).extractLsb' 9 15 = lo := by
  ext i hi
  simp only [packB, bit, BitVec.getElem_extractLsb', BitVec.getLsbD_append]
  have h : i < 15 := hi
  interval_cases i <;> simp
@[simp] theorem packB_p (l : BitVec 2) (op : BitVec 7) (lo : BitVec 15) (g : Guard) (hi : BitVec 4) : (packB l op lo g hi).extractLsb' 24 3 = g.p := by
  ext i hi
  simp only [packB, bit, BitVec.getElem_extractLsb', BitVec.getLsbD_append]
  have h : i < 3 := hi
  interval_cases i <;> simp
@[simp] theorem packB_n (l : BitVec 2) (op : BitVec 7) (lo : BitVec 15) (g : Guard) (hi : BitVec 4) : (packB l op lo g hi).getLsbD 27 = g.n := by
  simp only [packB, bit, BitVec.getLsbD_append]; simp
@[simp] theorem packB_hi (l : BitVec 2) (op : BitVec 7) (lo : BitVec 15) (g : Guard) (hi : BitVec 4) : (packB l op lo g hi).extractLsb' 28 4 = hi := by
  ext i hi
  simp only [packB, bit, BitVec.getElem_extractLsb', BitVec.getLsbD_append]
  have h : i < 4 := hi
  interval_cases i <;> simp

/-! ### Extension words -/

@[simp] theorem packExt1_c (xop : BitVec 7) (fc fb fa e c : BitVec 5) : (packExt1 xop fc fb fa e c).extractLsb' 0 5 = c := by
  ext i hi
  simp only [packExt1, BitVec.getElem_extractLsb', BitVec.getLsbD_append]
  have h : i < 5 := hi
  interval_cases i <;> simp
@[simp] theorem packExt1_e (xop : BitVec 7) (fc fb fa e c : BitVec 5) : (packExt1 xop fc fb fa e c).extractLsb' 5 5 = e := by
  ext i hi
  simp only [packExt1, BitVec.getElem_extractLsb', BitVec.getLsbD_append]
  have h : i < 5 := hi
  interval_cases i <;> simp
@[simp] theorem packExt1_fa (xop : BitVec 7) (fc fb fa e c : BitVec 5) : (packExt1 xop fc fb fa e c).extractLsb' 10 5 = fa := by
  ext i hi
  simp only [packExt1, BitVec.getElem_extractLsb', BitVec.getLsbD_append]
  have h : i < 5 := hi
  interval_cases i <;> simp
@[simp] theorem packExt1_fb (xop : BitVec 7) (fc fb fa e c : BitVec 5) : (packExt1 xop fc fb fa e c).extractLsb' 15 5 = fb := by
  ext i hi
  simp only [packExt1, BitVec.getElem_extractLsb', BitVec.getLsbD_append]
  have h : i < 5 := hi
  interval_cases i <;> simp
@[simp] theorem packExt1_fc (xop : BitVec 7) (fc fb fa e c : BitVec 5) : (packExt1 xop fc fb fa e c).extractLsb' 20 5 = fc := by
  ext i hi
  simp only [packExt1, BitVec.getElem_extractLsb', BitVec.getLsbD_append]
  have h : i < 5 := hi
  interval_cases i <;> simp
@[simp] theorem packExt1_xop (xop : BitVec 7) (fc fb fa e c : BitVec 5) : (packExt1 xop fc fb fa e c).extractLsb' 25 7 = xop := by
  ext i hi
  simp only [packExt1, BitVec.getElem_extractLsb', BitVec.getLsbD_append]
  have h : i < 7 := hi
  interval_cases i <;> simp

@[simp] theorem packExt2_ws (q si : BitVec 4) (ss wt ws : BitVec 8) : (packExt2 q si ss wt ws).extractLsb' 0 8 = ws := by
  ext i hi
  simp only [packExt2, BitVec.getElem_extractLsb', BitVec.getLsbD_append]
  have h : i < 8 := hi
  interval_cases i <;> simp
@[simp] theorem packExt2_wt (q si : BitVec 4) (ss wt ws : BitVec 8) : (packExt2 q si ss wt ws).extractLsb' 8 8 = wt := by
  ext i hi
  simp only [packExt2, BitVec.getElem_extractLsb', BitVec.getLsbD_append]
  have h : i < 8 := hi
  interval_cases i <;> simp
@[simp] theorem packExt2_ss (q si : BitVec 4) (ss wt ws : BitVec 8) : (packExt2 q si ss wt ws).extractLsb' 16 8 = ss := by
  ext i hi
  simp only [packExt2, BitVec.getElem_extractLsb', BitVec.getLsbD_append]
  have h : i < 8 := hi
  interval_cases i <;> simp
@[simp] theorem packExt2_si (q si : BitVec 4) (ss wt ws : BitVec 8) : (packExt2 q si ss wt ws).extractLsb' 24 4 = si := by
  ext i hi
  simp only [packExt2, BitVec.getElem_extractLsb', BitVec.getLsbD_append]
  have h : i < 4 := hi
  interval_cases i <;> simp
@[simp] theorem packExt2_q (q si : BitVec 4) (ss wt ws : BitVec 8) : (packExt2 q si ss wt ws).extractLsb' 28 4 = q := by
  ext i hi
  simp only [packExt2, BitVec.getElem_extractLsb', BitVec.getLsbD_append]
  have h : i < 4 := hi
  interval_cases i <;> simp

@[simp] theorem packEng_tag (e : EngineWords) : (packEng e).extractLsb' 0 6 = e.tag := by
  ext i hi
  simp only [packEng, bit, BitVec.getElem_extractLsb', BitVec.getLsbD_append]
  have h : i < 6 := hi
  interval_cases i <;> simp
@[simp] theorem packEng_dsp (e : EngineWords) : (packEng e).extractLsb' 6 3 = e.dsp := by
  ext i hi
  simp only [packEng, bit, BitVec.getElem_extractLsb', BitVec.getLsbD_append]
  have h : i < 3 := hi
  interval_cases i <;> simp
@[simp] theorem packEng_fa (e : EngineWords) : (packEng e).extractLsb' 10 5 = e.fa := by
  ext i hi
  simp only [packEng, bit, BitVec.getElem_extractLsb', BitVec.getLsbD_append]
  have h : i < 5 := hi
  interval_cases i <;> simp
@[simp] theorem packEng_fb (e : EngineWords) : (packEng e).extractLsb' 15 5 = e.fb := by
  ext i hi
  simp only [packEng, bit, BitVec.getElem_extractLsb', BitVec.getLsbD_append]
  have h : i < 5 := hi
  interval_cases i <;> simp
@[simp] theorem packEng_ssp (e : EngineWords) : (packEng e).extractLsb' 20 3 = e.ssp := by
  ext i hi
  simp only [packEng, bit, BitVec.getElem_extractLsb', BitVec.getLsbD_append]
  have h : i < 3 := hi
  interval_cases i <;> simp
@[simp] theorem packEng_z (e : EngineWords) : (packEng e).getLsbD 28 = e.z := by
  simp only [packEng, bit, BitVec.getLsbD_append]; simp
@[simp] theorem packEng_conv (e : EngineWords) : (packEng e).getLsbD 29 = e.conv := by
  simp only [packEng, bit, BitVec.getLsbD_append]; simp
@[simp] theorem packEng_te (e : EngineWords) : (packEng e).getLsbD 30 = e.te := by
  simp only [packEng, bit, BitVec.getLsbD_append]; simp
@[simp] theorem packEng_res0 (e : EngineWords) : (packEng e).extractLsb' 9 1 = 0 := by
  ext i hi
  simp only [packEng, bit, BitVec.getElem_extractLsb', BitVec.getLsbD_append]
  have h : i < 1 := hi
  interval_cases i <;> simp
@[simp] theorem packEng_res1 (e : EngineWords) : (packEng e).extractLsb' 23 5 = 0 := by
  ext i hi
  simp only [packEng, bit, BitVec.getElem_extractLsb', BitVec.getLsbD_append]
  have h : i < 5 := hi
  interval_cases i <;> simp
@[simp] theorem packEng_res2 (e : EngineWords) : (packEng e).extractLsb' 31 1 = 0 := by
  ext i hi
  simp only [packEng, bit, BitVec.getElem_extractLsb', BitVec.getLsbD_append]
  have h : i < 1 := hi
  interval_cases i <;> simp

/-- The two words of a literal give it back. -/
@[simp] theorem litWords_join (x : BitVec 64) : x.extractLsb' 32 32 ++ x.extractLsb' 0 32 = x := by
  ext i hi
  simp only [BitVec.getElem_append, BitVec.getElem_extractLsb']
  split <;> simp_all [BitVec.getLsbD_eq_getElem]

end Sys2Proof
end

