-- ==== Sys2Proof/Laws/Maps.lean ====
section
/-! SUPPORT. Finite maps: what a read after a write or a removal gives, and that the keys keep rising. -/
namespace Sys2Proof.Machine

@[simp] theorem NMap.get?_set_self {α : Type} (m : NMap α) (i : Nat) (x : α) : NMap.get? (NMap.set m i x) i = some x := by
  induction m with
  | nil => simp [NMap.set, NMap.get?]
  | cons h r ih => obtain ⟨k, v⟩ := h; simp only [NMap.set]; split <;> (try split) <;> simp_all [NMap.get?]

theorem NMap.get?_set_ne {α : Type} (m : NMap α) {i j : Nat} (x : α) (h : j ≠ i) : NMap.get? (NMap.set m i x) j = NMap.get? m j := by
  induction m with
  | nil => simp [NMap.set, NMap.get?, h]
  | cons q r ih => obtain ⟨k, v⟩ := q; simp only [NMap.set]; split <;> (try split) <;> simp_all [NMap.get?]

@[simp] theorem NMap.get?_erase_self {α : Type} (m : NMap α) (i : Nat) : NMap.get? (NMap.erase m i) i = none := by
  induction m with
  | nil => rfl
  | cons q r ih => obtain ⟨k, v⟩ := q; simp only [NMap.erase]; split <;> simp_all [NMap.get?]

theorem NMap.get?_erase_ne {α : Type} (m : NMap α) {i j : Nat} (h : j ≠ i) : NMap.get? (NMap.erase m i) j = NMap.get? m j := by
  induction m with
  | nil => rfl
  | cons q r ih => obtain ⟨k, v⟩ := q; simp only [NMap.erase]; split <;> simp_all [NMap.get?]

@[simp] theorem NMap.getD_set_self {α : Type} (m : NMap α) (i : Nat) (x d : α) : NMap.getD (NMap.set m i x) i d = x := by
  simp [NMap.getD]

theorem NMap.getD_set_ne {α : Type} (m : NMap α) {i j : Nat} (x d : α) (h : j ≠ i) : NMap.getD (NMap.set m i x) j d = NMap.getD m j d := by
  simp [NMap.getD, NMap.get?_set_ne m x h]

/-- The first key of a map lies above a number. -/
def NMap.above {α : Type} (k : Nat) (m : NMap α) : Prop := ∀ x ∈ m.head?, k < x.1

theorem NMap.sorted_cons {α : Type} (k : Nat) (v : α) (r : NMap α) :
    NMap.sorted ((k, v) :: r) = true ↔ NMap.above k r ∧ NMap.sorted r = true := by
  cases r with
  | nil => simp [NMap.sorted, NMap.above]
  | cons q r => obtain ⟨j, w⟩ := q; simp [NMap.sorted, NMap.above]

/-- Writing a key keeps the keys rising. -/
theorem NMap.sorted_set {α : Type} (m : NMap α) (i : Nat) (x : α) (h : NMap.sorted m = true) : NMap.sorted (NMap.set m i x) = true := by
  induction m with
  | nil => rfl
  | cons q r ih =>
    obtain ⟨k, v⟩ := q
    rw [NMap.sorted_cons] at h
    simp only [NMap.set]
    split
    · subst_vars; exact (NMap.sorted_cons ..).2 h
    · split
      · exact (NMap.sorted_cons ..).2 ⟨by simpa [NMap.above], (NMap.sorted_cons ..).2 h⟩
      · refine (NMap.sorted_cons ..).2 ⟨?_, ih h.2⟩
        cases r with
        | nil => simp only [NMap.set, NMap.above, List.head?_cons, Option.mem_some_iff]; rintro _ rfl; simp only; omega
        | cons p r' =>
          obtain ⟨j, w⟩ := p
          have hj : k < j := h.1 (j, w) rfl
          simp only [NMap.set]
          split <;> (try split) <;> simp only [NMap.above, List.head?_cons, Option.mem_some_iff] <;> rintro _ rfl <;> simp only <;> omega

end Sys2Proof.Machine
end

