-- ==== Sys2Proof/Laws/Memory.lean ====
section
/-! SUPPORT. Memory: a read after a write, what a write leaves alone, and that every memory operation keeps the canonical form. -/
namespace Sys2Proof.Machine

/-! ### Reading what was written -/

theorem Mem.get_put (m : List Host.Cell) (a b : Nat) (v : BitVec 8) : Mem.get (Mem.put m a v) b = if b = a then v else Mem.get m b := by
  induction m with
  | nil => simp [Mem.put, Mem.get]
  | cons q r ih =>
    obtain ⟨k, c⟩ := q; simp only [Mem.put]
    split
    · subst_vars; simp only [Mem.get]; split <;> rfl
    · split
      · rfl
      · simp only [Mem.get, ih]; split
        · subst_vars; rw [if_neg (Ne.symm ‹_›)]
        · rfl

theorem Mem.get_drop (m : List Host.Cell) (a b : Nat) : Mem.get (Mem.drop m a) b = if b = a then 0 else Mem.get m b := by
  induction m with
  | nil => simp [Mem.drop, Mem.get]
  | cons q r ih =>
    obtain ⟨k, c⟩ := q; simp only [Mem.drop]
    split
    · subst_vars; rw [ih]; simp only [Mem.get]; split <;> simp_all
    · simp only [Mem.get, ih]; split
      · subst_vars; rw [if_neg (Ne.symm ‹_›)]
      · rfl

/-- A byte reads as it was last written, and a write leaves every other byte. -/
@[simp] theorem Mem.get_set (m : List Host.Cell) (a b : Nat) (v : BitVec 8) : Mem.get (Mem.set m a v) b = if b = a then v else Mem.get m b := by
  unfold Mem.set
  split
  · rename_i h; rw [Mem.get_drop]; split <;> simp_all
  · exact Mem.get_put ..

/-- The same through the state: an unpredictable byte that is written becomes certain. -/
theorem byte_setByte (s : State) (a b : Nat) (v : BitVec 8) : (s.setByte a v).byte b = if b = a then v else s.byte b := by
  unfold State.byte State.setByte
  by_cases h : b = a
  · subst h; simp
  · simp [NMap.get?_erase_ne _ h, h]

/-- A write of bytes leaves every byte outside them. -/
theorem byte_setBytes_outside (bs : List (BitVec 8)) (s : State) (a b : Nat) (h : b < a ∨ a + bs.length ≤ b) :
    (s.setBytes a bs).byte b = s.byte b := by
  induction bs generalizing s a with
  | nil => rfl
  | cons v r ih =>
    simp only [List.length_cons] at h
    rw [State.setBytes, ih _ _ (by omega), byte_setByte, if_neg (by omega)]

/-- Reading back the bytes just written. -/
theorem bytes_setBytes (bs : List (BitVec 8)) (s : State) (a : Nat) : (s.setBytes a bs).bytes a bs.length = bs := by
  suffices h : ∀ (r : List (BitVec 8)) (t : State) (k : Nat),
      (∀ i, (_ : i < r.length) → t.byte (k + i) = r[i]) → t.bytes k r.length = r by
    apply h
    induction bs generalizing s a with
    | nil => intro i hi; cases hi
    | cons v r ih =>
      intro i hi
      cases i with
      | zero => simp only [State.setBytes, Nat.add_zero]; rw [byte_setBytes_outside _ _ _ _ (by omega), byte_setByte]; simp
      | succ i =>
        have := ih (s.setByte a v) (a + 1) i (by simpa using hi)
        simpa [State.setBytes, Nat.add_assoc, Nat.add_comm, Nat.add_left_comm] using this
  intro r
  induction r with
  | nil => intro t k _; rfl
  | cons v r ih =>
    intro t k h
    have h0 := h 0 (by simp)
    simp only [Nat.add_zero, List.getElem_cons_zero] at h0
    simp only [List.length_cons, State.bytes, h0]
    congr 1
    apply ih
    intro i hi
    have hk : k + 1 + i = k + (i + 1) := by omega
    rw [hk]
    exact h (i + 1) (Nat.succ_lt_succ hi)

/-! ### The canonical form -/

/-- The first address of a memory lies above a number. -/
def Mem.above (k : Nat) (m : List Host.Cell) : Prop := ∀ x ∈ m.head?, k < x.1

theorem Mem.wf_cons (k : Nat) (v : BitVec 8) (r : List Host.Cell) :
    Mem.wf ((k, v) :: r) = true ↔ Mem.above k r ∧ v ≠ 0 ∧ Mem.wf r = true := by
  cases r with
  | nil => simp [Mem.wf, Mem.above]
  | cons q r => obtain ⟨j, w⟩ := q; simp [Mem.wf, Mem.above, and_assoc]

theorem Mem.wf_put (m : List Host.Cell) (a : Nat) (v : BitVec 8) (hv : v ≠ 0) (h : Mem.wf m = true) : Mem.wf (Mem.put m a v) = true := by
  induction m with
  | nil => simpa [Mem.put, Mem.wf] using hv
  | cons q r ih =>
    obtain ⟨k, c⟩ := q
    rw [Mem.wf_cons] at h
    simp only [Mem.put]
    split
    · subst_vars; exact (Mem.wf_cons ..).2 ⟨h.1, hv, h.2.2⟩
    · split
      · exact (Mem.wf_cons ..).2 ⟨by simpa [Mem.above], hv, (Mem.wf_cons ..).2 h⟩
      · refine (Mem.wf_cons ..).2 ⟨?_, h.2.1, ih h.2.2⟩
        cases r with
        | nil => simp only [Mem.put, Mem.above, List.head?_cons, Option.mem_some_iff]; rintro _ rfl; simp only; omega
        | cons p r' =>
          obtain ⟨j, w⟩ := p
          have hj : k < j := h.1 (j, w) rfl
          simp only [Mem.put]
          split <;> (try split) <;> simp only [Mem.above, List.head?_cons, Option.mem_some_iff] <;> rintro _ rfl <;> simp only <;> omega

theorem Mem.above_drop (m : List Host.Cell) (k a : Nat) (hm : Mem.wf m = true) (h : Mem.above k m) : Mem.above k (Mem.drop m a) := by
  induction m with
  | nil => exact h
  | cons q r ih =>
    obtain ⟨j, c⟩ := q
    have hj : k < j := h (j, c) rfl
    rw [Mem.wf_cons] at hm
    simp only [Mem.drop]
    split
    · apply ih hm.2.2
      intro x hx; have := hm.1 x hx; omega
    · intro x hx; simp only [List.head?_cons, Option.mem_some_iff] at hx; subst hx; exact hj

theorem Mem.wf_drop (m : List Host.Cell) (a : Nat) (h : Mem.wf m = true) : Mem.wf (Mem.drop m a) = true := by
  induction m with
  | nil => rfl
  | cons q r ih =>
    obtain ⟨k, c⟩ := q
    rw [Mem.wf_cons] at h
    simp only [Mem.drop]
    split
    · exact ih h.2.2
    · exact (Mem.wf_cons ..).2 ⟨Mem.above_drop _ _ _ h.2.2 h.1, h.2.1, ih h.2.2⟩

/-- Every write of a byte keeps the canonical form. -/
theorem Mem.wf_set (m : List Host.Cell) (a : Nat) (v : BitVec 8) (h : Mem.wf m = true) : Mem.wf (Mem.set m a v) = true := by
  unfold Mem.set
  split
  · exact Mem.wf_drop _ _ h
  · exact Mem.wf_put _ _ _ ‹_› h

theorem Mem.wf_setAll (bs : List (BitVec 8)) (m : List Host.Cell) (a : Nat) (h : Mem.wf m = true) : Mem.wf (Mem.setAll m a bs) = true := by
  induction bs generalizing m a with
  | nil => exact h
  | cons b r ih => exact ih _ _ (Mem.wf_set _ _ _ h)

theorem memOk_setByte (s : State) (a : Nat) (v : BitVec 8) (h : s.memOk) : (s.setByte a v).memOk := Mem.wf_set _ _ _ h

theorem memOk_setBytes (bs : List (BitVec 8)) (s : State) (a : Nat) (h : s.memOk) : (s.setBytes a bs).memOk := by
  induction bs generalizing s a with
  | nil => exact h
  | cons b r ih => exact ih _ _ (memOk_setByte _ _ _ h)

theorem memOk_blurBytes (n : Nat) (s : State) (a : Nat) (h : s.memOk) : (s.blurBytes a n).memOk := by
  induction n generalizing s a with
  | zero => exact h
  | succ n ih => exact ih (s.blurByte a) (a + 1) h

theorem memOk_noteCbuf (s : State) (a n : Nat) (h : s.memOk) : (s.noteCbuf a n).memOk := by
  unfold State.noteCbuf; split <;> exact h

theorem memOk_logStore (s t : State) (a n : Nat) (h : t.memOk) : (s.logStore t a n).memOk := by
  unfold State.logStore; split <;> exact h

/-- What every step of a fold keeps, the fold keeps. -/
theorem memOk_foldl {α : Type} (f : State → α → State) (hf : ∀ s x, s.memOk → (f s x).memOk) (l : List α) (s : State) (h : s.memOk) :
    (l.foldl f s).memOk := by
  induction l generalizing s with
  | nil => exact h
  | cons x r ih => exact ih _ (hf _ _ h)

theorem memOk_flitsTo (s : State) (a n : Nat) (h : s.memOk) : (s.flitsTo a n).memOk := by
  unfold State.flitsTo
  repeat' split
  all_goals exact h

theorem memOk_goOut (s : State) (w : Origin) (l : List Nat) (h : s.memOk) : (s.goOut w l).memOk := by
  unfold State.goOut
  split
  · exact h
  · split
    · exact memOk_flitsTo _ _ _ h
    · exact h

theorem memOk_storeBare (s : State) (a : Nat) (bs : List (BitVec 8)) (h : s.memOk) : (s.storeBare a bs).memOk := by
  unfold State.storeBare
  exact memOk_logStore _ _ _ _ (memOk_setBytes bs _ _ (memOk_noteCbuf _ _ _ h))

theorem memOk_blurStored (s t : State) (a n : Nat) (h : t.memOk) : (s.blurStored t a n).memOk := by
  unfold State.blurStored
  refine memOk_foldl _ (fun u i hu => ?_) _ _ h
  split <;> exact hu

/-- A store of an agent at its home keeps the canonical form. -/
theorem memOk_storeAs (s : State) (w : Origin) (a : Nat) (bs : List (BitVec 8)) (h : s.memOk) : (s.storeAs w a bs).memOk := by
  unfold State.storeAs
  exact memOk_goOut _ _ _ (memOk_blurStored _ _ _ _ (memOk_storeBare _ _ _ h))

/-- A store at its home keeps the canonical form. -/
theorem memOk_storeHome (s : State) (a : Nat) (bs : List (BitVec 8)) (h : s.memOk) : (s.storeHome a bs).memOk := memOk_storeAs s _ a bs h

theorem memOk_dropCopies (l : List Nat) (s : State) (k : Nat) (h : s.memOk) : (l.foldl (fun t x => t.dropCopy k x) s).memOk :=
  memOk_foldl (fun t x => t.dropCopy k x) (fun _ _ hu => hu) _ _ h

theorem memOk_dropStored (s : State) (k mt a n : Nat) (h : s.memOk) : (s.dropStored k mt a n).memOk := by
  unfold State.dropStored
  split
  · exact memOk_dropCopies _ _ _ h
  · exact h

/-- The store of a register-stack entry keeps the canonical form. -/
theorem memOk_storeSpill (s : State) (w : Origin) (k mt a : Nat) (bs : List (BitVec 8)) (h : s.memOk) :
    (s.storeSpill w k mt a bs).memOk :=
  memOk_dropStored _ _ _ _ _ (memOk_goOut _ _ _ (memOk_storeBare _ _ _ h))

theorem memOk_drainBuf (s : State) (w : Origin) (b : WcBuf) (h : s.memOk) : (s.drainBuf w b).memOk := by
  unfold State.drainBuf
  refine memOk_goOut _ _ _ (memOk_logStore _ _ _ _ (memOk_foldl _ (fun u x hu => ?_) _ _ (memOk_foldl _ (fun u x hu => memOk_setByte _ _ _ hu) _ _ h)))
  split <;> exact hu

theorem memOk_writeArea (s : State) (base i : Nat) (x : Ctx) (h : s.memOk) : (s.writeArea base i x).memOk := by
  unfold State.writeArea
  dsimp only
  split
  · exact memOk_storeHome _ _ _ h
  · exact h

/-- Draining a combining buffer keeps the canonical form. -/
theorem memOk_drainWc (s : State) (n : Nat) (h : s.memOk) : (s.drainWc n).memOk := by
  unfold State.drainWc
  split
  · split
    · split
      · exact h
      · exact memOk_drainBuf s _ _ h
    · exact h
  · exact h

/-- A store of an agent of a cluster keeps the canonical form. -/
theorem memOk_storeFrom (s : State) (w : Origin) (k mt a : Nat) (bs : List (BitVec 8)) (h : s.memOk) : (s.storeFrom w k mt a bs).memOk :=
  memOk_dropStored _ _ _ _ _ (memOk_storeAs s w a bs h)

end Sys2Proof.Machine
end

