-- ==== Sys2Proof/Laws/State.lean ====
section
/-! SUPPORT. What each named update of the state and of a strand leaves as it was, field by field, and what it puts. -/
namespace Sys2Proof.Machine

/-! ### State.setStrand -/

@[simp] theorem setStrand_mem (s : State) (n : Nat) (st : Strand) : (s.setStrand n st).mem = s.mem := rfl
@[simp] theorem setStrand_unk (s : State) (n : Nat) (st : Strand) : (s.setStrand n st).unk = s.unk := rfl
@[simp] theorem setStrand_lines (s : State) (n : Nat) (st : Strand) : (s.setStrand n st).lines = s.lines := rfl
@[simp] theorem setStrand_poisoned (s : State) (n : Nat) (st : Strand) : (s.setStrand n st).poisoned = s.poisoned := rfl
@[simp] theorem setStrand_codeLog (s : State) (n : Nat) (st : Strand) : (s.setStrand n st).codeLog = s.codeLog := rfl
@[simp] theorem setStrand_slots (s : State) (n : Nat) (st : Strand) : (s.setStrand n st).slots = NMap.set s.slots n st := rfl
@[simp] theorem setStrand_cells (s : State) (n : Nat) (st : Strand) : (s.setStrand n st).cells = s.cells := rfl
@[simp] theorem setStrand_clusters (s : State) (n : Nat) (st : Strand) : (s.setStrand n st).clusters = s.clusters := rfl
@[simp] theorem setStrand_harts (s : State) (n : Nat) (st : Strand) : (s.setStrand n st).harts = s.harts := rfl
@[simp] theorem setStrand_sent (s : State) (n : Nat) (st : Strand) : (s.setStrand n st).sent = s.sent := rfl
@[simp] theorem setStrand_resv (s : State) (n : Nat) (st : Strand) : (s.setStrand n st).resv = s.resv := rfl
@[simp] theorem setStrand_outbound (s : State) (n : Nat) (st : Strand) : (s.setStrand n st).outbound = s.outbound := rfl
@[simp] theorem setStrand_parked (s : State) (n : Nat) (st : Strand) : (s.setStrand n st).parked = s.parked := rfl
@[simp] theorem setStrand_passes (s : State) (n : Nat) (st : Strand) : (s.setStrand n st).passes = s.passes := rfl
@[simp] theorem setStrand_parts (s : State) (n : Nat) (st : Strand) : (s.setStrand n st).parts = s.parts := rfl
@[simp] theorem setStrand_hqs (s : State) (n : Nat) (st : Strand) : (s.setStrand n st).hqs = s.hqs := rfl
@[simp] theorem setStrand_views (s : State) (n : Nat) (st : Strand) : (s.setStrand n st).views = s.views := rfl
@[simp] theorem setStrand_links (s : State) (n : Nat) (st : Strand) : (s.setStrand n st).links = s.links := rfl
@[simp] theorem setStrand_moduleNo (s : State) (n : Nat) (st : Strand) : (s.setStrand n st).moduleNo = s.moduleNo := rfl
@[simp] theorem setStrand_ready (s : State) (n : Nat) (st : Strand) : (s.setStrand n st).ready = s.ready := rfl
@[simp] theorem setStrand_phase (s : State) (n : Nat) (st : Strand) : (s.setStrand n st).phase = s.phase := rfl
@[simp] theorem setStrand_fwfail (s : State) (n : Nat) (st : Strand) : (s.setStrand n st).fwfail = s.fwfail := rfl
@[simp] theorem setStrand_hbmok (s : State) (n : Nat) (st : Strand) : (s.setStrand n st).hbmok = s.hbmok := rfl
@[simp] theorem setStrand_haspup (s : State) (n : Nat) (st : Strand) : (s.setStrand n st).haspup = s.haspup := rfl
@[simp] theorem setStrand_wbase (s : State) (n : Nat) (st : Strand) : (s.setStrand n st).wbase = s.wbase := rfl
@[simp] theorem setStrand_firmware (s : State) (n : Nat) (st : Strand) : (s.setStrand n st).firmware = s.firmware := rfl
@[simp] theorem setStrand_staged (s : State) (n : Nat) (st : Strand) : (s.setStrand n st).staged = s.staged := rfl
@[simp] theorem setStrand_fwCmd (s : State) (n : Nat) (st : Strand) : (s.setStrand n st).fwCmd = s.fwCmd := rfl
@[simp] theorem setStrand_fwStatus (s : State) (n : Nat) (st : Strand) : (s.setStrand n st).fwStatus = s.fwStatus := rfl
@[simp] theorem setStrand_fwAddr (s : State) (n : Nat) (st : Strand) : (s.setStrand n st).fwAddr = s.fwAddr := rfl
@[simp] theorem setStrand_fwLen (s : State) (n : Nat) (st : Strand) : (s.setStrand n st).fwLen = s.fwLen := rfl
@[simp] theorem setStrand_fwKeySlot (s : State) (n : Nat) (st : Strand) : (s.setStrand n st).fwKeySlot = s.fwKeySlot := rfl
@[simp] theorem setStrand_fwPart (s : State) (n : Nat) (st : Strand) : (s.setStrand n st).fwPart = s.fwPart := rfl
@[simp] theorem setStrand_fwVector (s : State) (n : Nat) (st : Strand) : (s.setStrand n st).fwVector = s.fwVector := rfl
@[simp] theorem setStrand_nonce (s : State) (n : Nat) (st : Strand) : (s.setStrand n st).nonce = s.nonce := rfl
@[simp] theorem setStrand_asked (s : State) (n : Nat) (st : Strand) : (s.setStrand n st).asked = s.asked := rfl
@[simp] theorem setStrand_astat (s : State) (n : Nat) (st : Strand) : (s.setStrand n st).astat = s.astat := rfl
@[simp] theorem setStrand_report (s : State) (n : Nat) (st : Strand) : (s.setStrand n st).report = s.report := rfl
@[simp] theorem setStrand_msixTable (s : State) (n : Nat) (st : Strand) : (s.setStrand n st).msixTable = s.msixTable := rfl
@[simp] theorem setStrand_msixPending (s : State) (n : Nat) (st : Strand) : (s.setStrand n st).msixPending = s.msixPending := rfl
@[simp] theorem setStrand_bar4Code (s : State) (n : Nat) (st : Strand) : (s.setStrand n st).bar4Code = s.bar4Code := rfl
@[simp] theorem setStrand_irqs (s : State) (n : Nat) (st : Strand) : (s.setStrand n st).irqs = s.irqs := rfl
@[simp] theorem setStrand_hostRead (s : State) (n : Nat) (st : Strand) : (s.setStrand n st).hostRead = s.hostRead := rfl
@[simp] theorem setStrand_clock (s : State) (n : Nat) (st : Strand) : (s.setStrand n st).clock = s.clock := rfl
@[simp] theorem setStrand_fresh (s : State) (n : Nat) (st : Strand) : (s.setStrand n st).fresh = s.fresh := rfl
@[simp] theorem setStrand_serial (s : State) (n : Nat) (st : Strand) : (s.setStrand n st).serial = s.serial := rfl
@[simp] theorem setStrand_actor (s : State) (n : Nat) (st : Strand) : (s.setStrand n st).actor = s.actor := rfl
@[simp] theorem setStrand_agenda (s : State) (n : Nat) (st : Strand) : (s.setStrand n st).agenda = s.agenda := rfl
@[simp] theorem setStrand_rover (s : State) (n : Nat) (st : Strand) : (s.setStrand n st).rover = s.rover := rfl

/-! ### State.setMe -/

@[simp] theorem setMe_mem (s : State) (st : Strand) : (s.setMe st).mem = s.mem := rfl
@[simp] theorem setMe_unk (s : State) (st : Strand) : (s.setMe st).unk = s.unk := rfl
@[simp] theorem setMe_lines (s : State) (st : Strand) : (s.setMe st).lines = s.lines := rfl
@[simp] theorem setMe_poisoned (s : State) (st : Strand) : (s.setMe st).poisoned = s.poisoned := rfl
@[simp] theorem setMe_codeLog (s : State) (st : Strand) : (s.setMe st).codeLog = s.codeLog := rfl
@[simp] theorem setMe_slots (s : State) (st : Strand) : (s.setMe st).slots = NMap.set s.slots s.actor st := rfl
@[simp] theorem setMe_cells (s : State) (st : Strand) : (s.setMe st).cells = s.cells := rfl
@[simp] theorem setMe_clusters (s : State) (st : Strand) : (s.setMe st).clusters = s.clusters := rfl
@[simp] theorem setMe_harts (s : State) (st : Strand) : (s.setMe st).harts = s.harts := rfl
@[simp] theorem setMe_sent (s : State) (st : Strand) : (s.setMe st).sent = s.sent := rfl
@[simp] theorem setMe_resv (s : State) (st : Strand) : (s.setMe st).resv = s.resv := rfl
@[simp] theorem setMe_outbound (s : State) (st : Strand) : (s.setMe st).outbound = s.outbound := rfl
@[simp] theorem setMe_parked (s : State) (st : Strand) : (s.setMe st).parked = s.parked := rfl
@[simp] theorem setMe_passes (s : State) (st : Strand) : (s.setMe st).passes = s.passes := rfl
@[simp] theorem setMe_parts (s : State) (st : Strand) : (s.setMe st).parts = s.parts := rfl
@[simp] theorem setMe_hqs (s : State) (st : Strand) : (s.setMe st).hqs = s.hqs := rfl
@[simp] theorem setMe_views (s : State) (st : Strand) : (s.setMe st).views = s.views := rfl
@[simp] theorem setMe_links (s : State) (st : Strand) : (s.setMe st).links = s.links := rfl
@[simp] theorem setMe_moduleNo (s : State) (st : Strand) : (s.setMe st).moduleNo = s.moduleNo := rfl
@[simp] theorem setMe_ready (s : State) (st : Strand) : (s.setMe st).ready = s.ready := rfl
@[simp] theorem setMe_phase (s : State) (st : Strand) : (s.setMe st).phase = s.phase := rfl
@[simp] theorem setMe_fwfail (s : State) (st : Strand) : (s.setMe st).fwfail = s.fwfail := rfl
@[simp] theorem setMe_hbmok (s : State) (st : Strand) : (s.setMe st).hbmok = s.hbmok := rfl
@[simp] theorem setMe_haspup (s : State) (st : Strand) : (s.setMe st).haspup = s.haspup := rfl
@[simp] theorem setMe_wbase (s : State) (st : Strand) : (s.setMe st).wbase = s.wbase := rfl
@[simp] theorem setMe_firmware (s : State) (st : Strand) : (s.setMe st).firmware = s.firmware := rfl
@[simp] theorem setMe_staged (s : State) (st : Strand) : (s.setMe st).staged = s.staged := rfl
@[simp] theorem setMe_fwCmd (s : State) (st : Strand) : (s.setMe st).fwCmd = s.fwCmd := rfl
@[simp] theorem setMe_fwStatus (s : State) (st : Strand) : (s.setMe st).fwStatus = s.fwStatus := rfl
@[simp] theorem setMe_fwAddr (s : State) (st : Strand) : (s.setMe st).fwAddr = s.fwAddr := rfl
@[simp] theorem setMe_fwLen (s : State) (st : Strand) : (s.setMe st).fwLen = s.fwLen := rfl
@[simp] theorem setMe_fwKeySlot (s : State) (st : Strand) : (s.setMe st).fwKeySlot = s.fwKeySlot := rfl
@[simp] theorem setMe_fwPart (s : State) (st : Strand) : (s.setMe st).fwPart = s.fwPart := rfl
@[simp] theorem setMe_fwVector (s : State) (st : Strand) : (s.setMe st).fwVector = s.fwVector := rfl
@[simp] theorem setMe_nonce (s : State) (st : Strand) : (s.setMe st).nonce = s.nonce := rfl
@[simp] theorem setMe_asked (s : State) (st : Strand) : (s.setMe st).asked = s.asked := rfl
@[simp] theorem setMe_astat (s : State) (st : Strand) : (s.setMe st).astat = s.astat := rfl
@[simp] theorem setMe_report (s : State) (st : Strand) : (s.setMe st).report = s.report := rfl
@[simp] theorem setMe_msixTable (s : State) (st : Strand) : (s.setMe st).msixTable = s.msixTable := rfl
@[simp] theorem setMe_msixPending (s : State) (st : Strand) : (s.setMe st).msixPending = s.msixPending := rfl
@[simp] theorem setMe_bar4Code (s : State) (st : Strand) : (s.setMe st).bar4Code = s.bar4Code := rfl
@[simp] theorem setMe_irqs (s : State) (st : Strand) : (s.setMe st).irqs = s.irqs := rfl
@[simp] theorem setMe_hostRead (s : State) (st : Strand) : (s.setMe st).hostRead = s.hostRead := rfl
@[simp] theorem setMe_clock (s : State) (st : Strand) : (s.setMe st).clock = s.clock := rfl
@[simp] theorem setMe_fresh (s : State) (st : Strand) : (s.setMe st).fresh = s.fresh := rfl
@[simp] theorem setMe_serial (s : State) (st : Strand) : (s.setMe st).serial = s.serial := rfl
@[simp] theorem setMe_actor (s : State) (st : Strand) : (s.setMe st).actor = s.actor := rfl
@[simp] theorem setMe_agenda (s : State) (st : Strand) : (s.setMe st).agenda = s.agenda := rfl
@[simp] theorem setMe_rover (s : State) (st : Strand) : (s.setMe st).rover = s.rover := rfl

/-! ### State.setCell -/

@[simp] theorem setCell_mem (s : State) (c : Nat) (x : Cell) : (s.setCell c x).mem = s.mem := rfl
@[simp] theorem setCell_unk (s : State) (c : Nat) (x : Cell) : (s.setCell c x).unk = s.unk := rfl
@[simp] theorem setCell_lines (s : State) (c : Nat) (x : Cell) : (s.setCell c x).lines = s.lines := rfl
@[simp] theorem setCell_poisoned (s : State) (c : Nat) (x : Cell) : (s.setCell c x).poisoned = s.poisoned := rfl
@[simp] theorem setCell_codeLog (s : State) (c : Nat) (x : Cell) : (s.setCell c x).codeLog = s.codeLog := rfl
@[simp] theorem setCell_slots (s : State) (c : Nat) (x : Cell) : (s.setCell c x).slots = s.slots := rfl
@[simp] theorem setCell_cells (s : State) (c : Nat) (x : Cell) : (s.setCell c x).cells = NMap.set s.cells c x := rfl
@[simp] theorem setCell_clusters (s : State) (c : Nat) (x : Cell) : (s.setCell c x).clusters = s.clusters := rfl
@[simp] theorem setCell_harts (s : State) (c : Nat) (x : Cell) : (s.setCell c x).harts = s.harts := rfl
@[simp] theorem setCell_sent (s : State) (c : Nat) (x : Cell) : (s.setCell c x).sent = s.sent := rfl
@[simp] theorem setCell_resv (s : State) (c : Nat) (x : Cell) : (s.setCell c x).resv = s.resv := rfl
@[simp] theorem setCell_outbound (s : State) (c : Nat) (x : Cell) : (s.setCell c x).outbound = s.outbound := rfl
@[simp] theorem setCell_parked (s : State) (c : Nat) (x : Cell) : (s.setCell c x).parked = s.parked := rfl
@[simp] theorem setCell_passes (s : State) (c : Nat) (x : Cell) : (s.setCell c x).passes = s.passes := rfl
@[simp] theorem setCell_parts (s : State) (c : Nat) (x : Cell) : (s.setCell c x).parts = s.parts := rfl
@[simp] theorem setCell_hqs (s : State) (c : Nat) (x : Cell) : (s.setCell c x).hqs = s.hqs := rfl
@[simp] theorem setCell_views (s : State) (c : Nat) (x : Cell) : (s.setCell c x).views = s.views := rfl
@[simp] theorem setCell_links (s : State) (c : Nat) (x : Cell) : (s.setCell c x).links = s.links := rfl
@[simp] theorem setCell_moduleNo (s : State) (c : Nat) (x : Cell) : (s.setCell c x).moduleNo = s.moduleNo := rfl
@[simp] theorem setCell_ready (s : State) (c : Nat) (x : Cell) : (s.setCell c x).ready = s.ready := rfl
@[simp] theorem setCell_phase (s : State) (c : Nat) (x : Cell) : (s.setCell c x).phase = s.phase := rfl
@[simp] theorem setCell_fwfail (s : State) (c : Nat) (x : Cell) : (s.setCell c x).fwfail = s.fwfail := rfl
@[simp] theorem setCell_hbmok (s : State) (c : Nat) (x : Cell) : (s.setCell c x).hbmok = s.hbmok := rfl
@[simp] theorem setCell_haspup (s : State) (c : Nat) (x : Cell) : (s.setCell c x).haspup = s.haspup := rfl
@[simp] theorem setCell_wbase (s : State) (c : Nat) (x : Cell) : (s.setCell c x).wbase = s.wbase := rfl
@[simp] theorem setCell_firmware (s : State) (c : Nat) (x : Cell) : (s.setCell c x).firmware = s.firmware := rfl
@[simp] theorem setCell_staged (s : State) (c : Nat) (x : Cell) : (s.setCell c x).staged = s.staged := rfl
@[simp] theorem setCell_fwCmd (s : State) (c : Nat) (x : Cell) : (s.setCell c x).fwCmd = s.fwCmd := rfl
@[simp] theorem setCell_fwStatus (s : State) (c : Nat) (x : Cell) : (s.setCell c x).fwStatus = s.fwStatus := rfl
@[simp] theorem setCell_fwAddr (s : State) (c : Nat) (x : Cell) : (s.setCell c x).fwAddr = s.fwAddr := rfl
@[simp] theorem setCell_fwLen (s : State) (c : Nat) (x : Cell) : (s.setCell c x).fwLen = s.fwLen := rfl
@[simp] theorem setCell_fwKeySlot (s : State) (c : Nat) (x : Cell) : (s.setCell c x).fwKeySlot = s.fwKeySlot := rfl
@[simp] theorem setCell_fwPart (s : State) (c : Nat) (x : Cell) : (s.setCell c x).fwPart = s.fwPart := rfl
@[simp] theorem setCell_fwVector (s : State) (c : Nat) (x : Cell) : (s.setCell c x).fwVector = s.fwVector := rfl
@[simp] theorem setCell_nonce (s : State) (c : Nat) (x : Cell) : (s.setCell c x).nonce = s.nonce := rfl
@[simp] theorem setCell_asked (s : State) (c : Nat) (x : Cell) : (s.setCell c x).asked = s.asked := rfl
@[simp] theorem setCell_astat (s : State) (c : Nat) (x : Cell) : (s.setCell c x).astat = s.astat := rfl
@[simp] theorem setCell_report (s : State) (c : Nat) (x : Cell) : (s.setCell c x).report = s.report := rfl
@[simp] theorem setCell_msixTable (s : State) (c : Nat) (x : Cell) : (s.setCell c x).msixTable = s.msixTable := rfl
@[simp] theorem setCell_msixPending (s : State) (c : Nat) (x : Cell) : (s.setCell c x).msixPending = s.msixPending := rfl
@[simp] theorem setCell_bar4Code (s : State) (c : Nat) (x : Cell) : (s.setCell c x).bar4Code = s.bar4Code := rfl
@[simp] theorem setCell_irqs (s : State) (c : Nat) (x : Cell) : (s.setCell c x).irqs = s.irqs := rfl
@[simp] theorem setCell_hostRead (s : State) (c : Nat) (x : Cell) : (s.setCell c x).hostRead = s.hostRead := rfl
@[simp] theorem setCell_clock (s : State) (c : Nat) (x : Cell) : (s.setCell c x).clock = s.clock := rfl
@[simp] theorem setCell_fresh (s : State) (c : Nat) (x : Cell) : (s.setCell c x).fresh = s.fresh := rfl
@[simp] theorem setCell_serial (s : State) (c : Nat) (x : Cell) : (s.setCell c x).serial = s.serial := rfl
@[simp] theorem setCell_actor (s : State) (c : Nat) (x : Cell) : (s.setCell c x).actor = s.actor := rfl
@[simp] theorem setCell_agenda (s : State) (c : Nat) (x : Cell) : (s.setCell c x).agenda = s.agenda := rfl
@[simp] theorem setCell_rover (s : State) (c : Nat) (x : Cell) : (s.setCell c x).rover = s.rover := rfl

/-! ### State.setCluster -/

@[simp] theorem setCluster_mem (s : State) (k : Nat) (x : Cluster) : (s.setCluster k x).mem = s.mem := rfl
@[simp] theorem setCluster_unk (s : State) (k : Nat) (x : Cluster) : (s.setCluster k x).unk = s.unk := rfl
@[simp] theorem setCluster_lines (s : State) (k : Nat) (x : Cluster) : (s.setCluster k x).lines = s.lines := rfl
@[simp] theorem setCluster_poisoned (s : State) (k : Nat) (x : Cluster) : (s.setCluster k x).poisoned = s.poisoned := rfl
@[simp] theorem setCluster_codeLog (s : State) (k : Nat) (x : Cluster) : (s.setCluster k x).codeLog = s.codeLog := rfl
@[simp] theorem setCluster_slots (s : State) (k : Nat) (x : Cluster) : (s.setCluster k x).slots = s.slots := rfl
@[simp] theorem setCluster_cells (s : State) (k : Nat) (x : Cluster) : (s.setCluster k x).cells = s.cells := rfl
@[simp] theorem setCluster_clusters (s : State) (k : Nat) (x : Cluster) : (s.setCluster k x).clusters = NMap.set s.clusters k x := rfl
@[simp] theorem setCluster_harts (s : State) (k : Nat) (x : Cluster) : (s.setCluster k x).harts = s.harts := rfl
@[simp] theorem setCluster_sent (s : State) (k : Nat) (x : Cluster) : (s.setCluster k x).sent = s.sent := rfl
@[simp] theorem setCluster_resv (s : State) (k : Nat) (x : Cluster) : (s.setCluster k x).resv = s.resv := rfl
@[simp] theorem setCluster_outbound (s : State) (k : Nat) (x : Cluster) : (s.setCluster k x).outbound = s.outbound := rfl
@[simp] theorem setCluster_parked (s : State) (k : Nat) (x : Cluster) : (s.setCluster k x).parked = s.parked := rfl
@[simp] theorem setCluster_passes (s : State) (k : Nat) (x : Cluster) : (s.setCluster k x).passes = s.passes := rfl
@[simp] theorem setCluster_parts (s : State) (k : Nat) (x : Cluster) : (s.setCluster k x).parts = s.parts := rfl
@[simp] theorem setCluster_hqs (s : State) (k : Nat) (x : Cluster) : (s.setCluster k x).hqs = s.hqs := rfl
@[simp] theorem setCluster_views (s : State) (k : Nat) (x : Cluster) : (s.setCluster k x).views = s.views := rfl
@[simp] theorem setCluster_links (s : State) (k : Nat) (x : Cluster) : (s.setCluster k x).links = s.links := rfl
@[simp] theorem setCluster_moduleNo (s : State) (k : Nat) (x : Cluster) : (s.setCluster k x).moduleNo = s.moduleNo := rfl
@[simp] theorem setCluster_ready (s : State) (k : Nat) (x : Cluster) : (s.setCluster k x).ready = s.ready := rfl
@[simp] theorem setCluster_phase (s : State) (k : Nat) (x : Cluster) : (s.setCluster k x).phase = s.phase := rfl
@[simp] theorem setCluster_fwfail (s : State) (k : Nat) (x : Cluster) : (s.setCluster k x).fwfail = s.fwfail := rfl
@[simp] theorem setCluster_hbmok (s : State) (k : Nat) (x : Cluster) : (s.setCluster k x).hbmok = s.hbmok := rfl
@[simp] theorem setCluster_haspup (s : State) (k : Nat) (x : Cluster) : (s.setCluster k x).haspup = s.haspup := rfl
@[simp] theorem setCluster_wbase (s : State) (k : Nat) (x : Cluster) : (s.setCluster k x).wbase = s.wbase := rfl
@[simp] theorem setCluster_firmware (s : State) (k : Nat) (x : Cluster) : (s.setCluster k x).firmware = s.firmware := rfl
@[simp] theorem setCluster_staged (s : State) (k : Nat) (x : Cluster) : (s.setCluster k x).staged = s.staged := rfl
@[simp] theorem setCluster_fwCmd (s : State) (k : Nat) (x : Cluster) : (s.setCluster k x).fwCmd = s.fwCmd := rfl
@[simp] theorem setCluster_fwStatus (s : State) (k : Nat) (x : Cluster) : (s.setCluster k x).fwStatus = s.fwStatus := rfl
@[simp] theorem setCluster_fwAddr (s : State) (k : Nat) (x : Cluster) : (s.setCluster k x).fwAddr = s.fwAddr := rfl
@[simp] theorem setCluster_fwLen (s : State) (k : Nat) (x : Cluster) : (s.setCluster k x).fwLen = s.fwLen := rfl
@[simp] theorem setCluster_fwKeySlot (s : State) (k : Nat) (x : Cluster) : (s.setCluster k x).fwKeySlot = s.fwKeySlot := rfl
@[simp] theorem setCluster_fwPart (s : State) (k : Nat) (x : Cluster) : (s.setCluster k x).fwPart = s.fwPart := rfl
@[simp] theorem setCluster_fwVector (s : State) (k : Nat) (x : Cluster) : (s.setCluster k x).fwVector = s.fwVector := rfl
@[simp] theorem setCluster_nonce (s : State) (k : Nat) (x : Cluster) : (s.setCluster k x).nonce = s.nonce := rfl
@[simp] theorem setCluster_asked (s : State) (k : Nat) (x : Cluster) : (s.setCluster k x).asked = s.asked := rfl
@[simp] theorem setCluster_astat (s : State) (k : Nat) (x : Cluster) : (s.setCluster k x).astat = s.astat := rfl
@[simp] theorem setCluster_report (s : State) (k : Nat) (x : Cluster) : (s.setCluster k x).report = s.report := rfl
@[simp] theorem setCluster_msixTable (s : State) (k : Nat) (x : Cluster) : (s.setCluster k x).msixTable = s.msixTable := rfl
@[simp] theorem setCluster_msixPending (s : State) (k : Nat) (x : Cluster) : (s.setCluster k x).msixPending = s.msixPending := rfl
@[simp] theorem setCluster_bar4Code (s : State) (k : Nat) (x : Cluster) : (s.setCluster k x).bar4Code = s.bar4Code := rfl
@[simp] theorem setCluster_irqs (s : State) (k : Nat) (x : Cluster) : (s.setCluster k x).irqs = s.irqs := rfl
@[simp] theorem setCluster_hostRead (s : State) (k : Nat) (x : Cluster) : (s.setCluster k x).hostRead = s.hostRead := rfl
@[simp] theorem setCluster_clock (s : State) (k : Nat) (x : Cluster) : (s.setCluster k x).clock = s.clock := rfl
@[simp] theorem setCluster_fresh (s : State) (k : Nat) (x : Cluster) : (s.setCluster k x).fresh = s.fresh := rfl
@[simp] theorem setCluster_serial (s : State) (k : Nat) (x : Cluster) : (s.setCluster k x).serial = s.serial := rfl
@[simp] theorem setCluster_actor (s : State) (k : Nat) (x : Cluster) : (s.setCluster k x).actor = s.actor := rfl
@[simp] theorem setCluster_agenda (s : State) (k : Nat) (x : Cluster) : (s.setCluster k x).agenda = s.agenda := rfl
@[simp] theorem setCluster_rover (s : State) (k : Nat) (x : Cluster) : (s.setCluster k x).rover = s.rover := rfl

/-! ### State.setHart -/

@[simp] theorem setHart_mem (s : State) (h : Nat) (x : Hart) : (s.setHart h x).mem = s.mem := rfl
@[simp] theorem setHart_unk (s : State) (h : Nat) (x : Hart) : (s.setHart h x).unk = s.unk := rfl
@[simp] theorem setHart_lines (s : State) (h : Nat) (x : Hart) : (s.setHart h x).lines = s.lines := rfl
@[simp] theorem setHart_poisoned (s : State) (h : Nat) (x : Hart) : (s.setHart h x).poisoned = s.poisoned := rfl
@[simp] theorem setHart_codeLog (s : State) (h : Nat) (x : Hart) : (s.setHart h x).codeLog = s.codeLog := rfl
@[simp] theorem setHart_slots (s : State) (h : Nat) (x : Hart) : (s.setHart h x).slots = s.slots := rfl
@[simp] theorem setHart_cells (s : State) (h : Nat) (x : Hart) : (s.setHart h x).cells = s.cells := rfl
@[simp] theorem setHart_clusters (s : State) (h : Nat) (x : Hart) : (s.setHart h x).clusters = s.clusters := rfl
@[simp] theorem setHart_harts (s : State) (h : Nat) (x : Hart) : (s.setHart h x).harts = NMap.set s.harts h x := rfl
@[simp] theorem setHart_sent (s : State) (h : Nat) (x : Hart) : (s.setHart h x).sent = s.sent := rfl
@[simp] theorem setHart_resv (s : State) (h : Nat) (x : Hart) : (s.setHart h x).resv = s.resv := rfl
@[simp] theorem setHart_outbound (s : State) (h : Nat) (x : Hart) : (s.setHart h x).outbound = s.outbound := rfl
@[simp] theorem setHart_parked (s : State) (h : Nat) (x : Hart) : (s.setHart h x).parked = s.parked := rfl
@[simp] theorem setHart_passes (s : State) (h : Nat) (x : Hart) : (s.setHart h x).passes = s.passes := rfl
@[simp] theorem setHart_parts (s : State) (h : Nat) (x : Hart) : (s.setHart h x).parts = s.parts := rfl
@[simp] theorem setHart_hqs (s : State) (h : Nat) (x : Hart) : (s.setHart h x).hqs = s.hqs := rfl
@[simp] theorem setHart_views (s : State) (h : Nat) (x : Hart) : (s.setHart h x).views = s.views := rfl
@[simp] theorem setHart_links (s : State) (h : Nat) (x : Hart) : (s.setHart h x).links = s.links := rfl
@[simp] theorem setHart_moduleNo (s : State) (h : Nat) (x : Hart) : (s.setHart h x).moduleNo = s.moduleNo := rfl
@[simp] theorem setHart_ready (s : State) (h : Nat) (x : Hart) : (s.setHart h x).ready = s.ready := rfl
@[simp] theorem setHart_phase (s : State) (h : Nat) (x : Hart) : (s.setHart h x).phase = s.phase := rfl
@[simp] theorem setHart_fwfail (s : State) (h : Nat) (x : Hart) : (s.setHart h x).fwfail = s.fwfail := rfl
@[simp] theorem setHart_hbmok (s : State) (h : Nat) (x : Hart) : (s.setHart h x).hbmok = s.hbmok := rfl
@[simp] theorem setHart_haspup (s : State) (h : Nat) (x : Hart) : (s.setHart h x).haspup = s.haspup := rfl
@[simp] theorem setHart_wbase (s : State) (h : Nat) (x : Hart) : (s.setHart h x).wbase = s.wbase := rfl
@[simp] theorem setHart_firmware (s : State) (h : Nat) (x : Hart) : (s.setHart h x).firmware = s.firmware := rfl
@[simp] theorem setHart_staged (s : State) (h : Nat) (x : Hart) : (s.setHart h x).staged = s.staged := rfl
@[simp] theorem setHart_fwCmd (s : State) (h : Nat) (x : Hart) : (s.setHart h x).fwCmd = s.fwCmd := rfl
@[simp] theorem setHart_fwStatus (s : State) (h : Nat) (x : Hart) : (s.setHart h x).fwStatus = s.fwStatus := rfl
@[simp] theorem setHart_fwAddr (s : State) (h : Nat) (x : Hart) : (s.setHart h x).fwAddr = s.fwAddr := rfl
@[simp] theorem setHart_fwLen (s : State) (h : Nat) (x : Hart) : (s.setHart h x).fwLen = s.fwLen := rfl
@[simp] theorem setHart_fwKeySlot (s : State) (h : Nat) (x : Hart) : (s.setHart h x).fwKeySlot = s.fwKeySlot := rfl
@[simp] theorem setHart_fwPart (s : State) (h : Nat) (x : Hart) : (s.setHart h x).fwPart = s.fwPart := rfl
@[simp] theorem setHart_fwVector (s : State) (h : Nat) (x : Hart) : (s.setHart h x).fwVector = s.fwVector := rfl
@[simp] theorem setHart_nonce (s : State) (h : Nat) (x : Hart) : (s.setHart h x).nonce = s.nonce := rfl
@[simp] theorem setHart_asked (s : State) (h : Nat) (x : Hart) : (s.setHart h x).asked = s.asked := rfl
@[simp] theorem setHart_astat (s : State) (h : Nat) (x : Hart) : (s.setHart h x).astat = s.astat := rfl
@[simp] theorem setHart_report (s : State) (h : Nat) (x : Hart) : (s.setHart h x).report = s.report := rfl
@[simp] theorem setHart_msixTable (s : State) (h : Nat) (x : Hart) : (s.setHart h x).msixTable = s.msixTable := rfl
@[simp] theorem setHart_msixPending (s : State) (h : Nat) (x : Hart) : (s.setHart h x).msixPending = s.msixPending := rfl
@[simp] theorem setHart_bar4Code (s : State) (h : Nat) (x : Hart) : (s.setHart h x).bar4Code = s.bar4Code := rfl
@[simp] theorem setHart_irqs (s : State) (h : Nat) (x : Hart) : (s.setHart h x).irqs = s.irqs := rfl
@[simp] theorem setHart_hostRead (s : State) (h : Nat) (x : Hart) : (s.setHart h x).hostRead = s.hostRead := rfl
@[simp] theorem setHart_clock (s : State) (h : Nat) (x : Hart) : (s.setHart h x).clock = s.clock := rfl
@[simp] theorem setHart_fresh (s : State) (h : Nat) (x : Hart) : (s.setHart h x).fresh = s.fresh := rfl
@[simp] theorem setHart_serial (s : State) (h : Nat) (x : Hart) : (s.setHart h x).serial = s.serial := rfl
@[simp] theorem setHart_actor (s : State) (h : Nat) (x : Hart) : (s.setHart h x).actor = s.actor := rfl
@[simp] theorem setHart_agenda (s : State) (h : Nat) (x : Hart) : (s.setHart h x).agenda = s.agenda := rfl
@[simp] theorem setHart_rover (s : State) (h : Nat) (x : Hart) : (s.setHart h x).rover = s.rover := rfl

/-! ### State.setHq -/

@[simp] theorem setHq_mem (s : State) (q : Nat) (x : HostQueue) : (s.setHq q x).mem = s.mem := rfl
@[simp] theorem setHq_unk (s : State) (q : Nat) (x : HostQueue) : (s.setHq q x).unk = s.unk := rfl
@[simp] theorem setHq_lines (s : State) (q : Nat) (x : HostQueue) : (s.setHq q x).lines = s.lines := rfl
@[simp] theorem setHq_poisoned (s : State) (q : Nat) (x : HostQueue) : (s.setHq q x).poisoned = s.poisoned := rfl
@[simp] theorem setHq_codeLog (s : State) (q : Nat) (x : HostQueue) : (s.setHq q x).codeLog = s.codeLog := rfl
@[simp] theorem setHq_slots (s : State) (q : Nat) (x : HostQueue) : (s.setHq q x).slots = s.slots := rfl
@[simp] theorem setHq_cells (s : State) (q : Nat) (x : HostQueue) : (s.setHq q x).cells = s.cells := rfl
@[simp] theorem setHq_clusters (s : State) (q : Nat) (x : HostQueue) : (s.setHq q x).clusters = s.clusters := rfl
@[simp] theorem setHq_harts (s : State) (q : Nat) (x : HostQueue) : (s.setHq q x).harts = s.harts := rfl
@[simp] theorem setHq_sent (s : State) (q : Nat) (x : HostQueue) : (s.setHq q x).sent = s.sent := rfl
@[simp] theorem setHq_resv (s : State) (q : Nat) (x : HostQueue) : (s.setHq q x).resv = s.resv := rfl
@[simp] theorem setHq_outbound (s : State) (q : Nat) (x : HostQueue) : (s.setHq q x).outbound = s.outbound := rfl
@[simp] theorem setHq_parked (s : State) (q : Nat) (x : HostQueue) : (s.setHq q x).parked = s.parked := rfl
@[simp] theorem setHq_passes (s : State) (q : Nat) (x : HostQueue) : (s.setHq q x).passes = s.passes := rfl
@[simp] theorem setHq_parts (s : State) (q : Nat) (x : HostQueue) : (s.setHq q x).parts = s.parts := rfl
@[simp] theorem setHq_hqs (s : State) (q : Nat) (x : HostQueue) : (s.setHq q x).hqs = NMap.set s.hqs q x := rfl
@[simp] theorem setHq_views (s : State) (q : Nat) (x : HostQueue) : (s.setHq q x).views = s.views := rfl
@[simp] theorem setHq_links (s : State) (q : Nat) (x : HostQueue) : (s.setHq q x).links = s.links := rfl
@[simp] theorem setHq_moduleNo (s : State) (q : Nat) (x : HostQueue) : (s.setHq q x).moduleNo = s.moduleNo := rfl
@[simp] theorem setHq_ready (s : State) (q : Nat) (x : HostQueue) : (s.setHq q x).ready = s.ready := rfl
@[simp] theorem setHq_phase (s : State) (q : Nat) (x : HostQueue) : (s.setHq q x).phase = s.phase := rfl
@[simp] theorem setHq_fwfail (s : State) (q : Nat) (x : HostQueue) : (s.setHq q x).fwfail = s.fwfail := rfl
@[simp] theorem setHq_hbmok (s : State) (q : Nat) (x : HostQueue) : (s.setHq q x).hbmok = s.hbmok := rfl
@[simp] theorem setHq_haspup (s : State) (q : Nat) (x : HostQueue) : (s.setHq q x).haspup = s.haspup := rfl
@[simp] theorem setHq_wbase (s : State) (q : Nat) (x : HostQueue) : (s.setHq q x).wbase = s.wbase := rfl
@[simp] theorem setHq_firmware (s : State) (q : Nat) (x : HostQueue) : (s.setHq q x).firmware = s.firmware := rfl
@[simp] theorem setHq_staged (s : State) (q : Nat) (x : HostQueue) : (s.setHq q x).staged = s.staged := rfl
@[simp] theorem setHq_fwCmd (s : State) (q : Nat) (x : HostQueue) : (s.setHq q x).fwCmd = s.fwCmd := rfl
@[simp] theorem setHq_fwStatus (s : State) (q : Nat) (x : HostQueue) : (s.setHq q x).fwStatus = s.fwStatus := rfl
@[simp] theorem setHq_fwAddr (s : State) (q : Nat) (x : HostQueue) : (s.setHq q x).fwAddr = s.fwAddr := rfl
@[simp] theorem setHq_fwLen (s : State) (q : Nat) (x : HostQueue) : (s.setHq q x).fwLen = s.fwLen := rfl
@[simp] theorem setHq_fwKeySlot (s : State) (q : Nat) (x : HostQueue) : (s.setHq q x).fwKeySlot = s.fwKeySlot := rfl
@[simp] theorem setHq_fwPart (s : State) (q : Nat) (x : HostQueue) : (s.setHq q x).fwPart = s.fwPart := rfl
@[simp] theorem setHq_fwVector (s : State) (q : Nat) (x : HostQueue) : (s.setHq q x).fwVector = s.fwVector := rfl
@[simp] theorem setHq_nonce (s : State) (q : Nat) (x : HostQueue) : (s.setHq q x).nonce = s.nonce := rfl
@[simp] theorem setHq_asked (s : State) (q : Nat) (x : HostQueue) : (s.setHq q x).asked = s.asked := rfl
@[simp] theorem setHq_astat (s : State) (q : Nat) (x : HostQueue) : (s.setHq q x).astat = s.astat := rfl
@[simp] theorem setHq_report (s : State) (q : Nat) (x : HostQueue) : (s.setHq q x).report = s.report := rfl
@[simp] theorem setHq_msixTable (s : State) (q : Nat) (x : HostQueue) : (s.setHq q x).msixTable = s.msixTable := rfl
@[simp] theorem setHq_msixPending (s : State) (q : Nat) (x : HostQueue) : (s.setHq q x).msixPending = s.msixPending := rfl
@[simp] theorem setHq_bar4Code (s : State) (q : Nat) (x : HostQueue) : (s.setHq q x).bar4Code = s.bar4Code := rfl
@[simp] theorem setHq_irqs (s : State) (q : Nat) (x : HostQueue) : (s.setHq q x).irqs = s.irqs := rfl
@[simp] theorem setHq_hostRead (s : State) (q : Nat) (x : HostQueue) : (s.setHq q x).hostRead = s.hostRead := rfl
@[simp] theorem setHq_clock (s : State) (q : Nat) (x : HostQueue) : (s.setHq q x).clock = s.clock := rfl
@[simp] theorem setHq_fresh (s : State) (q : Nat) (x : HostQueue) : (s.setHq q x).fresh = s.fresh := rfl
@[simp] theorem setHq_serial (s : State) (q : Nat) (x : HostQueue) : (s.setHq q x).serial = s.serial := rfl
@[simp] theorem setHq_actor (s : State) (q : Nat) (x : HostQueue) : (s.setHq q x).actor = s.actor := rfl
@[simp] theorem setHq_agenda (s : State) (q : Nat) (x : HostQueue) : (s.setHq q x).agenda = s.agenda := rfl
@[simp] theorem setHq_rover (s : State) (q : Nat) (x : HostQueue) : (s.setHq q x).rover = s.rover := rfl

/-! ### State.setView -/

@[simp] theorem setView_mem (s : State) (e : Nat) (x : ViewEngine) : (s.setView e x).mem = s.mem := rfl
@[simp] theorem setView_unk (s : State) (e : Nat) (x : ViewEngine) : (s.setView e x).unk = s.unk := rfl
@[simp] theorem setView_lines (s : State) (e : Nat) (x : ViewEngine) : (s.setView e x).lines = s.lines := rfl
@[simp] theorem setView_poisoned (s : State) (e : Nat) (x : ViewEngine) : (s.setView e x).poisoned = s.poisoned := rfl
@[simp] theorem setView_codeLog (s : State) (e : Nat) (x : ViewEngine) : (s.setView e x).codeLog = s.codeLog := rfl
@[simp] theorem setView_slots (s : State) (e : Nat) (x : ViewEngine) : (s.setView e x).slots = s.slots := rfl
@[simp] theorem setView_cells (s : State) (e : Nat) (x : ViewEngine) : (s.setView e x).cells = s.cells := rfl
@[simp] theorem setView_clusters (s : State) (e : Nat) (x : ViewEngine) : (s.setView e x).clusters = s.clusters := rfl
@[simp] theorem setView_harts (s : State) (e : Nat) (x : ViewEngine) : (s.setView e x).harts = s.harts := rfl
@[simp] theorem setView_sent (s : State) (e : Nat) (x : ViewEngine) : (s.setView e x).sent = s.sent := rfl
@[simp] theorem setView_resv (s : State) (e : Nat) (x : ViewEngine) : (s.setView e x).resv = s.resv := rfl
@[simp] theorem setView_outbound (s : State) (e : Nat) (x : ViewEngine) : (s.setView e x).outbound = s.outbound := rfl
@[simp] theorem setView_parked (s : State) (e : Nat) (x : ViewEngine) : (s.setView e x).parked = s.parked := rfl
@[simp] theorem setView_passes (s : State) (e : Nat) (x : ViewEngine) : (s.setView e x).passes = s.passes := rfl
@[simp] theorem setView_parts (s : State) (e : Nat) (x : ViewEngine) : (s.setView e x).parts = s.parts := rfl
@[simp] theorem setView_hqs (s : State) (e : Nat) (x : ViewEngine) : (s.setView e x).hqs = s.hqs := rfl
@[simp] theorem setView_views (s : State) (e : Nat) (x : ViewEngine) : (s.setView e x).views = NMap.set s.views e x := rfl
@[simp] theorem setView_links (s : State) (e : Nat) (x : ViewEngine) : (s.setView e x).links = s.links := rfl
@[simp] theorem setView_moduleNo (s : State) (e : Nat) (x : ViewEngine) : (s.setView e x).moduleNo = s.moduleNo := rfl
@[simp] theorem setView_ready (s : State) (e : Nat) (x : ViewEngine) : (s.setView e x).ready = s.ready := rfl
@[simp] theorem setView_phase (s : State) (e : Nat) (x : ViewEngine) : (s.setView e x).phase = s.phase := rfl
@[simp] theorem setView_fwfail (s : State) (e : Nat) (x : ViewEngine) : (s.setView e x).fwfail = s.fwfail := rfl
@[simp] theorem setView_hbmok (s : State) (e : Nat) (x : ViewEngine) : (s.setView e x).hbmok = s.hbmok := rfl
@[simp] theorem setView_haspup (s : State) (e : Nat) (x : ViewEngine) : (s.setView e x).haspup = s.haspup := rfl
@[simp] theorem setView_wbase (s : State) (e : Nat) (x : ViewEngine) : (s.setView e x).wbase = s.wbase := rfl
@[simp] theorem setView_firmware (s : State) (e : Nat) (x : ViewEngine) : (s.setView e x).firmware = s.firmware := rfl
@[simp] theorem setView_staged (s : State) (e : Nat) (x : ViewEngine) : (s.setView e x).staged = s.staged := rfl
@[simp] theorem setView_fwCmd (s : State) (e : Nat) (x : ViewEngine) : (s.setView e x).fwCmd = s.fwCmd := rfl
@[simp] theorem setView_fwStatus (s : State) (e : Nat) (x : ViewEngine) : (s.setView e x).fwStatus = s.fwStatus := rfl
@[simp] theorem setView_fwAddr (s : State) (e : Nat) (x : ViewEngine) : (s.setView e x).fwAddr = s.fwAddr := rfl
@[simp] theorem setView_fwLen (s : State) (e : Nat) (x : ViewEngine) : (s.setView e x).fwLen = s.fwLen := rfl
@[simp] theorem setView_fwKeySlot (s : State) (e : Nat) (x : ViewEngine) : (s.setView e x).fwKeySlot = s.fwKeySlot := rfl
@[simp] theorem setView_fwPart (s : State) (e : Nat) (x : ViewEngine) : (s.setView e x).fwPart = s.fwPart := rfl
@[simp] theorem setView_fwVector (s : State) (e : Nat) (x : ViewEngine) : (s.setView e x).fwVector = s.fwVector := rfl
@[simp] theorem setView_nonce (s : State) (e : Nat) (x : ViewEngine) : (s.setView e x).nonce = s.nonce := rfl
@[simp] theorem setView_asked (s : State) (e : Nat) (x : ViewEngine) : (s.setView e x).asked = s.asked := rfl
@[simp] theorem setView_astat (s : State) (e : Nat) (x : ViewEngine) : (s.setView e x).astat = s.astat := rfl
@[simp] theorem setView_report (s : State) (e : Nat) (x : ViewEngine) : (s.setView e x).report = s.report := rfl
@[simp] theorem setView_msixTable (s : State) (e : Nat) (x : ViewEngine) : (s.setView e x).msixTable = s.msixTable := rfl
@[simp] theorem setView_msixPending (s : State) (e : Nat) (x : ViewEngine) : (s.setView e x).msixPending = s.msixPending := rfl
@[simp] theorem setView_bar4Code (s : State) (e : Nat) (x : ViewEngine) : (s.setView e x).bar4Code = s.bar4Code := rfl
@[simp] theorem setView_irqs (s : State) (e : Nat) (x : ViewEngine) : (s.setView e x).irqs = s.irqs := rfl
@[simp] theorem setView_hostRead (s : State) (e : Nat) (x : ViewEngine) : (s.setView e x).hostRead = s.hostRead := rfl
@[simp] theorem setView_clock (s : State) (e : Nat) (x : ViewEngine) : (s.setView e x).clock = s.clock := rfl
@[simp] theorem setView_fresh (s : State) (e : Nat) (x : ViewEngine) : (s.setView e x).fresh = s.fresh := rfl
@[simp] theorem setView_serial (s : State) (e : Nat) (x : ViewEngine) : (s.setView e x).serial = s.serial := rfl
@[simp] theorem setView_actor (s : State) (e : Nat) (x : ViewEngine) : (s.setView e x).actor = s.actor := rfl
@[simp] theorem setView_agenda (s : State) (e : Nat) (x : ViewEngine) : (s.setView e x).agenda = s.agenda := rfl
@[simp] theorem setView_rover (s : State) (e : Nat) (x : ViewEngine) : (s.setView e x).rover = s.rover := rfl

/-! ### State.setLink -/

@[simp] theorem setLink_mem (s : State) (n : Nat) (x : Link) : (s.setLink n x).mem = s.mem := rfl
@[simp] theorem setLink_unk (s : State) (n : Nat) (x : Link) : (s.setLink n x).unk = s.unk := rfl
@[simp] theorem setLink_lines (s : State) (n : Nat) (x : Link) : (s.setLink n x).lines = s.lines := rfl
@[simp] theorem setLink_poisoned (s : State) (n : Nat) (x : Link) : (s.setLink n x).poisoned = s.poisoned := rfl
@[simp] theorem setLink_codeLog (s : State) (n : Nat) (x : Link) : (s.setLink n x).codeLog = s.codeLog := rfl
@[simp] theorem setLink_slots (s : State) (n : Nat) (x : Link) : (s.setLink n x).slots = s.slots := rfl
@[simp] theorem setLink_cells (s : State) (n : Nat) (x : Link) : (s.setLink n x).cells = s.cells := rfl
@[simp] theorem setLink_clusters (s : State) (n : Nat) (x : Link) : (s.setLink n x).clusters = s.clusters := rfl
@[simp] theorem setLink_harts (s : State) (n : Nat) (x : Link) : (s.setLink n x).harts = s.harts := rfl
@[simp] theorem setLink_sent (s : State) (n : Nat) (x : Link) : (s.setLink n x).sent = s.sent := rfl
@[simp] theorem setLink_resv (s : State) (n : Nat) (x : Link) : (s.setLink n x).resv = s.resv := rfl
@[simp] theorem setLink_outbound (s : State) (n : Nat) (x : Link) : (s.setLink n x).outbound = s.outbound := rfl
@[simp] theorem setLink_parked (s : State) (n : Nat) (x : Link) : (s.setLink n x).parked = s.parked := rfl
@[simp] theorem setLink_passes (s : State) (n : Nat) (x : Link) : (s.setLink n x).passes = s.passes := rfl
@[simp] theorem setLink_parts (s : State) (n : Nat) (x : Link) : (s.setLink n x).parts = s.parts := rfl
@[simp] theorem setLink_hqs (s : State) (n : Nat) (x : Link) : (s.setLink n x).hqs = s.hqs := rfl
@[simp] theorem setLink_views (s : State) (n : Nat) (x : Link) : (s.setLink n x).views = s.views := rfl
@[simp] theorem setLink_links (s : State) (n : Nat) (x : Link) : (s.setLink n x).links = NMap.set s.links n x := rfl
@[simp] theorem setLink_moduleNo (s : State) (n : Nat) (x : Link) : (s.setLink n x).moduleNo = s.moduleNo := rfl
@[simp] theorem setLink_ready (s : State) (n : Nat) (x : Link) : (s.setLink n x).ready = s.ready := rfl
@[simp] theorem setLink_phase (s : State) (n : Nat) (x : Link) : (s.setLink n x).phase = s.phase := rfl
@[simp] theorem setLink_fwfail (s : State) (n : Nat) (x : Link) : (s.setLink n x).fwfail = s.fwfail := rfl
@[simp] theorem setLink_hbmok (s : State) (n : Nat) (x : Link) : (s.setLink n x).hbmok = s.hbmok := rfl
@[simp] theorem setLink_haspup (s : State) (n : Nat) (x : Link) : (s.setLink n x).haspup = s.haspup := rfl
@[simp] theorem setLink_wbase (s : State) (n : Nat) (x : Link) : (s.setLink n x).wbase = s.wbase := rfl
@[simp] theorem setLink_firmware (s : State) (n : Nat) (x : Link) : (s.setLink n x).firmware = s.firmware := rfl
@[simp] theorem setLink_staged (s : State) (n : Nat) (x : Link) : (s.setLink n x).staged = s.staged := rfl
@[simp] theorem setLink_fwCmd (s : State) (n : Nat) (x : Link) : (s.setLink n x).fwCmd = s.fwCmd := rfl
@[simp] theorem setLink_fwStatus (s : State) (n : Nat) (x : Link) : (s.setLink n x).fwStatus = s.fwStatus := rfl
@[simp] theorem setLink_fwAddr (s : State) (n : Nat) (x : Link) : (s.setLink n x).fwAddr = s.fwAddr := rfl
@[simp] theorem setLink_fwLen (s : State) (n : Nat) (x : Link) : (s.setLink n x).fwLen = s.fwLen := rfl
@[simp] theorem setLink_fwKeySlot (s : State) (n : Nat) (x : Link) : (s.setLink n x).fwKeySlot = s.fwKeySlot := rfl
@[simp] theorem setLink_fwPart (s : State) (n : Nat) (x : Link) : (s.setLink n x).fwPart = s.fwPart := rfl
@[simp] theorem setLink_fwVector (s : State) (n : Nat) (x : Link) : (s.setLink n x).fwVector = s.fwVector := rfl
@[simp] theorem setLink_nonce (s : State) (n : Nat) (x : Link) : (s.setLink n x).nonce = s.nonce := rfl
@[simp] theorem setLink_asked (s : State) (n : Nat) (x : Link) : (s.setLink n x).asked = s.asked := rfl
@[simp] theorem setLink_astat (s : State) (n : Nat) (x : Link) : (s.setLink n x).astat = s.astat := rfl
@[simp] theorem setLink_report (s : State) (n : Nat) (x : Link) : (s.setLink n x).report = s.report := rfl
@[simp] theorem setLink_msixTable (s : State) (n : Nat) (x : Link) : (s.setLink n x).msixTable = s.msixTable := rfl
@[simp] theorem setLink_msixPending (s : State) (n : Nat) (x : Link) : (s.setLink n x).msixPending = s.msixPending := rfl
@[simp] theorem setLink_bar4Code (s : State) (n : Nat) (x : Link) : (s.setLink n x).bar4Code = s.bar4Code := rfl
@[simp] theorem setLink_irqs (s : State) (n : Nat) (x : Link) : (s.setLink n x).irqs = s.irqs := rfl
@[simp] theorem setLink_hostRead (s : State) (n : Nat) (x : Link) : (s.setLink n x).hostRead = s.hostRead := rfl
@[simp] theorem setLink_clock (s : State) (n : Nat) (x : Link) : (s.setLink n x).clock = s.clock := rfl
@[simp] theorem setLink_fresh (s : State) (n : Nat) (x : Link) : (s.setLink n x).fresh = s.fresh := rfl
@[simp] theorem setLink_serial (s : State) (n : Nat) (x : Link) : (s.setLink n x).serial = s.serial := rfl
@[simp] theorem setLink_actor (s : State) (n : Nat) (x : Link) : (s.setLink n x).actor = s.actor := rfl
@[simp] theorem setLink_agenda (s : State) (n : Nat) (x : Link) : (s.setLink n x).agenda = s.agenda := rfl
@[simp] theorem setLink_rover (s : State) (n : Nat) (x : Link) : (s.setLink n x).rover = s.rover := rfl

/-! ### State.raise -/

@[simp] theorem raise_mem (s : State) (v : Nat) : (s.raise v).mem = s.mem := by
  simp only [State.raise]; split <;> rfl
@[simp] theorem raise_unk (s : State) (v : Nat) : (s.raise v).unk = s.unk := by
  simp only [State.raise]; split <;> rfl
@[simp] theorem raise_lines (s : State) (v : Nat) : (s.raise v).lines = s.lines := by
  simp only [State.raise]; split <;> rfl
@[simp] theorem raise_poisoned (s : State) (v : Nat) : (s.raise v).poisoned = s.poisoned := by
  simp only [State.raise]; split <;> rfl
@[simp] theorem raise_codeLog (s : State) (v : Nat) : (s.raise v).codeLog = s.codeLog := by
  simp only [State.raise]; split <;> rfl
@[simp] theorem raise_slots (s : State) (v : Nat) : (s.raise v).slots = s.slots := by
  simp only [State.raise]; split <;> rfl
@[simp] theorem raise_cells (s : State) (v : Nat) : (s.raise v).cells = s.cells := by
  simp only [State.raise]; split <;> rfl
@[simp] theorem raise_clusters (s : State) (v : Nat) : (s.raise v).clusters = s.clusters := by
  simp only [State.raise]; split <;> rfl
@[simp] theorem raise_harts (s : State) (v : Nat) : (s.raise v).harts = s.harts := by
  simp only [State.raise]; split <;> rfl
@[simp] theorem raise_sent (s : State) (v : Nat) : (s.raise v).sent = s.sent := by
  simp only [State.raise]; split <;> rfl
@[simp] theorem raise_resv (s : State) (v : Nat) : (s.raise v).resv = s.resv := by
  simp only [State.raise]; split <;> rfl
@[simp] theorem raise_outbound (s : State) (v : Nat) : (s.raise v).outbound = s.outbound := by
  simp only [State.raise]; split <;> rfl
@[simp] theorem raise_parked (s : State) (v : Nat) : (s.raise v).parked = s.parked := by
  simp only [State.raise]; split <;> rfl
@[simp] theorem raise_passes (s : State) (v : Nat) : (s.raise v).passes = s.passes := by
  simp only [State.raise]; split <;> rfl
@[simp] theorem raise_parts (s : State) (v : Nat) : (s.raise v).parts = s.parts := by
  simp only [State.raise]; split <;> rfl
@[simp] theorem raise_hqs (s : State) (v : Nat) : (s.raise v).hqs = s.hqs := by
  simp only [State.raise]; split <;> rfl
@[simp] theorem raise_views (s : State) (v : Nat) : (s.raise v).views = s.views := by
  simp only [State.raise]; split <;> rfl
@[simp] theorem raise_links (s : State) (v : Nat) : (s.raise v).links = s.links := by
  simp only [State.raise]; split <;> rfl
@[simp] theorem raise_moduleNo (s : State) (v : Nat) : (s.raise v).moduleNo = s.moduleNo := by
  simp only [State.raise]; split <;> rfl
@[simp] theorem raise_ready (s : State) (v : Nat) : (s.raise v).ready = s.ready := by
  simp only [State.raise]; split <;> rfl
@[simp] theorem raise_phase (s : State) (v : Nat) : (s.raise v).phase = s.phase := by
  simp only [State.raise]; split <;> rfl
@[simp] theorem raise_fwfail (s : State) (v : Nat) : (s.raise v).fwfail = s.fwfail := by
  simp only [State.raise]; split <;> rfl
@[simp] theorem raise_hbmok (s : State) (v : Nat) : (s.raise v).hbmok = s.hbmok := by
  simp only [State.raise]; split <;> rfl
@[simp] theorem raise_haspup (s : State) (v : Nat) : (s.raise v).haspup = s.haspup := by
  simp only [State.raise]; split <;> rfl
@[simp] theorem raise_wbase (s : State) (v : Nat) : (s.raise v).wbase = s.wbase := by
  simp only [State.raise]; split <;> rfl
@[simp] theorem raise_firmware (s : State) (v : Nat) : (s.raise v).firmware = s.firmware := by
  simp only [State.raise]; split <;> rfl
@[simp] theorem raise_staged (s : State) (v : Nat) : (s.raise v).staged = s.staged := by
  simp only [State.raise]; split <;> rfl
@[simp] theorem raise_fwCmd (s : State) (v : Nat) : (s.raise v).fwCmd = s.fwCmd := by
  simp only [State.raise]; split <;> rfl
@[simp] theorem raise_fwStatus (s : State) (v : Nat) : (s.raise v).fwStatus = s.fwStatus := by
  simp only [State.raise]; split <;> rfl
@[simp] theorem raise_fwAddr (s : State) (v : Nat) : (s.raise v).fwAddr = s.fwAddr := by
  simp only [State.raise]; split <;> rfl
@[simp] theorem raise_fwLen (s : State) (v : Nat) : (s.raise v).fwLen = s.fwLen := by
  simp only [State.raise]; split <;> rfl
@[simp] theorem raise_fwKeySlot (s : State) (v : Nat) : (s.raise v).fwKeySlot = s.fwKeySlot := by
  simp only [State.raise]; split <;> rfl
@[simp] theorem raise_fwPart (s : State) (v : Nat) : (s.raise v).fwPart = s.fwPart := by
  simp only [State.raise]; split <;> rfl
@[simp] theorem raise_fwVector (s : State) (v : Nat) : (s.raise v).fwVector = s.fwVector := by
  simp only [State.raise]; split <;> rfl
@[simp] theorem raise_nonce (s : State) (v : Nat) : (s.raise v).nonce = s.nonce := by
  simp only [State.raise]; split <;> rfl
@[simp] theorem raise_asked (s : State) (v : Nat) : (s.raise v).asked = s.asked := by
  simp only [State.raise]; split <;> rfl
@[simp] theorem raise_astat (s : State) (v : Nat) : (s.raise v).astat = s.astat := by
  simp only [State.raise]; split <;> rfl
@[simp] theorem raise_report (s : State) (v : Nat) : (s.raise v).report = s.report := by
  simp only [State.raise]; split <;> rfl
@[simp] theorem raise_msixTable (s : State) (v : Nat) : (s.raise v).msixTable = s.msixTable := by
  simp only [State.raise]; split <;> rfl
@[simp] theorem raise_bar4Code (s : State) (v : Nat) : (s.raise v).bar4Code = s.bar4Code := by
  simp only [State.raise]; split <;> rfl
@[simp] theorem raise_hostRead (s : State) (v : Nat) : (s.raise v).hostRead = s.hostRead := by
  simp only [State.raise]; split <;> rfl
@[simp] theorem raise_clock (s : State) (v : Nat) : (s.raise v).clock = s.clock := by
  simp only [State.raise]; split <;> rfl
@[simp] theorem raise_fresh (s : State) (v : Nat) : (s.raise v).fresh = s.fresh := by
  simp only [State.raise]; split <;> rfl
@[simp] theorem raise_serial (s : State) (v : Nat) : (s.raise v).serial = s.serial := by
  simp only [State.raise]; split <;> rfl
@[simp] theorem raise_actor (s : State) (v : Nat) : (s.raise v).actor = s.actor := by
  simp only [State.raise]; split <;> rfl
@[simp] theorem raise_agenda (s : State) (v : Nat) : (s.raise v).agenda = s.agenda := by
  simp only [State.raise]; split <;> rfl
@[simp] theorem raise_rover (s : State) (v : Nat) : (s.raise v).rover = s.rover := by
  simp only [State.raise]; split <;> rfl

/-- An interrupt whose vector is not masked is raised. -/
theorem raise_unmasked {s : State} {v : Nat} (h : s.masked v = false) : s.raise v = { s with irqs := s.irqs ++ [v] } := by
  simp [State.raise, h]

/-! ### State.setByte -/

@[simp] theorem setByte_mem (s : State) (a : Nat) (b : BitVec 8) : (s.setByte a b).mem = Mem.set s.mem a b := rfl
@[simp] theorem setByte_unk (s : State) (a : Nat) (b : BitVec 8) : (s.setByte a b).unk = NMap.erase s.unk a := rfl
@[simp] theorem setByte_lines (s : State) (a : Nat) (b : BitVec 8) : (s.setByte a b).lines = s.lines := rfl
@[simp] theorem setByte_poisoned (s : State) (a : Nat) (b : BitVec 8) : (s.setByte a b).poisoned = s.poisoned := rfl
@[simp] theorem setByte_codeLog (s : State) (a : Nat) (b : BitVec 8) : (s.setByte a b).codeLog = s.codeLog := rfl
@[simp] theorem setByte_slots (s : State) (a : Nat) (b : BitVec 8) : (s.setByte a b).slots = s.slots := rfl
@[simp] theorem setByte_cells (s : State) (a : Nat) (b : BitVec 8) : (s.setByte a b).cells = s.cells := rfl
@[simp] theorem setByte_clusters (s : State) (a : Nat) (b : BitVec 8) : (s.setByte a b).clusters = s.clusters := rfl
@[simp] theorem setByte_harts (s : State) (a : Nat) (b : BitVec 8) : (s.setByte a b).harts = s.harts := rfl
@[simp] theorem setByte_sent (s : State) (a : Nat) (b : BitVec 8) : (s.setByte a b).sent = s.sent := rfl
@[simp] theorem setByte_resv (s : State) (a : Nat) (b : BitVec 8) : (s.setByte a b).resv = s.resv := rfl
@[simp] theorem setByte_outbound (s : State) (a : Nat) (b : BitVec 8) : (s.setByte a b).outbound = s.outbound := rfl
@[simp] theorem setByte_parked (s : State) (a : Nat) (b : BitVec 8) : (s.setByte a b).parked = s.parked := rfl
@[simp] theorem setByte_passes (s : State) (a : Nat) (b : BitVec 8) : (s.setByte a b).passes = s.passes := rfl
@[simp] theorem setByte_parts (s : State) (a : Nat) (b : BitVec 8) : (s.setByte a b).parts = s.parts := rfl
@[simp] theorem setByte_hqs (s : State) (a : Nat) (b : BitVec 8) : (s.setByte a b).hqs = s.hqs := rfl
@[simp] theorem setByte_views (s : State) (a : Nat) (b : BitVec 8) : (s.setByte a b).views = s.views := rfl
@[simp] theorem setByte_links (s : State) (a : Nat) (b : BitVec 8) : (s.setByte a b).links = s.links := rfl
@[simp] theorem setByte_moduleNo (s : State) (a : Nat) (b : BitVec 8) : (s.setByte a b).moduleNo = s.moduleNo := rfl
@[simp] theorem setByte_ready (s : State) (a : Nat) (b : BitVec 8) : (s.setByte a b).ready = s.ready := rfl
@[simp] theorem setByte_phase (s : State) (a : Nat) (b : BitVec 8) : (s.setByte a b).phase = s.phase := rfl
@[simp] theorem setByte_fwfail (s : State) (a : Nat) (b : BitVec 8) : (s.setByte a b).fwfail = s.fwfail := rfl
@[simp] theorem setByte_hbmok (s : State) (a : Nat) (b : BitVec 8) : (s.setByte a b).hbmok = s.hbmok := rfl
@[simp] theorem setByte_haspup (s : State) (a : Nat) (b : BitVec 8) : (s.setByte a b).haspup = s.haspup := rfl
@[simp] theorem setByte_wbase (s : State) (a : Nat) (b : BitVec 8) : (s.setByte a b).wbase = s.wbase := rfl
@[simp] theorem setByte_firmware (s : State) (a : Nat) (b : BitVec 8) : (s.setByte a b).firmware = s.firmware := rfl
@[simp] theorem setByte_staged (s : State) (a : Nat) (b : BitVec 8) : (s.setByte a b).staged = s.staged := rfl
@[simp] theorem setByte_fwCmd (s : State) (a : Nat) (b : BitVec 8) : (s.setByte a b).fwCmd = s.fwCmd := rfl
@[simp] theorem setByte_fwStatus (s : State) (a : Nat) (b : BitVec 8) : (s.setByte a b).fwStatus = s.fwStatus := rfl
@[simp] theorem setByte_fwAddr (s : State) (a : Nat) (b : BitVec 8) : (s.setByte a b).fwAddr = s.fwAddr := rfl
@[simp] theorem setByte_fwLen (s : State) (a : Nat) (b : BitVec 8) : (s.setByte a b).fwLen = s.fwLen := rfl
@[simp] theorem setByte_fwKeySlot (s : State) (a : Nat) (b : BitVec 8) : (s.setByte a b).fwKeySlot = s.fwKeySlot := rfl
@[simp] theorem setByte_fwPart (s : State) (a : Nat) (b : BitVec 8) : (s.setByte a b).fwPart = s.fwPart := rfl
@[simp] theorem setByte_fwVector (s : State) (a : Nat) (b : BitVec 8) : (s.setByte a b).fwVector = s.fwVector := rfl
@[simp] theorem setByte_nonce (s : State) (a : Nat) (b : BitVec 8) : (s.setByte a b).nonce = s.nonce := rfl
@[simp] theorem setByte_asked (s : State) (a : Nat) (b : BitVec 8) : (s.setByte a b).asked = s.asked := rfl
@[simp] theorem setByte_astat (s : State) (a : Nat) (b : BitVec 8) : (s.setByte a b).astat = s.astat := rfl
@[simp] theorem setByte_report (s : State) (a : Nat) (b : BitVec 8) : (s.setByte a b).report = s.report := rfl
@[simp] theorem setByte_msixTable (s : State) (a : Nat) (b : BitVec 8) : (s.setByte a b).msixTable = s.msixTable := rfl
@[simp] theorem setByte_msixPending (s : State) (a : Nat) (b : BitVec 8) : (s.setByte a b).msixPending = s.msixPending := rfl
@[simp] theorem setByte_bar4Code (s : State) (a : Nat) (b : BitVec 8) : (s.setByte a b).bar4Code = s.bar4Code := rfl
@[simp] theorem setByte_irqs (s : State) (a : Nat) (b : BitVec 8) : (s.setByte a b).irqs = s.irqs := rfl
@[simp] theorem setByte_hostRead (s : State) (a : Nat) (b : BitVec 8) : (s.setByte a b).hostRead = s.hostRead := rfl
@[simp] theorem setByte_clock (s : State) (a : Nat) (b : BitVec 8) : (s.setByte a b).clock = s.clock := rfl
@[simp] theorem setByte_fresh (s : State) (a : Nat) (b : BitVec 8) : (s.setByte a b).fresh = s.fresh := rfl
@[simp] theorem setByte_serial (s : State) (a : Nat) (b : BitVec 8) : (s.setByte a b).serial = s.serial := rfl
@[simp] theorem setByte_actor (s : State) (a : Nat) (b : BitVec 8) : (s.setByte a b).actor = s.actor := rfl
@[simp] theorem setByte_agenda (s : State) (a : Nat) (b : BitVec 8) : (s.setByte a b).agenda = s.agenda := rfl
@[simp] theorem setByte_rover (s : State) (a : Nat) (b : BitVec 8) : (s.setByte a b).rover = s.rover := rfl

/-! ### Strand.advance -/

@[simp] theorem advance_pc (st : Strand) (w : Nat) : (st.advance w).pc = st.pc + BitVec.ofNat 64 (4 * w) := rfl
@[simp] theorem advance_fixed (st : Strand) (w : Nat) : (st.advance w).fixed = st.fixed := rfl
@[simp] theorem advance_stk (st : Strand) (w : Nat) : (st.advance w).stk = st.stk := rfl
@[simp] theorem advance_winbase (st : Strand) (w : Nat) : (st.advance w).winbase = st.winbase := rfl
@[simp] theorem advance_depth (st : Strand) (w : Nat) : (st.advance w).depth = st.depth := rfl
@[simp] theorem advance_vregs (st : Strand) (w : Nat) : (st.advance w).vregs = st.vregs := rfl
@[simp] theorem advance_allot (st : Strand) (w : Nat) : (st.advance w).allot = st.allot := rfl
@[simp] theorem advance_preds (st : Strand) (w : Nat) : (st.advance w).preds = st.preds := rfl
@[simp] theorem advance_epc (st : Strand) (w : Nat) : (st.advance w).epc = st.epc := rfl
@[simp] theorem advance_cause (st : Strand) (w : Nat) : (st.advance w).cause = st.cause := rfl
@[simp] theorem advance_faddr (st : Strand) (w : Nat) : (st.advance w).faddr = st.faddr := rfl
@[simp] theorem advance_ovfptr (st : Strand) (w : Nat) : (st.advance w).ovfptr = st.ovfptr := rfl
@[simp] theorem advance_carveBase (st : Strand) (w : Nat) : (st.advance w).carveBase = st.carveBase := rfl
@[simp] theorem advance_carveSize (st : Strand) (w : Nat) : (st.advance w).carveSize = st.carveSize := rfl
@[simp] theorem advance_eps (st : Strand) (w : Nat) : (st.advance w).eps = st.eps := rfl
@[simp] theorem advance_cdrop (st : Strand) (w : Nat) : (st.advance w).cdrop = st.cdrop := rfl
@[simp] theorem advance_nmax (st : Strand) (w : Nat) : (st.advance w).nmax = st.nmax := rfl
@[simp] theorem advance_ncap (st : Strand) (w : Nat) : (st.advance w).ncap = st.ncap := rfl
@[simp] theorem advance_ivlate (st : Strand) (w : Nat) : (st.advance w).ivlate = st.ivlate := rfl
@[simp] theorem advance_ivdrop (st : Strand) (w : Nat) : (st.advance w).ivdrop = st.ivdrop := rfl
@[simp] theorem advance_ivmerge (st : Strand) (w : Nat) : (st.advance w).ivmerge = st.ivmerge := rfl
@[simp] theorem advance_opaq (st : Strand) (w : Nat) : (st.advance w).opaq = st.opaq := rfl
@[simp] theorem advance_tmax (st : Strand) (w : Nat) : (st.advance w).tmax = st.tmax := rfl
@[simp] theorem advance_tmin (st : Strand) (w : Nat) : (st.advance w).tmin = st.tmin := rfl
@[simp] theorem advance_recs (st : Strand) (w : Nat) : (st.advance w).recs = st.recs := rfl
@[simp] theorem advance_rm (st : Strand) (w : Nat) : (st.advance w).rm = st.rm := rfl
@[simp] theorem advance_ftz (st : Strand) (w : Nat) : (st.advance w).ftz = st.ftz := rfl
@[simp] theorem advance_priv (st : Strand) (w : Nat) : (st.advance w).priv = st.priv := rfl
@[simp] theorem advance_hm (st : Strand) (w : Nat) : (st.advance w).hm = st.hm := rfl
@[simp] theorem advance_cdl (st : Strand) (w : Nat) : (st.advance w).cdl = st.cdl := rfl
@[simp] theorem advance_msgb (st : Strand) (w : Nat) : (st.advance w).msgb = st.msgb := rfl
@[simp] theorem advance_fpflags (st : Strand) (w : Nat) : (st.advance w).fpflags = st.fpflags := rfl
@[simp] theorem advance_tfirst (st : Strand) (w : Nat) : (st.advance w).tfirst = st.tfirst := rfl
@[simp] theorem advance_tcount (st : Strand) (w : Nat) : (st.advance w).tcount = st.tcount := rfl
@[simp] theorem advance_part (st : Strand) (w : Nat) : (st.advance w).part = st.part := rfl
@[simp] theorem advance_launch (st : Strand) (w : Nat) : (st.advance w).launch = st.launch := rfl
@[simp] theorem advance_crew (st : Strand) (w : Nat) : (st.advance w).crew = st.crew := rfl
@[simp] theorem advance_index (st : Strand) (w : Nat) : (st.advance w).index = st.index := rfl
@[simp] theorem advance_stage (st : Strand) (w : Nat) : (st.advance w).stage = st.stage := rfl
@[simp] theorem advance_hinted (st : Strand) (w : Nat) : (st.advance w).hinted = st.hinted := rfl
@[simp] theorem advance_left (st : Strand) (w : Nat) : (st.advance w).left = st.left := rfl
@[simp] theorem advance_arrived (st : Strand) (w : Nat) : (st.advance w).arrived = st.arrived := rfl
@[simp] theorem advance_fenced (st : Strand) (w : Nat) : (st.advance w).fenced = st.fenced := rfl
@[simp] theorem advance_window (st : Strand) (w : Nat) : (st.advance w).window = st.window := rfl
@[simp] theorem advance_wcbuf (st : Strand) (w : Nat) : (st.advance w).wcbuf = st.wcbuf := rfl
@[simp] theorem advance_poison (st : Strand) (w : Nat) : (st.advance w).poison = st.poison := rfl
@[simp] theorem advance_wait (st : Strand) (w : Nat) : (st.advance w).wait = none := rfl
@[simp] theorem advance_held (st : Strand) (w : Nat) : (st.advance w).held = none := rfl
@[simp] theorem advance_trapPend (st : Strand) (w : Nat) : (st.advance w).trapPend = st.trapPend := rfl
@[simp] theorem advance_halting (st : Strand) (w : Nat) : (st.advance w).halting = st.halting := rfl
@[simp] theorem advance_mma (st : Strand) (w : Nat) : (st.advance w).mma = st.mma := rfl
@[simp] theorem advance_yielded (st : Strand) (w : Nat) : (st.advance w).yielded = st.yielded := rfl
@[simp] theorem advance_preReq (st : Strand) (w : Nat) : (st.advance w).preReq = st.preReq := rfl
@[simp] theorem advance_notice (st : Strand) (w : Nat) : (st.advance w).notice = st.notice := rfl
@[simp] theorem advance_paused (st : Strand) (w : Nat) : (st.advance w).paused = st.paused := rfl
@[simp] theorem advance_badRecord (st : Strand) (w : Nat) : (st.advance w).badRecord = st.badRecord := rfl
@[simp] theorem advance_uid (st : Strand) (w : Nat) : (st.advance w).uid = st.uid := rfl

/-! ### Strand.jump -/

@[simp] theorem jump_pc (st : Strand) (t : BitVec 64) : (st.jump t).pc = t := rfl
@[simp] theorem jump_fixed (st : Strand) (t : BitVec 64) : (st.jump t).fixed = st.fixed := rfl
@[simp] theorem jump_stk (st : Strand) (t : BitVec 64) : (st.jump t).stk = st.stk := rfl
@[simp] theorem jump_winbase (st : Strand) (t : BitVec 64) : (st.jump t).winbase = st.winbase := rfl
@[simp] theorem jump_depth (st : Strand) (t : BitVec 64) : (st.jump t).depth = st.depth := rfl
@[simp] theorem jump_vregs (st : Strand) (t : BitVec 64) : (st.jump t).vregs = st.vregs := rfl
@[simp] theorem jump_allot (st : Strand) (t : BitVec 64) : (st.jump t).allot = st.allot := rfl
@[simp] theorem jump_preds (st : Strand) (t : BitVec 64) : (st.jump t).preds = st.preds := rfl
@[simp] theorem jump_epc (st : Strand) (t : BitVec 64) : (st.jump t).epc = st.epc := rfl
@[simp] theorem jump_cause (st : Strand) (t : BitVec 64) : (st.jump t).cause = st.cause := rfl
@[simp] theorem jump_faddr (st : Strand) (t : BitVec 64) : (st.jump t).faddr = st.faddr := rfl
@[simp] theorem jump_ovfptr (st : Strand) (t : BitVec 64) : (st.jump t).ovfptr = st.ovfptr := rfl
@[simp] theorem jump_carveBase (st : Strand) (t : BitVec 64) : (st.jump t).carveBase = st.carveBase := rfl
@[simp] theorem jump_carveSize (st : Strand) (t : BitVec 64) : (st.jump t).carveSize = st.carveSize := rfl
@[simp] theorem jump_eps (st : Strand) (t : BitVec 64) : (st.jump t).eps = st.eps := rfl
@[simp] theorem jump_cdrop (st : Strand) (t : BitVec 64) : (st.jump t).cdrop = st.cdrop := rfl
@[simp] theorem jump_nmax (st : Strand) (t : BitVec 64) : (st.jump t).nmax = st.nmax := rfl
@[simp] theorem jump_ncap (st : Strand) (t : BitVec 64) : (st.jump t).ncap = st.ncap := rfl
@[simp] theorem jump_ivlate (st : Strand) (t : BitVec 64) : (st.jump t).ivlate = st.ivlate := rfl
@[simp] theorem jump_ivdrop (st : Strand) (t : BitVec 64) : (st.jump t).ivdrop = st.ivdrop := rfl
@[simp] theorem jump_ivmerge (st : Strand) (t : BitVec 64) : (st.jump t).ivmerge = st.ivmerge := rfl
@[simp] theorem jump_opaq (st : Strand) (t : BitVec 64) : (st.jump t).opaq = st.opaq := rfl
@[simp] theorem jump_tmax (st : Strand) (t : BitVec 64) : (st.jump t).tmax = st.tmax := rfl
@[simp] theorem jump_tmin (st : Strand) (t : BitVec 64) : (st.jump t).tmin = st.tmin := rfl
@[simp] theorem jump_recs (st : Strand) (t : BitVec 64) : (st.jump t).recs = st.recs := rfl
@[simp] theorem jump_rm (st : Strand) (t : BitVec 64) : (st.jump t).rm = st.rm := rfl
@[simp] theorem jump_ftz (st : Strand) (t : BitVec 64) : (st.jump t).ftz = st.ftz := rfl
@[simp] theorem jump_priv (st : Strand) (t : BitVec 64) : (st.jump t).priv = st.priv := rfl
@[simp] theorem jump_hm (st : Strand) (t : BitVec 64) : (st.jump t).hm = st.hm := rfl
@[simp] theorem jump_cdl (st : Strand) (t : BitVec 64) : (st.jump t).cdl = st.cdl := rfl
@[simp] theorem jump_msgb (st : Strand) (t : BitVec 64) : (st.jump t).msgb = st.msgb := rfl
@[simp] theorem jump_fpflags (st : Strand) (t : BitVec 64) : (st.jump t).fpflags = st.fpflags := rfl
@[simp] theorem jump_tfirst (st : Strand) (t : BitVec 64) : (st.jump t).tfirst = st.tfirst := rfl
@[simp] theorem jump_tcount (st : Strand) (t : BitVec 64) : (st.jump t).tcount = st.tcount := rfl
@[simp] theorem jump_part (st : Strand) (t : BitVec 64) : (st.jump t).part = st.part := rfl
@[simp] theorem jump_launch (st : Strand) (t : BitVec 64) : (st.jump t).launch = st.launch := rfl
@[simp] theorem jump_crew (st : Strand) (t : BitVec 64) : (st.jump t).crew = st.crew := rfl
@[simp] theorem jump_index (st : Strand) (t : BitVec 64) : (st.jump t).index = st.index := rfl
@[simp] theorem jump_stage (st : Strand) (t : BitVec 64) : (st.jump t).stage = st.stage := rfl
@[simp] theorem jump_hinted (st : Strand) (t : BitVec 64) : (st.jump t).hinted = st.hinted := rfl
@[simp] theorem jump_left (st : Strand) (t : BitVec 64) : (st.jump t).left = st.left := rfl
@[simp] theorem jump_arrived (st : Strand) (t : BitVec 64) : (st.jump t).arrived = st.arrived := rfl
@[simp] theorem jump_fenced (st : Strand) (t : BitVec 64) : (st.jump t).fenced = st.fenced := rfl
@[simp] theorem jump_window (st : Strand) (t : BitVec 64) : (st.jump t).window = st.window := rfl
@[simp] theorem jump_wcbuf (st : Strand) (t : BitVec 64) : (st.jump t).wcbuf = st.wcbuf := rfl
@[simp] theorem jump_poison (st : Strand) (t : BitVec 64) : (st.jump t).poison = st.poison := rfl
@[simp] theorem jump_wait (st : Strand) (t : BitVec 64) : (st.jump t).wait = none := rfl
@[simp] theorem jump_held (st : Strand) (t : BitVec 64) : (st.jump t).held = none := rfl
@[simp] theorem jump_trapPend (st : Strand) (t : BitVec 64) : (st.jump t).trapPend = st.trapPend := rfl
@[simp] theorem jump_halting (st : Strand) (t : BitVec 64) : (st.jump t).halting = st.halting := rfl
@[simp] theorem jump_mma (st : Strand) (t : BitVec 64) : (st.jump t).mma = st.mma := rfl
@[simp] theorem jump_yielded (st : Strand) (t : BitVec 64) : (st.jump t).yielded = st.yielded := rfl
@[simp] theorem jump_preReq (st : Strand) (t : BitVec 64) : (st.jump t).preReq = st.preReq := rfl
@[simp] theorem jump_notice (st : Strand) (t : BitVec 64) : (st.jump t).notice = st.notice := rfl
@[simp] theorem jump_paused (st : Strand) (t : BitVec 64) : (st.jump t).paused = st.paused := rfl
@[simp] theorem jump_badRecord (st : Strand) (t : BitVec 64) : (st.jump t).badRecord = st.badRecord := rfl
@[simp] theorem jump_uid (st : Strand) (t : BitVec 64) : (st.jump t).uid = st.uid := rfl

/-! ### Strand.orFlags -/

@[simp] theorem orFlags_pc (st : Strand) (f : Flags) : (st.orFlags f).pc = st.pc := rfl
@[simp] theorem orFlags_fixed (st : Strand) (f : Flags) : (st.orFlags f).fixed = st.fixed := rfl
@[simp] theorem orFlags_stk (st : Strand) (f : Flags) : (st.orFlags f).stk = st.stk := rfl
@[simp] theorem orFlags_winbase (st : Strand) (f : Flags) : (st.orFlags f).winbase = st.winbase := rfl
@[simp] theorem orFlags_depth (st : Strand) (f : Flags) : (st.orFlags f).depth = st.depth := rfl
@[simp] theorem orFlags_vregs (st : Strand) (f : Flags) : (st.orFlags f).vregs = st.vregs := rfl
@[simp] theorem orFlags_allot (st : Strand) (f : Flags) : (st.orFlags f).allot = st.allot := rfl
@[simp] theorem orFlags_preds (st : Strand) (f : Flags) : (st.orFlags f).preds = st.preds := rfl
@[simp] theorem orFlags_epc (st : Strand) (f : Flags) : (st.orFlags f).epc = st.epc := rfl
@[simp] theorem orFlags_cause (st : Strand) (f : Flags) : (st.orFlags f).cause = st.cause := rfl
@[simp] theorem orFlags_faddr (st : Strand) (f : Flags) : (st.orFlags f).faddr = st.faddr := rfl
@[simp] theorem orFlags_ovfptr (st : Strand) (f : Flags) : (st.orFlags f).ovfptr = st.ovfptr := rfl
@[simp] theorem orFlags_carveBase (st : Strand) (f : Flags) : (st.orFlags f).carveBase = st.carveBase := rfl
@[simp] theorem orFlags_carveSize (st : Strand) (f : Flags) : (st.orFlags f).carveSize = st.carveSize := rfl
@[simp] theorem orFlags_eps (st : Strand) (f : Flags) : (st.orFlags f).eps = st.eps := rfl
@[simp] theorem orFlags_cdrop (st : Strand) (f : Flags) : (st.orFlags f).cdrop = st.cdrop := rfl
@[simp] theorem orFlags_nmax (st : Strand) (f : Flags) : (st.orFlags f).nmax = st.nmax := rfl
@[simp] theorem orFlags_ncap (st : Strand) (f : Flags) : (st.orFlags f).ncap = st.ncap := rfl
@[simp] theorem orFlags_ivlate (st : Strand) (f : Flags) : (st.orFlags f).ivlate = st.ivlate := rfl
@[simp] theorem orFlags_ivdrop (st : Strand) (f : Flags) : (st.orFlags f).ivdrop = st.ivdrop := rfl
@[simp] theorem orFlags_ivmerge (st : Strand) (f : Flags) : (st.orFlags f).ivmerge = st.ivmerge := rfl
@[simp] theorem orFlags_opaq (st : Strand) (f : Flags) : (st.orFlags f).opaq = st.opaq := rfl
@[simp] theorem orFlags_tmax (st : Strand) (f : Flags) : (st.orFlags f).tmax = st.tmax := rfl
@[simp] theorem orFlags_tmin (st : Strand) (f : Flags) : (st.orFlags f).tmin = st.tmin := rfl
@[simp] theorem orFlags_recs (st : Strand) (f : Flags) : (st.orFlags f).recs = st.recs := rfl
@[simp] theorem orFlags_rm (st : Strand) (f : Flags) : (st.orFlags f).rm = st.rm := rfl
@[simp] theorem orFlags_ftz (st : Strand) (f : Flags) : (st.orFlags f).ftz = st.ftz := rfl
@[simp] theorem orFlags_priv (st : Strand) (f : Flags) : (st.orFlags f).priv = st.priv := rfl
@[simp] theorem orFlags_hm (st : Strand) (f : Flags) : (st.orFlags f).hm = st.hm := rfl
@[simp] theorem orFlags_cdl (st : Strand) (f : Flags) : (st.orFlags f).cdl = st.cdl := rfl
@[simp] theorem orFlags_msgb (st : Strand) (f : Flags) : (st.orFlags f).msgb = st.msgb := rfl
@[simp] theorem orFlags_fpflags (st : Strand) (f : Flags) : (st.orFlags f).fpflags = st.fpflags ||| f := rfl
@[simp] theorem orFlags_tfirst (st : Strand) (f : Flags) : (st.orFlags f).tfirst = st.tfirst := rfl
@[simp] theorem orFlags_tcount (st : Strand) (f : Flags) : (st.orFlags f).tcount = st.tcount := rfl
@[simp] theorem orFlags_part (st : Strand) (f : Flags) : (st.orFlags f).part = st.part := rfl
@[simp] theorem orFlags_launch (st : Strand) (f : Flags) : (st.orFlags f).launch = st.launch := rfl
@[simp] theorem orFlags_crew (st : Strand) (f : Flags) : (st.orFlags f).crew = st.crew := rfl
@[simp] theorem orFlags_index (st : Strand) (f : Flags) : (st.orFlags f).index = st.index := rfl
@[simp] theorem orFlags_stage (st : Strand) (f : Flags) : (st.orFlags f).stage = st.stage := rfl
@[simp] theorem orFlags_hinted (st : Strand) (f : Flags) : (st.orFlags f).hinted = st.hinted := rfl
@[simp] theorem orFlags_left (st : Strand) (f : Flags) : (st.orFlags f).left = st.left := rfl
@[simp] theorem orFlags_arrived (st : Strand) (f : Flags) : (st.orFlags f).arrived = st.arrived := rfl
@[simp] theorem orFlags_fenced (st : Strand) (f : Flags) : (st.orFlags f).fenced = st.fenced := rfl
@[simp] theorem orFlags_window (st : Strand) (f : Flags) : (st.orFlags f).window = st.window := rfl
@[simp] theorem orFlags_wcbuf (st : Strand) (f : Flags) : (st.orFlags f).wcbuf = st.wcbuf := rfl
@[simp] theorem orFlags_poison (st : Strand) (f : Flags) : (st.orFlags f).poison = st.poison := rfl
@[simp] theorem orFlags_wait (st : Strand) (f : Flags) : (st.orFlags f).wait = st.wait := rfl
@[simp] theorem orFlags_held (st : Strand) (f : Flags) : (st.orFlags f).held = st.held := rfl
@[simp] theorem orFlags_trapPend (st : Strand) (f : Flags) : (st.orFlags f).trapPend = st.trapPend := rfl
@[simp] theorem orFlags_halting (st : Strand) (f : Flags) : (st.orFlags f).halting = st.halting := rfl
@[simp] theorem orFlags_mma (st : Strand) (f : Flags) : (st.orFlags f).mma = st.mma := rfl
@[simp] theorem orFlags_yielded (st : Strand) (f : Flags) : (st.orFlags f).yielded = st.yielded := rfl
@[simp] theorem orFlags_preReq (st : Strand) (f : Flags) : (st.orFlags f).preReq = st.preReq := rfl
@[simp] theorem orFlags_notice (st : Strand) (f : Flags) : (st.orFlags f).notice = st.notice := rfl
@[simp] theorem orFlags_paused (st : Strand) (f : Flags) : (st.orFlags f).paused = st.paused := rfl
@[simp] theorem orFlags_badRecord (st : Strand) (f : Flags) : (st.orFlags f).badRecord = st.badRecord := rfl
@[simp] theorem orFlags_uid (st : Strand) (f : Flags) : (st.orFlags f).uid = st.uid := rfl

/-! ### Strand.setV -/

@[simp] theorem setV_pc (st : Strand) (r : Reg) (x : BitVec 512) : (st.setV r x).pc = st.pc := rfl
@[simp] theorem setV_fixed (st : Strand) (r : Reg) (x : BitVec 512) : (st.setV r x).fixed = st.fixed := rfl
@[simp] theorem setV_stk (st : Strand) (r : Reg) (x : BitVec 512) : (st.setV r x).stk = st.stk := rfl
@[simp] theorem setV_winbase (st : Strand) (r : Reg) (x : BitVec 512) : (st.setV r x).winbase = st.winbase := rfl
@[simp] theorem setV_depth (st : Strand) (r : Reg) (x : BitVec 512) : (st.setV r x).depth = st.depth := rfl
@[simp] theorem setV_vregs (st : Strand) (r : Reg) (x : BitVec 512) : (st.setV r x).vregs = NMap.set st.vregs r.toNat x := rfl
@[simp] theorem setV_allot (st : Strand) (r : Reg) (x : BitVec 512) : (st.setV r x).allot = st.allot := rfl
@[simp] theorem setV_preds (st : Strand) (r : Reg) (x : BitVec 512) : (st.setV r x).preds = st.preds := rfl
@[simp] theorem setV_epc (st : Strand) (r : Reg) (x : BitVec 512) : (st.setV r x).epc = st.epc := rfl
@[simp] theorem setV_cause (st : Strand) (r : Reg) (x : BitVec 512) : (st.setV r x).cause = st.cause := rfl
@[simp] theorem setV_faddr (st : Strand) (r : Reg) (x : BitVec 512) : (st.setV r x).faddr = st.faddr := rfl
@[simp] theorem setV_ovfptr (st : Strand) (r : Reg) (x : BitVec 512) : (st.setV r x).ovfptr = st.ovfptr := rfl
@[simp] theorem setV_carveBase (st : Strand) (r : Reg) (x : BitVec 512) : (st.setV r x).carveBase = st.carveBase := rfl
@[simp] theorem setV_carveSize (st : Strand) (r : Reg) (x : BitVec 512) : (st.setV r x).carveSize = st.carveSize := rfl
@[simp] theorem setV_eps (st : Strand) (r : Reg) (x : BitVec 512) : (st.setV r x).eps = st.eps := rfl
@[simp] theorem setV_cdrop (st : Strand) (r : Reg) (x : BitVec 512) : (st.setV r x).cdrop = st.cdrop := rfl
@[simp] theorem setV_nmax (st : Strand) (r : Reg) (x : BitVec 512) : (st.setV r x).nmax = st.nmax := rfl
@[simp] theorem setV_ncap (st : Strand) (r : Reg) (x : BitVec 512) : (st.setV r x).ncap = st.ncap := rfl
@[simp] theorem setV_ivlate (st : Strand) (r : Reg) (x : BitVec 512) : (st.setV r x).ivlate = st.ivlate := rfl
@[simp] theorem setV_ivdrop (st : Strand) (r : Reg) (x : BitVec 512) : (st.setV r x).ivdrop = st.ivdrop := rfl
@[simp] theorem setV_ivmerge (st : Strand) (r : Reg) (x : BitVec 512) : (st.setV r x).ivmerge = st.ivmerge := rfl
@[simp] theorem setV_opaq (st : Strand) (r : Reg) (x : BitVec 512) : (st.setV r x).opaq = st.opaq := rfl
@[simp] theorem setV_tmax (st : Strand) (r : Reg) (x : BitVec 512) : (st.setV r x).tmax = st.tmax := rfl
@[simp] theorem setV_tmin (st : Strand) (r : Reg) (x : BitVec 512) : (st.setV r x).tmin = st.tmin := rfl
@[simp] theorem setV_recs (st : Strand) (r : Reg) (x : BitVec 512) : (st.setV r x).recs = st.recs := rfl
@[simp] theorem setV_rm (st : Strand) (r : Reg) (x : BitVec 512) : (st.setV r x).rm = st.rm := rfl
@[simp] theorem setV_ftz (st : Strand) (r : Reg) (x : BitVec 512) : (st.setV r x).ftz = st.ftz := rfl
@[simp] theorem setV_priv (st : Strand) (r : Reg) (x : BitVec 512) : (st.setV r x).priv = st.priv := rfl
@[simp] theorem setV_hm (st : Strand) (r : Reg) (x : BitVec 512) : (st.setV r x).hm = st.hm := rfl
@[simp] theorem setV_cdl (st : Strand) (r : Reg) (x : BitVec 512) : (st.setV r x).cdl = st.cdl := rfl
@[simp] theorem setV_msgb (st : Strand) (r : Reg) (x : BitVec 512) : (st.setV r x).msgb = st.msgb := rfl
@[simp] theorem setV_fpflags (st : Strand) (r : Reg) (x : BitVec 512) : (st.setV r x).fpflags = st.fpflags := rfl
@[simp] theorem setV_tfirst (st : Strand) (r : Reg) (x : BitVec 512) : (st.setV r x).tfirst = st.tfirst := rfl
@[simp] theorem setV_tcount (st : Strand) (r : Reg) (x : BitVec 512) : (st.setV r x).tcount = st.tcount := rfl
@[simp] theorem setV_part (st : Strand) (r : Reg) (x : BitVec 512) : (st.setV r x).part = st.part := rfl
@[simp] theorem setV_launch (st : Strand) (r : Reg) (x : BitVec 512) : (st.setV r x).launch = st.launch := rfl
@[simp] theorem setV_crew (st : Strand) (r : Reg) (x : BitVec 512) : (st.setV r x).crew = st.crew := rfl
@[simp] theorem setV_index (st : Strand) (r : Reg) (x : BitVec 512) : (st.setV r x).index = st.index := rfl
@[simp] theorem setV_stage (st : Strand) (r : Reg) (x : BitVec 512) : (st.setV r x).stage = st.stage := rfl
@[simp] theorem setV_hinted (st : Strand) (r : Reg) (x : BitVec 512) : (st.setV r x).hinted = st.hinted := rfl
@[simp] theorem setV_left (st : Strand) (r : Reg) (x : BitVec 512) : (st.setV r x).left = st.left := rfl
@[simp] theorem setV_arrived (st : Strand) (r : Reg) (x : BitVec 512) : (st.setV r x).arrived = st.arrived := rfl
@[simp] theorem setV_fenced (st : Strand) (r : Reg) (x : BitVec 512) : (st.setV r x).fenced = st.fenced := rfl
@[simp] theorem setV_window (st : Strand) (r : Reg) (x : BitVec 512) : (st.setV r x).window = st.window := rfl
@[simp] theorem setV_wcbuf (st : Strand) (r : Reg) (x : BitVec 512) : (st.setV r x).wcbuf = st.wcbuf := rfl
@[simp] theorem setV_poison (st : Strand) (r : Reg) (x : BitVec 512) : (st.setV r x).poison = st.poison := rfl
@[simp] theorem setV_wait (st : Strand) (r : Reg) (x : BitVec 512) : (st.setV r x).wait = st.wait := rfl
@[simp] theorem setV_held (st : Strand) (r : Reg) (x : BitVec 512) : (st.setV r x).held = st.held := rfl
@[simp] theorem setV_trapPend (st : Strand) (r : Reg) (x : BitVec 512) : (st.setV r x).trapPend = st.trapPend := rfl
@[simp] theorem setV_halting (st : Strand) (r : Reg) (x : BitVec 512) : (st.setV r x).halting = st.halting := rfl
@[simp] theorem setV_mma (st : Strand) (r : Reg) (x : BitVec 512) : (st.setV r x).mma = st.mma := rfl
@[simp] theorem setV_yielded (st : Strand) (r : Reg) (x : BitVec 512) : (st.setV r x).yielded = st.yielded := rfl
@[simp] theorem setV_preReq (st : Strand) (r : Reg) (x : BitVec 512) : (st.setV r x).preReq = st.preReq := rfl
@[simp] theorem setV_notice (st : Strand) (r : Reg) (x : BitVec 512) : (st.setV r x).notice = st.notice := rfl
@[simp] theorem setV_paused (st : Strand) (r : Reg) (x : BitVec 512) : (st.setV r x).paused = st.paused := rfl
@[simp] theorem setV_badRecord (st : Strand) (r : Reg) (x : BitVec 512) : (st.setV r x).badRecord = st.badRecord := rfl
@[simp] theorem setV_uid (st : Strand) (r : Reg) (x : BitVec 512) : (st.setV r x).uid = st.uid := rfl

/-! ### Strand.setP -/

@[simp] theorem setP_pc (st : Strand) (k : BitVec 3) (v : BitVec 16) : (st.setP k v).pc = st.pc := by
  simp only [Strand.setP]; split <;> rfl
@[simp] theorem setP_fixed (st : Strand) (k : BitVec 3) (v : BitVec 16) : (st.setP k v).fixed = st.fixed := by
  simp only [Strand.setP]; split <;> rfl
@[simp] theorem setP_stk (st : Strand) (k : BitVec 3) (v : BitVec 16) : (st.setP k v).stk = st.stk := by
  simp only [Strand.setP]; split <;> rfl
@[simp] theorem setP_winbase (st : Strand) (k : BitVec 3) (v : BitVec 16) : (st.setP k v).winbase = st.winbase := by
  simp only [Strand.setP]; split <;> rfl
@[simp] theorem setP_depth (st : Strand) (k : BitVec 3) (v : BitVec 16) : (st.setP k v).depth = st.depth := by
  simp only [Strand.setP]; split <;> rfl
@[simp] theorem setP_vregs (st : Strand) (k : BitVec 3) (v : BitVec 16) : (st.setP k v).vregs = st.vregs := by
  simp only [Strand.setP]; split <;> rfl
@[simp] theorem setP_allot (st : Strand) (k : BitVec 3) (v : BitVec 16) : (st.setP k v).allot = st.allot := by
  simp only [Strand.setP]; split <;> rfl
@[simp] theorem setP_epc (st : Strand) (k : BitVec 3) (v : BitVec 16) : (st.setP k v).epc = st.epc := by
  simp only [Strand.setP]; split <;> rfl
@[simp] theorem setP_cause (st : Strand) (k : BitVec 3) (v : BitVec 16) : (st.setP k v).cause = st.cause := by
  simp only [Strand.setP]; split <;> rfl
@[simp] theorem setP_faddr (st : Strand) (k : BitVec 3) (v : BitVec 16) : (st.setP k v).faddr = st.faddr := by
  simp only [Strand.setP]; split <;> rfl
@[simp] theorem setP_ovfptr (st : Strand) (k : BitVec 3) (v : BitVec 16) : (st.setP k v).ovfptr = st.ovfptr := by
  simp only [Strand.setP]; split <;> rfl
@[simp] theorem setP_carveBase (st : Strand) (k : BitVec 3) (v : BitVec 16) : (st.setP k v).carveBase = st.carveBase := by
  simp only [Strand.setP]; split <;> rfl
@[simp] theorem setP_carveSize (st : Strand) (k : BitVec 3) (v : BitVec 16) : (st.setP k v).carveSize = st.carveSize := by
  simp only [Strand.setP]; split <;> rfl
@[simp] theorem setP_eps (st : Strand) (k : BitVec 3) (v : BitVec 16) : (st.setP k v).eps = st.eps := by
  simp only [Strand.setP]; split <;> rfl
@[simp] theorem setP_cdrop (st : Strand) (k : BitVec 3) (v : BitVec 16) : (st.setP k v).cdrop = st.cdrop := by
  simp only [Strand.setP]; split <;> rfl
@[simp] theorem setP_nmax (st : Strand) (k : BitVec 3) (v : BitVec 16) : (st.setP k v).nmax = st.nmax := by
  simp only [Strand.setP]; split <;> rfl
@[simp] theorem setP_ncap (st : Strand) (k : BitVec 3) (v : BitVec 16) : (st.setP k v).ncap = st.ncap := by
  simp only [Strand.setP]; split <;> rfl
@[simp] theorem setP_ivlate (st : Strand) (k : BitVec 3) (v : BitVec 16) : (st.setP k v).ivlate = st.ivlate := by
  simp only [Strand.setP]; split <;> rfl
@[simp] theorem setP_ivdrop (st : Strand) (k : BitVec 3) (v : BitVec 16) : (st.setP k v).ivdrop = st.ivdrop := by
  simp only [Strand.setP]; split <;> rfl
@[simp] theorem setP_ivmerge (st : Strand) (k : BitVec 3) (v : BitVec 16) : (st.setP k v).ivmerge = st.ivmerge := by
  simp only [Strand.setP]; split <;> rfl
@[simp] theorem setP_opaq (st : Strand) (k : BitVec 3) (v : BitVec 16) : (st.setP k v).opaq = st.opaq := by
  simp only [Strand.setP]; split <;> rfl
@[simp] theorem setP_tmax (st : Strand) (k : BitVec 3) (v : BitVec 16) : (st.setP k v).tmax = st.tmax := by
  simp only [Strand.setP]; split <;> rfl
@[simp] theorem setP_tmin (st : Strand) (k : BitVec 3) (v : BitVec 16) : (st.setP k v).tmin = st.tmin := by
  simp only [Strand.setP]; split <;> rfl
@[simp] theorem setP_recs (st : Strand) (k : BitVec 3) (v : BitVec 16) : (st.setP k v).recs = st.recs := by
  simp only [Strand.setP]; split <;> rfl
@[simp] theorem setP_rm (st : Strand) (k : BitVec 3) (v : BitVec 16) : (st.setP k v).rm = st.rm := by
  simp only [Strand.setP]; split <;> rfl
@[simp] theorem setP_ftz (st : Strand) (k : BitVec 3) (v : BitVec 16) : (st.setP k v).ftz = st.ftz := by
  simp only [Strand.setP]; split <;> rfl
@[simp] theorem setP_priv (st : Strand) (k : BitVec 3) (v : BitVec 16) : (st.setP k v).priv = st.priv := by
  simp only [Strand.setP]; split <;> rfl
@[simp] theorem setP_hm (st : Strand) (k : BitVec 3) (v : BitVec 16) : (st.setP k v).hm = st.hm := by
  simp only [Strand.setP]; split <;> rfl
@[simp] theorem setP_cdl (st : Strand) (k : BitVec 3) (v : BitVec 16) : (st.setP k v).cdl = st.cdl := by
  simp only [Strand.setP]; split <;> rfl
@[simp] theorem setP_msgb (st : Strand) (k : BitVec 3) (v : BitVec 16) : (st.setP k v).msgb = st.msgb := by
  simp only [Strand.setP]; split <;> rfl
@[simp] theorem setP_fpflags (st : Strand) (k : BitVec 3) (v : BitVec 16) : (st.setP k v).fpflags = st.fpflags := by
  simp only [Strand.setP]; split <;> rfl
@[simp] theorem setP_tfirst (st : Strand) (k : BitVec 3) (v : BitVec 16) : (st.setP k v).tfirst = st.tfirst := by
  simp only [Strand.setP]; split <;> rfl
@[simp] theorem setP_tcount (st : Strand) (k : BitVec 3) (v : BitVec 16) : (st.setP k v).tcount = st.tcount := by
  simp only [Strand.setP]; split <;> rfl
@[simp] theorem setP_part (st : Strand) (k : BitVec 3) (v : BitVec 16) : (st.setP k v).part = st.part := by
  simp only [Strand.setP]; split <;> rfl
@[simp] theorem setP_launch (st : Strand) (k : BitVec 3) (v : BitVec 16) : (st.setP k v).launch = st.launch := by
  simp only [Strand.setP]; split <;> rfl
@[simp] theorem setP_crew (st : Strand) (k : BitVec 3) (v : BitVec 16) : (st.setP k v).crew = st.crew := by
  simp only [Strand.setP]; split <;> rfl
@[simp] theorem setP_index (st : Strand) (k : BitVec 3) (v : BitVec 16) : (st.setP k v).index = st.index := by
  simp only [Strand.setP]; split <;> rfl
@[simp] theorem setP_stage (st : Strand) (k : BitVec 3) (v : BitVec 16) : (st.setP k v).stage = st.stage := by
  simp only [Strand.setP]; split <;> rfl
@[simp] theorem setP_hinted (st : Strand) (k : BitVec 3) (v : BitVec 16) : (st.setP k v).hinted = st.hinted := by
  simp only [Strand.setP]; split <;> rfl
@[simp] theorem setP_left (st : Strand) (k : BitVec 3) (v : BitVec 16) : (st.setP k v).left = st.left := by
  simp only [Strand.setP]; split <;> rfl
@[simp] theorem setP_arrived (st : Strand) (k : BitVec 3) (v : BitVec 16) : (st.setP k v).arrived = st.arrived := by
  simp only [Strand.setP]; split <;> rfl
@[simp] theorem setP_fenced (st : Strand) (k : BitVec 3) (v : BitVec 16) : (st.setP k v).fenced = st.fenced := by
  simp only [Strand.setP]; split <;> rfl
@[simp] theorem setP_window (st : Strand) (k : BitVec 3) (v : BitVec 16) : (st.setP k v).window = st.window := by
  simp only [Strand.setP]; split <;> rfl
@[simp] theorem setP_wcbuf (st : Strand) (k : BitVec 3) (v : BitVec 16) : (st.setP k v).wcbuf = st.wcbuf := by
  simp only [Strand.setP]; split <;> rfl
@[simp] theorem setP_poison (st : Strand) (k : BitVec 3) (v : BitVec 16) : (st.setP k v).poison = st.poison := by
  simp only [Strand.setP]; split <;> rfl
@[simp] theorem setP_wait (st : Strand) (k : BitVec 3) (v : BitVec 16) : (st.setP k v).wait = st.wait := by
  simp only [Strand.setP]; split <;> rfl
@[simp] theorem setP_held (st : Strand) (k : BitVec 3) (v : BitVec 16) : (st.setP k v).held = st.held := by
  simp only [Strand.setP]; split <;> rfl
@[simp] theorem setP_trapPend (st : Strand) (k : BitVec 3) (v : BitVec 16) : (st.setP k v).trapPend = st.trapPend := by
  simp only [Strand.setP]; split <;> rfl
@[simp] theorem setP_halting (st : Strand) (k : BitVec 3) (v : BitVec 16) : (st.setP k v).halting = st.halting := by
  simp only [Strand.setP]; split <;> rfl
@[simp] theorem setP_mma (st : Strand) (k : BitVec 3) (v : BitVec 16) : (st.setP k v).mma = st.mma := by
  simp only [Strand.setP]; split <;> rfl
@[simp] theorem setP_yielded (st : Strand) (k : BitVec 3) (v : BitVec 16) : (st.setP k v).yielded = st.yielded := by
  simp only [Strand.setP]; split <;> rfl
@[simp] theorem setP_preReq (st : Strand) (k : BitVec 3) (v : BitVec 16) : (st.setP k v).preReq = st.preReq := by
  simp only [Strand.setP]; split <;> rfl
@[simp] theorem setP_notice (st : Strand) (k : BitVec 3) (v : BitVec 16) : (st.setP k v).notice = st.notice := by
  simp only [Strand.setP]; split <;> rfl
@[simp] theorem setP_paused (st : Strand) (k : BitVec 3) (v : BitVec 16) : (st.setP k v).paused = st.paused := by
  simp only [Strand.setP]; split <;> rfl
@[simp] theorem setP_badRecord (st : Strand) (k : BitVec 3) (v : BitVec 16) : (st.setP k v).badRecord = st.badRecord := by
  simp only [Strand.setP]; split <;> rfl
@[simp] theorem setP_uid (st : Strand) (k : BitVec 3) (v : BitVec 16) : (st.setP k v).uid = st.uid := by
  simp only [Strand.setP]; split <;> rfl

/-! ### Strand.setG -/

@[simp] theorem setG_pc (st : Strand) (r : Reg) (v : BitVec 64) : (st.setG r v).pc = st.pc := by
  simp only [Strand.setG]; split; rfl; split <;> rfl
@[simp] theorem setG_winbase (st : Strand) (r : Reg) (v : BitVec 64) : (st.setG r v).winbase = st.winbase := by
  simp only [Strand.setG]; split; rfl; split <;> rfl
@[simp] theorem setG_depth (st : Strand) (r : Reg) (v : BitVec 64) : (st.setG r v).depth = st.depth := by
  simp only [Strand.setG]; split; rfl; split <;> rfl
@[simp] theorem setG_vregs (st : Strand) (r : Reg) (v : BitVec 64) : (st.setG r v).vregs = st.vregs := by
  simp only [Strand.setG]; split; rfl; split <;> rfl
@[simp] theorem setG_allot (st : Strand) (r : Reg) (v : BitVec 64) : (st.setG r v).allot = st.allot := by
  simp only [Strand.setG]; split; rfl; split <;> rfl
@[simp] theorem setG_preds (st : Strand) (r : Reg) (v : BitVec 64) : (st.setG r v).preds = st.preds := by
  simp only [Strand.setG]; split; rfl; split <;> rfl
@[simp] theorem setG_epc (st : Strand) (r : Reg) (v : BitVec 64) : (st.setG r v).epc = st.epc := by
  simp only [Strand.setG]; split; rfl; split <;> rfl
@[simp] theorem setG_cause (st : Strand) (r : Reg) (v : BitVec 64) : (st.setG r v).cause = st.cause := by
  simp only [Strand.setG]; split; rfl; split <;> rfl
@[simp] theorem setG_faddr (st : Strand) (r : Reg) (v : BitVec 64) : (st.setG r v).faddr = st.faddr := by
  simp only [Strand.setG]; split; rfl; split <;> rfl
@[simp] theorem setG_ovfptr (st : Strand) (r : Reg) (v : BitVec 64) : (st.setG r v).ovfptr = st.ovfptr := by
  simp only [Strand.setG]; split; rfl; split <;> rfl
@[simp] theorem setG_carveBase (st : Strand) (r : Reg) (v : BitVec 64) : (st.setG r v).carveBase = st.carveBase := by
  simp only [Strand.setG]; split; rfl; split <;> rfl
@[simp] theorem setG_carveSize (st : Strand) (r : Reg) (v : BitVec 64) : (st.setG r v).carveSize = st.carveSize := by
  simp only [Strand.setG]; split; rfl; split <;> rfl
@[simp] theorem setG_eps (st : Strand) (r : Reg) (v : BitVec 64) : (st.setG r v).eps = st.eps := by
  simp only [Strand.setG]; split; rfl; split <;> rfl
@[simp] theorem setG_cdrop (st : Strand) (r : Reg) (v : BitVec 64) : (st.setG r v).cdrop = st.cdrop := by
  simp only [Strand.setG]; split; rfl; split <;> rfl
@[simp] theorem setG_nmax (st : Strand) (r : Reg) (v : BitVec 64) : (st.setG r v).nmax = st.nmax := by
  simp only [Strand.setG]; split; rfl; split <;> rfl
@[simp] theorem setG_ncap (st : Strand) (r : Reg) (v : BitVec 64) : (st.setG r v).ncap = st.ncap := by
  simp only [Strand.setG]; split; rfl; split <;> rfl
@[simp] theorem setG_ivlate (st : Strand) (r : Reg) (v : BitVec 64) : (st.setG r v).ivlate = st.ivlate := by
  simp only [Strand.setG]; split; rfl; split <;> rfl
@[simp] theorem setG_ivdrop (st : Strand) (r : Reg) (v : BitVec 64) : (st.setG r v).ivdrop = st.ivdrop := by
  simp only [Strand.setG]; split; rfl; split <;> rfl
@[simp] theorem setG_ivmerge (st : Strand) (r : Reg) (v : BitVec 64) : (st.setG r v).ivmerge = st.ivmerge := by
  simp only [Strand.setG]; split; rfl; split <;> rfl
@[simp] theorem setG_opaq (st : Strand) (r : Reg) (v : BitVec 64) : (st.setG r v).opaq = st.opaq := by
  simp only [Strand.setG]; split; rfl; split <;> rfl
@[simp] theorem setG_tmax (st : Strand) (r : Reg) (v : BitVec 64) : (st.setG r v).tmax = st.tmax := by
  simp only [Strand.setG]; split; rfl; split <;> rfl
@[simp] theorem setG_tmin (st : Strand) (r : Reg) (v : BitVec 64) : (st.setG r v).tmin = st.tmin := by
  simp only [Strand.setG]; split; rfl; split <;> rfl
@[simp] theorem setG_recs (st : Strand) (r : Reg) (v : BitVec 64) : (st.setG r v).recs = st.recs := by
  simp only [Strand.setG]; split; rfl; split <;> rfl
@[simp] theorem setG_rm (st : Strand) (r : Reg) (v : BitVec 64) : (st.setG r v).rm = st.rm := by
  simp only [Strand.setG]; split; rfl; split <;> rfl
@[simp] theorem setG_ftz (st : Strand) (r : Reg) (v : BitVec 64) : (st.setG r v).ftz = st.ftz := by
  simp only [Strand.setG]; split; rfl; split <;> rfl
@[simp] theorem setG_priv (st : Strand) (r : Reg) (v : BitVec 64) : (st.setG r v).priv = st.priv := by
  simp only [Strand.setG]; split; rfl; split <;> rfl
@[simp] theorem setG_hm (st : Strand) (r : Reg) (v : BitVec 64) : (st.setG r v).hm = st.hm := by
  simp only [Strand.setG]; split; rfl; split <;> rfl
@[simp] theorem setG_cdl (st : Strand) (r : Reg) (v : BitVec 64) : (st.setG r v).cdl = st.cdl := by
  simp only [Strand.setG]; split; rfl; split <;> rfl
@[simp] theorem setG_msgb (st : Strand) (r : Reg) (v : BitVec 64) : (st.setG r v).msgb = st.msgb := by
  simp only [Strand.setG]; split; rfl; split <;> rfl
@[simp] theorem setG_fpflags (st : Strand) (r : Reg) (v : BitVec 64) : (st.setG r v).fpflags = st.fpflags := by
  simp only [Strand.setG]; split; rfl; split <;> rfl
@[simp] theorem setG_tfirst (st : Strand) (r : Reg) (v : BitVec 64) : (st.setG r v).tfirst = st.tfirst := by
  simp only [Strand.setG]; split; rfl; split <;> rfl
@[simp] theorem setG_tcount (st : Strand) (r : Reg) (v : BitVec 64) : (st.setG r v).tcount = st.tcount := by
  simp only [Strand.setG]; split; rfl; split <;> rfl
@[simp] theorem setG_part (st : Strand) (r : Reg) (v : BitVec 64) : (st.setG r v).part = st.part := by
  simp only [Strand.setG]; split; rfl; split <;> rfl
@[simp] theorem setG_launch (st : Strand) (r : Reg) (v : BitVec 64) : (st.setG r v).launch = st.launch := by
  simp only [Strand.setG]; split; rfl; split <;> rfl
@[simp] theorem setG_crew (st : Strand) (r : Reg) (v : BitVec 64) : (st.setG r v).crew = st.crew := by
  simp only [Strand.setG]; split; rfl; split <;> rfl
@[simp] theorem setG_index (st : Strand) (r : Reg) (v : BitVec 64) : (st.setG r v).index = st.index := by
  simp only [Strand.setG]; split; rfl; split <;> rfl
@[simp] theorem setG_stage (st : Strand) (r : Reg) (v : BitVec 64) : (st.setG r v).stage = st.stage := by
  simp only [Strand.setG]; split; rfl; split <;> rfl
@[simp] theorem setG_hinted (st : Strand) (r : Reg) (v : BitVec 64) : (st.setG r v).hinted = st.hinted := by
  simp only [Strand.setG]; split; rfl; split <;> rfl
@[simp] theorem setG_left (st : Strand) (r : Reg) (v : BitVec 64) : (st.setG r v).left = st.left := by
  simp only [Strand.setG]; split; rfl; split <;> rfl
@[simp] theorem setG_arrived (st : Strand) (r : Reg) (v : BitVec 64) : (st.setG r v).arrived = st.arrived := by
  simp only [Strand.setG]; split; rfl; split <;> rfl
@[simp] theorem setG_fenced (st : Strand) (r : Reg) (v : BitVec 64) : (st.setG r v).fenced = st.fenced := by
  simp only [Strand.setG]; split; rfl; split <;> rfl
@[simp] theorem setG_window (st : Strand) (r : Reg) (v : BitVec 64) : (st.setG r v).window = st.window := by
  simp only [Strand.setG]; split; rfl; split <;> rfl
@[simp] theorem setG_wcbuf (st : Strand) (r : Reg) (v : BitVec 64) : (st.setG r v).wcbuf = st.wcbuf := by
  simp only [Strand.setG]; split; rfl; split <;> rfl
@[simp] theorem setG_poison (st : Strand) (r : Reg) (v : BitVec 64) : (st.setG r v).poison = st.poison := by
  simp only [Strand.setG]; split; rfl; split <;> rfl
@[simp] theorem setG_wait (st : Strand) (r : Reg) (v : BitVec 64) : (st.setG r v).wait = st.wait := by
  simp only [Strand.setG]; split; rfl; split <;> rfl
@[simp] theorem setG_held (st : Strand) (r : Reg) (v : BitVec 64) : (st.setG r v).held = st.held := by
  simp only [Strand.setG]; split; rfl; split <;> rfl
@[simp] theorem setG_trapPend (st : Strand) (r : Reg) (v : BitVec 64) : (st.setG r v).trapPend = st.trapPend := by
  simp only [Strand.setG]; split; rfl; split <;> rfl
@[simp] theorem setG_halting (st : Strand) (r : Reg) (v : BitVec 64) : (st.setG r v).halting = st.halting := by
  simp only [Strand.setG]; split; rfl; split <;> rfl
@[simp] theorem setG_mma (st : Strand) (r : Reg) (v : BitVec 64) : (st.setG r v).mma = st.mma := by
  simp only [Strand.setG]; split; rfl; split <;> rfl
@[simp] theorem setG_yielded (st : Strand) (r : Reg) (v : BitVec 64) : (st.setG r v).yielded = st.yielded := by
  simp only [Strand.setG]; split; rfl; split <;> rfl
@[simp] theorem setG_preReq (st : Strand) (r : Reg) (v : BitVec 64) : (st.setG r v).preReq = st.preReq := by
  simp only [Strand.setG]; split; rfl; split <;> rfl
@[simp] theorem setG_notice (st : Strand) (r : Reg) (v : BitVec 64) : (st.setG r v).notice = st.notice := by
  simp only [Strand.setG]; split; rfl; split <;> rfl
@[simp] theorem setG_paused (st : Strand) (r : Reg) (v : BitVec 64) : (st.setG r v).paused = st.paused := by
  simp only [Strand.setG]; split; rfl; split <;> rfl
@[simp] theorem setG_badRecord (st : Strand) (r : Reg) (v : BitVec 64) : (st.setG r v).badRecord = st.badRecord := by
  simp only [Strand.setG]; split; rfl; split <;> rfl
@[simp] theorem setG_uid (st : Strand) (r : Reg) (v : BitVec 64) : (st.setG r v).uid = st.uid := by
  simp only [Strand.setG]; split; rfl; split <;> rfl

end Sys2Proof.Machine
end

