-- ==== Sys2Proof/Laws/Operands.lean ====
section
/-! SUPPORT. What the shared operations of an instruction do: the guard, the reading of sources, the writing of a destination, and the
settling of earlier accesses. -/
namespace Sys2Proof.Machine

@[simp] theorem me?_setMe (s : State) (st : Strand) : (s.setMe st).me? = some st := by
  simp [State.me?, State.strand?]

@[simp] theorem setMe_setMe_actor (s : State) (st : Strand) : (s.setMe st).actor = s.actor := rfl

/-- A register that has been written reads as its new value, and every other register as before (R9). -/
theorem g_setG (st : Strand) (r q : Reg) (v : BitVec 64) : (st.setG r v).g q = if q = r ∧ r ≠ 0 then v else st.g q := by
  by_cases hr : r.toNat = 0
  · have : r = 0 := BitVec.eq_of_toNat_eq hr
    subst this; simp [Strand.setG]
  · have hr0 : r ≠ 0 := fun h => hr (by rw [h]; rfl)
    by_cases hq : q = r
    · subst hq
      simp only [Strand.setG, hr, if_false, Strand.g, hr0, ne_eq, not_false_eq_true, and_self, if_true]
      split <;> simp [Strand.entry]
    · have hne : q.toNat ≠ r.toNat := fun h => hq (BitVec.eq_of_toNat_eq h)
      simp only [hq, false_and, if_false, Strand.setG, hr, Strand.g]
      by_cases h8 : r.toNat < 8
      · simp only [h8, if_true]
        by_cases hq0 : q.toNat = 0
        · simp [hq0]
        · simp only [hq0, if_false]
          split
          · exact NMap.getD_set_ne _ _ _ hne
          · rfl
      · simp only [h8, if_false]
        by_cases hq0 : q.toNat = 0
        · simp [hq0]
        · simp only [hq0, if_false]
          split
          · rfl
          · simp only [Strand.entry]; rw [NMap.get?_set_ne]; omega

/-- A predicate that has been written (R22). -/
theorem p_setP (st : Strand) (k j : BitVec 3) (v : BitVec 16) : (st.setP k v).p j = if j = k ∧ k ≠ 0 then v else st.p j := by
  by_cases hk : k = 0
  · subst hk; simp [Strand.setP]
  · by_cases hj : j = k
    · subst hj; simp only [Strand.setP, Strand.p, hk, if_false, NMap.getD_set_self, ne_eq, not_false_eq_true, and_self, if_true]
    · have hne : j.toNat ≠ k.toNat := fun h => hj (BitVec.eq_of_toNat_eq h)
      simp only [Strand.setP, hk, if_false, Strand.p, hj, false_and]
      split
      · rfl
      · exact NMap.getD_set_ne _ _ _ hne

/-- A vector register that has been written (R17). -/
theorem v_setV (st : Strand) (r q : Reg) (x : BitVec 512) : (st.setV r x).v q = if q = r then x else st.v q := by
  by_cases h : q = r
  · subst h; simp [Strand.setV, Strand.v]
  · have hne : q.toNat ≠ r.toNat := fun e => h (BitVec.eq_of_toNat_eq e)
    simp only [Strand.setV, Strand.v, h, if_false]
    exact NMap.getD_set_ne _ _ _ hne

/-- Sources that are no ports and for which nothing is pending read as the registers stand (R9, R128). -/
theorem readSources_regs (st : Strand) (s : State) (srcs : List Reg) (dst : Option Reg) (vs : List Reg)
    (hp : (srcs ++ dst.toList).any isPort = false) (hw : st.window = []) (hx : st.poison = []) :
    readSources st s srcs dst vs = .ok (srcs.map st.g, s) := by
  have h1 (r : Reg) : st.pendingG r = false := by simp [Strand.pendingG, hw]
  have h2 (r : Reg) : st.pendingV r = false := by simp [Strand.pendingV, hw]
  have h3 : st.poisonOf (srcs ++ dst.toList) vs = none := by simp [Strand.poisonOf, hx]
  unfold readSources
  simp only [h3]
  rw [if_neg (by simp [h1, h2]), if_neg (by simp [hp])]

/-- A guard that allows lets the body run; one that does not only advances the PC (R73). -/
theorem guarded_of_allows {g : Guard} {w : Nat} {body : Strand → State → Out} {st : Strand} {s : State} (h : st.allows g = true) :
    guarded g w body st s = body st s := by simp [guarded, h]

theorem guarded_of_not_allows {g : Guard} {w : Nat} {body : Strand → State → Out} {st : Strand} {s : State} (h : st.allows g = false) :
    guarded g w body st s = .ok (s.setMe (st.advance w)) := by simp [guarded, h]

theorem laneGuarded_of_mask {g : Guard} {w : Nat} {body : BitVec 16 → Strand → State → Out} {st : Strand} {s : State}
    (h : st.mask g ≠ 0) : laneGuarded g w body st s = body (st.mask g) st s := if_neg h

theorem laneGuarded_of_no_lane {g : Guard} {w : Nat} {body : BitVec 16 → Strand → State → Out} {st : Strand} {s : State}
    (h : st.mask g = 0) : laneGuarded g w body st s = .ok (s.setMe (st.advance w)) := if_pos h

/-- A body that retires gives the next state; one that traps delivers the trap to the acting slot. -/
theorem runBody_ok {body : Strand → State → Out} {s t : State} {st : Strand} (hm : s.me? = some st) (h : body st s = .ok t) :
    runBody body s = .next t := by simp [runBody, hm, h, settle]

theorem runBody_trap {body : Strand → State → Out} {s : State} {st : Strand} {t : Trap} (hm : s.me? = some st)
    (h : body st s = .trap t) : runBody body s = .next (s.deliver s.actor t) := by simp [runBody, hm, h, settle]

theorem runBody_none {body : Strand → State → Out} {s : State} (hm : s.me? = none) : runBody body s = .fault .noStrand := by
  simp [runBody, hm]

/-- An instruction never refuses, and faults only where the slot holds no strand. -/
theorem runBody_next {body : Strand → State → Out} {s : State} {st : Strand} (hm : s.me? = some st) : ∃ t, runBody body s = .next t :=
  ⟨_, by simp [runBody, hm]; rfl⟩

/-- With nothing in the combining buffer a drain does nothing. -/
theorem drainWc_of_none {s : State} {n : Nat} {st : Strand} (hm : s.strand? n = some st) (hb : st.wcbuf = none) : s.drainWc n = s := by
  simp [State.drainWc, hm, hb]

/-- A strand with nothing outstanding is settled at once (R130). -/
theorem settled_of_settled {report : Bool} {st : Strand} {s : State} {go : Strand → State → Out} (hm : s.me? = some st) (h : st.Settled) :
    settled report st s go = go st s := by
  have hd : s.drainWc s.actor = s := drainWc_of_none hm h.wcbuf
  unfold settled
  simp only [h.window, List.isEmpty_nil, Bool.not_true, Bool.false_eq_true, if_false, hd, hm]
  cases report <;> simp [Strand.reportAll, h.poison, Res.andThen]

end Sys2Proof.Machine
end

