-- ==== Sys2Proof/Tests/Slice0.lean ====
section
/-! SUPPORT. Tests: the words the spec writes out, one ill-formed term for each check, one step of instructions on a small state, and for every
statement with hypotheses a state and operands that meet them. Expected values are those of the spec's rules, worked by hand. -/
namespace Sys2Proof.Tests
set_option Elab.async false
open Sys2Proof Sys2Proof.Machine Sys2Proof.Claims

/-! ### Small states -/

/-- The state a step goes on in. -/
def after (o : Host.Outcome State Fault Refusal) : State :=
  match o with
  | .next t => t
  | _ => State.reset

/-- The value of a check, if it has one. -/
def Res.got {α : Type} (r : Res α) : Option α :=
  match r with
  | .ok a => some a
  | _ => none

/-- The machine goes on. -/
def isNext (o : Host.Outcome State Fault Refusal) : Bool := match o with | .next _ => true | _ => false
theorem next_of {o : Host.Outcome State Fault Refusal} (h : isNext o = true) : o = .next (after o) := by cases o <;> simp_all [isNext, after]

theorem ok_of_got {α : Type} {r : Res α} {a : α} (h : Res.got r = some a) : r = .ok a := by
  cases r <;> simp_all [Res.got]

/-- The spot of an answer of the address check. -/
def gotSpot (r : Res Spot) : Spot := (Res.got r).getD (Spot.local 0)
theorem ok_gotSpot {r : Res Spot} (h : (Res.got r).isSome = true) : r = .ok (gotSpot r) := by cases r <;> simp_all [Res.got, gotSpot]

/-- One strand in slot 0 of cell 0 with a page table over device memory: GiB 0 normal, GiB 1 of class 1, GiB 2 of class 2, GiB 3 of class 3,
GiB 4 write-combining. -/
def base : State :=
  let s := (State.reset.place (leBytes 0 20)).setBytes 0x20008
    (leBytes 0x4000021F 8 ++ leBytes 0x8000041F 8 ++ leBytes 0xC000061F 8 ++ leBytes 0x10000005F 8)
  s.modPart 0 fun x => { x with tables := [(3, [0x0301, 0x0010])] }

/-- The strand of `base` with values to work on: g8 = 5, g9 = 7, g10 = 64, g11 and above addresses. -/
def st0 : Strand :=
  { (base.me?).getD Strand.zero with
    stk := [(0, 5), (1, 7), (2, 64), (3, 0x50000), (4, 0x40000000), (5, 0x80000000), (6, 0xC0000000), (7, 0x50001), (8, 0x100000000)]
    preds := [(1, 0x000F)], vregs := [(1, 0x3F80000040000000), (2, 0x4000000040400000)] }

/-- The strand's state. -/
def s0 : State := base.setMe st0

theorem me0 : s0.me? = some st0 := by rfl
theorem runs0 : Runs s0 st0 .always := ⟨by rfl, by rfl⟩
theorem waiting0 : RunsWaiting s0 st0 .always := ⟨by rfl, by rfl, by rfl⟩
theorem settled0 : st0.Settled := ⟨by rfl, by rfl, by rfl⟩
theorem sound0 (line : Nat) : s0.isPoisoned line = false := by rfl
theorem reads0 : readSources st0 s0 [8, 9] (some 10) = .ok ([5, 7], s0) := by rfl


/-- A register of the acting strand after an instruction, and its PC. -/
def seenAfter (o : Host.Outcome State Fault Refusal) (r : Reg) : Option (BitVec 64 × BitVec 64) := (after o).me?.map fun u => (u.g r, u.pc)
/-- The acting strand with other contents. -/
def s0with (f : Strand → Strand) : State := s0.setMe (f st0)

/-! ### Scalar instructions, ports and calls -/

theorem witness_ScalarResult : ScalarRow (.add .always 10 8 9) .always 1 10 [8, 9] (fun v => nth v 0 + nth v 1) ∧ Runs s0 st0 .always
    ∧ readSources st0 s0 [8, 9] (some 10) = .ok ([5, 7], s0) := ⟨.wide .add .., runs0, reads0⟩
theorem witness_BitCounts : (0x80 : Nat) < 2 ^ 8 ∧ 0 < 0x80 ∧ ctzN (0x80 : BitVec 64) 8 0 < 8 ∧ (63 : BitVec 6).toNat + (0 : BitVec 6).toNat < 64 := by decide
theorem test_add : seenAfter (exec (.add .always 10 8 9) s0) 10 = some (12, 0x30004) := by decide +kernel
theorem test_div_by_zero : seenAfter (exec (.div .always 10 8 0) s0) 10 = some (0xFFFFFFFFFFFFFFFF, 0x30004) := by decide +kernel
theorem test_rem_by_zero : seenAfter (exec (.rem .always 10 8 0) s0) 10 = some (5, 0x30004) := by decide +kernel
theorem test_mulh_minus : seenAfter (exec (.mulhLiteral .always 10 8 0xFFFFFFFFFFFFFFFF) s0) 10 = some (0xFFFFFFFFFFFFFFFF, 0x3000C) := by decide +kernel
theorem test_subW_sign : seenAfter (exec (.subW .always 10 8 9) s0) 10 = some (0xFFFFFFFFFFFFFFFE, 0x30004) := by decide +kernel
theorem test_sar_word : seenAfter (exec (.sarLiteral .always true 10 8 33) s0) 10 = some (2, 0x3000C) := by decide +kernel
theorem test_clz_zero : seenAfter (exec (.clz .always true 10 0) s0) 10 = some (32, 0x30004) := by decide +kernel
theorem test_ins_itself : seenAfter (exec (.ins 9 8 4 3) s0) 9 = some (0x57, 0x30004) := by decide +kernel
theorem test_lea : seenAfter (exec (.lea .always 3 10 8 9) s0) 10 = some (61, 0x30004) := by decide +kernel
theorem test_g0_discards : seenAfter (exec (.add .always 0 8 9) s0) 0 = some (0, 0x30004) := by decide +kernel

theorem witness_PredicateResult_true : CondRow .cmpLt .cmpLtLiteral (fun x y => x.toInt < y.toInt) ∧ Runs s0 st0 .always
    ∧ readSources st0 s0 [8, 9] none = .ok ([5, 7], s0) ∧ condAt (fun x y => x.toInt < y.toInt) false 5 7 := ⟨.lt, runs0, by rfl, by unfold condAt; decide⟩
theorem witness_PredicateResult_false : readSources st0 s0 [9] none = .ok ([7], s0) ∧ ¬ condAt (fun x y => x.toInt < y.toInt) true 7 5 :=
  ⟨by rfl, by unfold condAt; decide⟩
theorem witness_PredicateResult_sel : PlogRow .plogNand (fun x y => ~~~(x &&& y)) ∧ readSources st0 s0 [8, 9] (some 10) = .ok ([5, 7], s0) := ⟨.nand, reads0⟩
theorem test_cmp_unsigned : (after (exec (.cmpLtuLiteral .always false 2 8 0xFFFFFFFFFFFFFFFF) s0)).me?.map (fun u => u.p 2) = some 0xFFFF := by decide +kernel
theorem test_cmp_signed : (after (exec (.cmpLtLiteral .always false 2 8 0xFFFFFFFFFFFFFFFF) s0)).me?.map (fun u => u.p 2) = some 0 := by decide +kernel
theorem test_plog_nor : (after (exec (.plogNor .always 2 1 1) s0)).me?.map (fun u => u.p 2) = some 0xFFF0 := by decide +kernel
theorem test_p0_discards : (after (exec (.plogNor .always 0 1 1) s0)).me?.map (fun u => u.p 0) = some 0xFFFF := by decide +kernel
theorem test_sel_inverted : seenAfter (exec (.sel .always true 1 10 8 9) s0) 10 = some (7, 0x30004) := by decide +kernel

theorem witness_ControlTransfer : Runs s0 st0 .always ∧ readSources st0 s0 [10] none = .ok ([64], s0) ∧ (64 : BitVec 64).toNat % 4 = 0 := ⟨runs0, by rfl, by decide⟩
theorem witness_ControlTransfer_misaligned : readSources st0 s0 [8] none = .ok ([5], s0) ∧ (5 : BitVec 64).toNat % 4 ≠ 0 := ⟨by rfl, by decide⟩
theorem witness_ControlTransfer_loop : readSources st0 s0 [8] (some 8) = .ok ([5], s0) := by rfl
theorem test_br_back : (after (exec (.br .always 0x7FFFF) s0)).me?.map Strand.pc = some 0x2FFFC := by decide +kernel
theorem test_loop_goes : seenAfter (exec (.loop 8 2) s0) 8 = some (4, 0x30008) := by decide +kernel
theorem test_loop_ends : seenAfter (exec (.loop 8 2) (s0with fun u => u.setG 8 1)) 8 = some (0, 0x30004) := by decide +kernel
theorem test_jmpx_misaligned : (after (exec (.jmpx .always 8) s0)).me?.map (fun u => (u.pc, u.cause, u.faddr)) = some (0x40000, 0x0105, 5) := by decide +kernel

theorem witness_HaltEnds : Runs s0 st0 .always ∧ st0.poison = [] ∧ s0.canEnd s0.actor st0 = true := ⟨runs0, by rfl, by decide +kernel⟩
/-- The strand with a store that is yet to be performed. -/
def stBusy : Strand := { st0 with window := [{ id := 0, store := true, width := 8, whole := true, parts := [(0x50000, 0, leBytes 9 8)], va := 0x50000, acquire := false, release := false, memType := 0, dest := .none, got := [] }] }
theorem witness_HaltEnds_busy : Runs (s0.setMe stBusy) stBusy .always ∧ stBusy.poison = [] ∧ (s0.setMe stBusy).canEnd (s0.setMe stBusy).actor stBusy = false :=
  ⟨⟨by rfl, by rfl⟩, by rfl, by decide +kernel⟩
theorem test_halt_frees : (after (exec (.halt .always) s0)).me? = none := by decide +kernel
theorem test_halt_waits : (after (exec (.halt .always) (s0.setMe stBusy))).me?.map Strand.halting = some true := by decide +kernel

theorem witness_SharedRegister : Runs s0 st0 .always ∧ readSources st0 s0 [8] none = .ok ([5], s0) ∧ readSources st0 s0 [] (some 10) = .ok ([], s0) := ⟨runs0, by rfl, by rfl⟩
theorem test_movh : seenAfter (exec (.movhFromShared .always 10 3) (after (exec (.movhToShared .always 3 9) s0))) 10 = some (7, 0x30008) := by decide +kernel

theorem witness_RegisterAccess : 8 ≤ (8 : Reg).toNat ∧ (19 : Nat) < 20 ∧ NMap.get? st0.stk 19 = none ∧ NMap.get? st0.stk 20 = none ∧ isPort (27 : Reg) = false := by decide +kernel

/-- The cell with receive queue 0 bound to slot 0, holding words. -/
def s0port (ws fl : List (BitVec 64)) : State :=
  s0.setCell 0 { s0.cell 0 with ports := [(0, ⟨ws, fl, some (0, 0, 0)⟩)] }
/-- The launch of the strand holds cell 1 too, so that a send on q0 arrives. -/
def s0send (n : Nat) : State :=
  (s0.modCrew 0 0 0 fun c => { c with cells := [(0, 0, 0), (1, 0, 0)] }).setCell 1 { s0.cell 1 with ports := [(1, ⟨List.replicate n 1, [], none⟩)] }
theorem witness_Ports_codelet : let s := (s0port [3] []).setMe { st0 with cdl := true }
    Runs s { st0 with cdl := true } .always ∧ Strand.Settled { st0 with cdl := true }
    ∧ ScalarRow (.add .always 10 28 8) .always 1 10 [28, 8] (fun v => nth v 0 + nth v 1) ∧ isPort 28 = true ∧ s.portTrap { st0 with cdl := true } [28, 8] (some 10) = none :=
  ⟨⟨by rfl, by rfl⟩, ⟨by rfl, by rfl, by rfl⟩, .wide .add .., by decide, by decide +kernel⟩
theorem witness_Ports_unbound : Runs s0 st0 .always ∧ st0.cdl = false ∧ ((s0.cell (cellOf s0.actor)).port ((28 : Reg).toNat - 28)).owner ≠ some (st0.part, st0.launch, slotOf s0.actor) :=
  ⟨runs0, by rfl, by decide +kernel⟩
theorem witness_Ports_read : Runs (s0port [3, 4] []) st0 .always ∧ st0.Settled ∧ st0.cdl = false ∧ isPort (10 : Reg) = false
    ∧ ((s0port [3, 4] []).cell 0).port 0 = ⟨[3, 4], [], some (st0.part, st0.launch, 0)⟩ := ⟨⟨by rfl, by rfl⟩, settled0, by rfl, by rfl, by decide +kernel⟩
theorem witness_Ports_empty : Runs (s0port [] []) st0 .always ∧ (((s0port [] []).cell 0).port 0).words = [] := ⟨⟨by rfl, by rfl⟩, by decide +kernel⟩
theorem witness_Ports_nowhere : s0.portDest st0.part (cellOf s0.actor) ((31 : Reg).toNat - 28) = none ∧ isPort (31 : Reg) = true := by decide +kernel
theorem witness_Ports_foreign : s0.portDest st0.part (cellOf s0.actor) ((28 : Reg).toNat - 28) = some (1, 1) ∧ s0.holdsLaunch st0.part st0.launch 1 = false := by decide +kernel
theorem witness_Ports_full : Runs (s0send 8) st0 .always ∧ (s0send 8).holdsLaunch st0.part st0.launch 1 = true
    ∧ 8 ≤ (((s0send 8).cell 1).port 1).words.length + (((s0send 8).cell 1).port 1).flight.length := ⟨⟨by rfl, by rfl⟩, by decide +kernel, by decide +kernel⟩
theorem witness_Ports_send : Runs (s0send 7) st0 .always ∧ (s0send 7).holdsLaunch st0.part st0.launch 1 = true
    ∧ (((s0send 7).cell 1).port 1).words.length + (((s0send 7).cell 1).port 1).flight.length < 8 := ⟨⟨by rfl, by rfl⟩, by decide +kernel, by decide +kernel⟩
theorem witness_Ports_arrival : ((s0port [1] [9]).cell 0).port (0 : BitVec 2).toNat = ⟨[1], [9], some (0, 0, 0)⟩ := by decide +kernel
theorem test_port_read : seenAfter (exec (.add .always 10 28 28) (s0port [3, 4] [])) 10 = some (7, 0x30004) := by decide +kernel
theorem test_port_send : (((after (exec (.addi 28 8 1) (s0send 7))).cell 1).port 1).flight = [6] := by decide +kernel
theorem witness_PortRoutes : (7 : Nat) < 8 ∧ (s0.modPart 0 fun x => { x with clusters := [0, 1] }).clusterAt 0 ((s0.modPart 0 fun x => { x with clusters := [0, 1] }).ordinal 0 ^^^ 1) = some 1 := by
  decide +kernel

/-- The strand in a procedure whose caller's window lies `20 - k` below. -/
def stCalled : Strand := { st0 with winbase := 19, depth := 1, fixed := NMap.set st0.fixed 7 (0x0100000000030010 : BitVec 64) }
theorem witness_CallEnters : CallRow st0 (.call .always 0 4) .always 1 1 (st0.pc + 4 * (4 : BitVec 15).signExtend 64) ∧ Runs s0 st0 .always ∧ st0.Settled ∧ st0.depth < 0xFFFF
    ∧ st0.winbase + 20 - 1 ≤ 28 := ⟨.call .., runs0, settled0, by decide +kernel, by decide +kernel⟩
theorem witness_CallEnters_deep : Runs (s0with fun u => { u with depth := 0xFFFF }) { st0 with depth := 0xFFFF } .always ∧ Strand.Settled { st0 with depth := 0xFFFF } :=
  ⟨⟨by rfl, by rfl⟩, ⟨by rfl, by rfl, by rfl⟩⟩
theorem witness_CallEnters_callx : readSources st0 s0 [10] none = .ok ([64], s0) ∧ readSources st0 s0 [8] none = .ok ([5], s0) ∧ (64 : BitVec 64).toNat % 4 = 0
    ∧ (5 : BitVec 64).toNat % 4 ≠ 0 ∧ st0.winbase + 20 - ((15 : BitVec 4).toNat + 1) ≤ 28 := ⟨by rfl, by rfl, by decide, by decide, by decide +kernel⟩
theorem witness_ReturnLeaves : Runs (s0.setMe stCalled) stCalled .always ∧ stCalled.Settled ∧ Linked stCalled 1 0x30010 ∧ stCalled.winbase ≤ 28 :=
  ⟨⟨by rfl, by rfl⟩, ⟨by rfl, by rfl, by rfl⟩, ⟨by decide +kernel, by decide, by decide, by decide +kernel⟩, by decide +kernel⟩
theorem witness_ReturnLeaves_unlinked : Runs s0 st0 .always ∧ ¬ ∃ k pc, Linked st0 k pc := ⟨runs0, fun ⟨_, _, h⟩ => absurd h.inside.1 (by decide +kernel)⟩
theorem witness_ReturnLeaves_pair : st0.pc.toNat % 4 = 0 ∧ st0.pc.toNat + 12 < 2 ^ 56 := by decide +kernel
theorem test_call_ret : seenAfter (exec (.ret .always) (after (exec (.call .always 0 4) s0))) 8 = some (5, 0x30004) := by decide +kernel
theorem test_call_overlap : seenAfter (exec (.call .always 0 4) (s0with fun u => u.setG 27 99)) 8 = some (99, 0x30010) := by decide +kernel
/-- The strand two calls deep, with a carve of 64 bytes at the start of lmem. -/
def stDeep : Strand := { st0 with winbase := 28, depth := 2, carveSize := 16, fixed := NMap.set st0.fixed 7 (0x0100000000030010 : BitVec 64) }
theorem witness_RegisterStack : Runs (s0.setMe stDeep) stDeep .always ∧ stDeep.Settled ∧ stDeep.depth < 0xFFFF ∧ 8 * (stDeep.winbase + 20 - 1 - 28) ≤ stDeep.carveSize * 64 :=
  ⟨⟨by rfl, by rfl⟩, ⟨by rfl, by rfl, by rfl⟩, by decide +kernel, by decide +kernel⟩
theorem witness_RegisterStack_apart : (∀ e, 0 ≤ e → e < 19 → (s0.setMe stDeep).isPoisoned (lineOf (carved (s0.setMe stDeep) stDeep e)) = false)
    ∧ (∀ b ∈ incoming (s0.setMe stDeep) stDeep 1, carved (s0.setMe stDeep) stDeep 0 + 8 ≤ b ∨ b + 8 ≤ carved (s0.setMe stDeep) stDeep 0) := ⟨fun _ _ _ => by rfl, by decide +kernel⟩
theorem witness_RegisterStack_fill : Linked stDeep 1 0x30010 ∧ 8 * (stDeep.winbase - 28) ≤ stDeep.carveSize * 64 := ⟨⟨by decide +kernel, by decide, by decide, by decide +kernel⟩, by decide +kernel⟩
theorem witness_RegisterStack_overflow : Strand.log2sz { stDeep with carveSize := 0 } = 0 ∧ 28 < stDeep.winbase + 20 - 1 := by decide +kernel
theorem test_spill : (after (exec (.call .always 0 4) (s0.setMe { stDeep with stk := [(0, 0x1122)] }))).bytes (lmemBase 0) 2 = [0x22, 0x11] := by decide +kernel


/-! ### Vector, ray and interval instructions -/

/-- Lanes 0 and 1 of a vector register of the acting strand after an instruction. -/
def lanesAfter (o : Host.Outcome State Fault Refusal) (r : Reg) : Option (BitVec 32 × BitVec 32) := (after o).me?.map fun u => (vlane u r 0, vlane u r 1)

theorem lanes0 (g : Guard) (h : st0.mask g ≠ 0) (l : List Reg) (hl : ∀ r ∈ l, r.toNat < 32) (hr : readSources st0 s0 [] none l = .ok ([], s0)) :
    RunsLanes s0 st0 g l [] none [] s0 := ⟨me0, h, hl, hr⟩
theorem witness_LaneResult : LaneRow (.vadd ⟨false, 1⟩ 3 1 2) ⟨false, 1⟩ 1 3 [1, 2] (fun st i => elem2 .add 19 st (vlane st 1 i) (vlane st 2 i))
    ∧ RunsLanes s0 st0 ⟨false, 1⟩ [3, 1, 2] [] none [] s0 := ⟨.bin .add .., lanes0 _ (by decide +kernel) _ (by decide) (by rfl)⟩
theorem witness_MaskResult : MaskRow (.vcmpIlt .always 2 1 2) .always 1 2 [1, 2] (fun st i => (decide ((vlane st 1 i).toInt < (vlane st 2 i).toInt), 0))
    ∧ RunsLanes s0 st0 .always [1, 2] [] none [] s0 := ⟨.int .ilt .., lanes0 _ (by decide +kernel) _ (by decide) (by rfl)⟩
theorem test_vadd : lanesAfter (exec (.vadd .always 3 1 2) s0) 3 = some (0x40A00000, 0x40400000) := by decide +kernel
theorem test_vadd_lane : lanesAfter (exec (.vadd ⟨false, 1⟩ 1 1 2) (s0with fun u => u.setP 1 2)) 1 = some (0x40000000, 0x40400000) := by decide +kernel
theorem test_vfms : lanesAfter (exec (.vfms .always 2 1 1) s0) 2 = some (0x3F800000, 0xBF800000) := by decide +kernel
theorem test_vperm : lanesAfter (exec (.vperm .always 3 1 1) (s0with fun u => u.setV 1 0x0000000400000011)) 3 = some (4, 0) := by decide +kernel
theorem test_vcmp_half : (after (exec (.vcmpFltExtended .always 2 1 2 18 true) s0)).me?.map (fun u => u.p 2) = some 3 := by decide +kernel

theorem witness_ReduceAndMove_fold : RedRow (.vredIadd .always 10 1) .always 1 10 1
      (fun st m => ((((List.range 16).filter fun i => m.getLsbD i).foldl (fun x i => x + vlane st 1 i) 0).signExtend 64, 0))
    ∧ RunsLanes s0 st0 .always [1] [] (some 10) [] s0 := ⟨.iadd .., me0, by decide +kernel, by decide, by rfl⟩
theorem witness_ReduceAndMove_bcast : RunsLanes s0 st0 ⟨false, 1⟩ [3] [8] none [5] s0 := ⟨me0, by decide +kernel, by decide, by rfl⟩
theorem witness_ReduceAndMove_vextr : readSources st0 s0 [9] (some 10) [1] = .ok ([7], s0) := by rfl
theorem witness_ReduceAndMove_vins : readSources st0 s0 [8, 9] none [3] = .ok ([5, 7], s0) ∧ (3 : Reg).toNat < st0.allot := ⟨by rfl, by decide +kernel⟩
theorem witness_ReduceAndMove_vdot : RunsLanes s0 st0 ⟨false, 1⟩ [3, 1, 2] [] none [] s0 := lanes0 _ (by decide +kernel) _ (by decide) (by rfl)
theorem test_vredImin : seenAfter (exec (.vredImin ⟨false, 2⟩ 10 1) (s0with fun u => u.setP 2 3)) 10 = some (0x3F800000, 0x30004) := by decide +kernel
theorem test_vextr : seenAfter (exec (.vextr .always 10 2 8) s0) 10 = some (0, 0x30004) := by decide +kernel
theorem test_vins : lanesAfter (exec (.vins .always 1 10 8) (s0with fun u => u.setG 8 17)) 1 = some (0x40000000, 64) := by decide +kernel

theorem witness_ConvertResult : 0 < fmtWidth 19 ∧ 0 < fmtWidth 18 ∧ (16 * (0 : BitVec 4).toNat + 16) * fmtWidth 19 ≤ 512 ∧ (16 * (1 : BitVec 4).toNat + 16) * fmtWidth 18 ≤ 512
    ∧ RunsLanes s0 st0 ⟨false, 1⟩ [3, 1] [] none [] s0 := ⟨by decide, by decide, by decide, by decide, lanes0 _ (by decide +kernel) _ (by decide) (by rfl)⟩
/-- 2.0 and 1.0 of FP32 are 4000H and 3C00H of FP16. -/
theorem test_vcvt : lanesAfter (exec (.vcvt .always 3 1 19 18 0 0) s0) 3 = some (0x3C004000, 0) := by decide +kernel

/-- The strand with two vector registers allotted. -/
def stAllot : Strand := { st0 with allot := 2 }
theorem witness_Allotment_bound : (s0.setMe stAllot).me? = some stAllot ∧ stAllot.mask .always ≠ 0 ∧ ∃ r ∈ [(3 : Reg), 1, 2], stAllot.allot ≤ r.toNat :=
  ⟨by rfl, by decide +kernel, 3, by decide, by decide⟩
theorem witness_Allotment_valloc : Runs (s0.setMe stAllot) stAllot .always ∧ readSources stAllot (s0.setMe stAllot) [8] (some 10) = .ok ([5], s0.setMe stAllot)
    ∧ stAllot.allot + (5 : BitVec 64).toNat ≤ 32 ∧ (s0.setMe stAllot).poolUsed (cellOf s0.actor) + (5 : BitVec 64).toNat ≤ 256 := ⟨⟨by rfl, by rfl⟩, by rfl, by decide, by decide +kernel⟩
theorem witness_Allotment_full : readSources st0 s0 [8] (some 10) = .ok ([5], s0) ∧ st0.allot ≤ 32
    ∧ ¬ (st0.allot + (5 : BitVec 64).toNat ≤ 32 ∧ s0.poolUsed (cellOf s0.actor) + (5 : BitVec 64).toNat ≤ 256) := ⟨by rfl, by decide +kernel, by decide +kernel⟩
theorem witness_Allotment_vfree : readSources st0 s0 [8] none = .ok ([5], s0) ∧ ∀ y ∈ st0.window, y.dest = .none := ⟨by rfl, by decide +kernel⟩
theorem test_valloc : seenAfter (exec (.valloc .always 10 8) (s0.setMe stAllot)) 10 = some (7, 0x30004) := by decide +kernel
theorem test_valloc_full : seenAfter (exec (.valloc .always 10 8) s0) 10 = some (0xFFFFFFFFFFFFFFFF, 0x30004) := by decide +kernel
theorem test_vfree_zero : (after (exec (.vfree .always 8) s0)).me?.map Strand.allot = some 27 := by decide +kernel

theorem witness_VectorMemory_line : st0.mask .always ≠ 0 ∧ st0.window = [] ∧ st0.wcbuf = none ∧ st0.poison = [] ∧ (∀ line, s0.isPoisoned line = false)
    ∧ (st0.g 10 + st0.g 0 + (64 : BitVec 64)).toNat % 64 = 0 ∧ (st0.g 10 + st0.g 0 + (64 : BitVec 64)).toNat + 64 ≤ spaceSize 5
    ∧ (st0.g 10 + st0.g 0 + (64 : BitVec 64)).toNat < 0xFF000 := ⟨by decide +kernel, by rfl, by rfl, by rfl, sound0, by decide +kernel, by decide +kernel, by decide +kernel⟩
theorem witness_VectorMemory_lanes : ∀ i, i < 16 → (st0.mask ⟨false, 1⟩).getLsbD i = true →
    (st0.g 10 + (vlane st0 3 i).setWidth 64).toNat % 4 = 0 ∧ (st0.g 10 + (vlane st0 3 i).setWidth 64).toNat + 4 ≤ spaceSize 5 ∧ (st0.g 10 + (vlane st0 3 i).setWidth 64).toNat < 0xFF000 := by
  decide +kernel
theorem witness_VectorMemory_late : qRelaxed (1 : BitVec 4) = true ∧ Strand.isLate st0 = false ∧ Strand.isLate { st0 with wait := some ⟨.late, 0⟩ } = true
    ∧ Strand.Settled { st0 with wait := some ⟨.late, 0⟩ } ∧ (10 : Reg).toNat < st0.allot ∧ isPort (10 : Reg) = false := ⟨by decide, by rfl, by rfl, ⟨by rfl, by rfl, by rfl⟩, by decide +kernel, by decide⟩
theorem test_vld_relaxed : (after (exec (.vldExtended .always 1 10 0 5 1 none) s0)).me?.map (fun u => (u.pc, u.window.length)) = some (0x3000C, 1) := by decide +kernel
theorem test_vst : (after (exec (.vst .always 1 10 0) s0)).bytes (lmemBase 0 + 64) 8 = [0, 0, 0, 0x40, 0, 0, 0x80, 0x3F] := by decide +kernel
/-- All lanes store to one place: the highest acting lane, 3, wins. -/
theorem test_vscat : (after (exec (.vscat ⟨false, 1⟩ 1 10 3) (s0with fun u => u.setV 1 (0x00000004 * 2 ^ 96 + 7)))).bytes (lmemBase 0 + 64) 2 = [4, 0] := by decide +kernel

/-- A ray from the origin along +x with range 0 to 10, in v4. -/
def stRay : Strand := { st0 with vregs := [(4, BitVec.ofNat 512 (0x41200000 * 2 ^ 224 + 0x3F800000 * 2 ^ 96))] }
theorem witness_RayResult : RayRow .boxv .boxvExtended 192 (fun _ a bs => boxvLanes a bs) ∧ Runs (s0.setMe stRay) stRay .always
    ∧ (stRay.g 10).toNat % 64 = 0 ∧ (stRay.g 10).toNat + 192 ≤ spaceSize 5 ∧ stRay.window = [] ∧ stRay.wcbuf = none ∧ stRay.poison = [] :=
  ⟨.boxv, ⟨by rfl, by rfl⟩, by decide +kernel, by decide +kernel, by rfl, by rfl, by rfl⟩
theorem witness_RayResult_local : RayOperand (s0.setMe stRay) stRay (stRay.g 10) 192 5 ((s0.setMe stRay).bytes (localBase 5 (cellOf (s0.setMe stRay).actor) + (stRay.g 10).toNat) 192) :=
  .inSpace (by decide) (by decide +kernel) (by decide +kernel)
theorem witness_RayResult_global : let spot := gotSpot ((s0.setMe stRay).reach stRay .read (stRay.g 11))
    (stRay.g 11).toNat % 64 = 0 ∧ RayOperand (s0.setMe stRay) stRay (stRay.g 11) 192 0 ((s0.setMe stRay).loadBytes none (clusterOf (s0.setMe stRay).actor) spot.mt spot.flat 192) :=
  ⟨by decide +kernel, .inMemory (by rfl) (by decide +kernel) (by decide +kernel) (by decide +kernel) (by decide +kernel) (by decide +kernel)⟩
theorem witness_RayHits_nan : (f32 (lane (BitVec.ofNat 512 (0x7FC00000 * 2 ^ 32)) 1)).isNaN = true := by decide +kernel
/-- A ray that crosses the triangle (2, −1, −1), (2, 2, −1), (2, −1, 2) at distance 2. -/
def triangle : List (BitVec 8) := leBytes (0x40000000 + 0xBF800000 * 2 ^ 32 + 0xBF800000 * 2 ^ 64 + 0x40000000 * 2 ^ 96 + 0x40000000 * 2 ^ 128 + 0xBF800000 * 2 ^ 160
  + 0x40000000 * 2 ^ 192 + 0xBF800000 * 2 ^ 224 + 0x40000000 * 2 ^ 256) 64
theorem test_trix_hit : (lanesAfter (exec (.trix .always 3 4 10) ((s0.setMe stRay).setBytes (localBase 5 0 + 64) triangle)) 3) = some (0x40000000, 0x40000000) := by decide +kernel
theorem test_trix_nan : (lanesAfter (exec (.trix .always 3 4 10) ((s0.setMe { stRay with vregs := [(4, BitVec.ofNat 512 (0x41200000 * 2 ^ 224 + 0x7FC00000 * 2 ^ 96))] }).setBytes
    (localBase 5 0 + 64) triangle)) 3) = some (0x7F800000, 0x7F800000) := by decide +kernel

/-- The strand with a list of two records at most. -/
def stList : Strand := { st0 with nmax := 1, ncap := 1 }
theorem witness_IntervalList : ListRow (.ivcut .always 8) .always [] [8] (fun st v => st.ivcut ((nth v 0).setWidth 32)) ∧ Runs (s0.setMe stList) stList .always ∧ stList.nmax ≠ 0
    ∧ readSources stList (s0.setMe stList) [8] none = .ok ([5], s0.setMe stList) := ⟨.ivcut .., ⟨by rfl, by rfl⟩, by decide, by rfl⟩
/-- The strand of a launch without a list. -/
def stNoList : Strand := { st0 with nmax := 0, ncap := 0 }
theorem witness_IntervalList_none : Runs (s0.setMe stNoList) stNoList .always ∧ stNoList.nmax = 0 := ⟨⟨by rfl, by rfl⟩, by rfl⟩
theorem witness_IntervalList_make : readSources st0 s0 [] none [3, 1, 2] = .ok ([], s0) := by rfl
theorem witness_IntervalBounds : (f32 (0x7FC00000 : BitVec 32)).isNaN = true ∧ (f32 (0x3F800000 : BitVec 32)).isNaN = false ∧ (f32 st0.tmax).isNaN = false := by decide +kernel
theorem test_ivcut : (after (exec (.ivcut .always 8) (s0.setMe (stList.setG 8 0x3F800000)))).me?.map Strand.tmax = some 0x3F800000 := by decide +kernel
theorem test_ivget_none : lanesAfter (exec (.ivget .always 3 8) (s0.setMe stList)) 3 = some (0x7F800000, 0x7F800000) := by decide +kernel


/-! ### Tile and algebra instructions -/

/-- Little-endian FP32 words. -/
def words32 (l : List Nat) : List (BitVec 8) := l.flatMap fun x => leBytes x 4
/-- Tiles of the acting cell: 0, 1 and 2 are 2 × 2 of FP32, 3 and 4 the same over the complex numbers in slot 1, 5 is a column of two scales and 6 is
2 × 2 of FP16. Tile 0 holds 1, 2, 3, 4 and tile 1 holds 1, 1, 0, 1. -/
def s0tile : State :=
  let s := s0.setCell 0 { s0.cell 0 with
    tileCfg := [(0, 0x4113), (1, 0x4113), (2, 0x4113), (3, 0x4133), (4, 0x4133), (5, 0x11D), (6, 0x4112)], algs := [(1, ⟨2, 2, [(0, 1), (1, 1), (1, 1), (0, -1)]⟩)] }
  ((((s.setBytes (tileBase 0 0) (words32 [0x3F800000, 0x40000000, 0x40400000, 0x40800000])).setBytes (tileBase 0 1) (words32 [0x3F800000, 0x3F800000, 0, 0x3F800000])).setBytes
    (tileBase 0 3) (words32 [0x3F800000, 0x40000000, 0x40400000])).setBytes (tileBase 0 5) [0x7F, 0x7F])
/-- The words of a tile of cell 0. -/
def tileWords (s : State) (t n : Nat) : List Nat := (List.range n).map fun i => leNat (s.bytes (tileBase 0 t + 4 * i) 4)

theorem witness_TileReadBack : let c := s0tile.cell 0
    let rows := [[1, 2], [3, 0xFFFF]]
    let w := c.cfg 6
    cfgBytes w (c.alg (cfgAlg w)).d ≤ 4096 ∧ fmtWidth (cfgFmt w) ≠ 0 ∧ rows.length = cfgRows w ∧ (∀ r ∈ rows, r.length = cfgCols w * (c.alg (cfgAlg w)).d)
    ∧ ∀ r ∈ rows, ∀ x ∈ r, x < if cfgFmt w = 1 then 3 else 2 ^ fmtWidth (cfgFmt w) := by decide +kernel
theorem witness_TileGrantTrap : TileRow (.tmov .always 2 0) .always [2, 0] ∧ Runs (s0with fun u => { u with tfirst := 2, tcount := 1 }) { st0 with tfirst := 2, tcount := 1 } .always
    ∧ ∃ t ∈ [(2 : BitVec 4), 0], t.toNat < 2 ∨ 2 + 1 ≤ t.toNat := ⟨.tmov .., ⟨by rfl, by rfl⟩, 0, by decide, by decide⟩

theorem tiles0 (g : Guard) (hg : st0.allows g = true) (ts : List (BitVec 4)) (h : ∀ t ∈ ts, st0.tfirst ≤ t.toNat ∧ t.toNat < st0.tfirst + st0.tcount)
    (hf : s0tile.talgHolds (cellOf s0tile.actor) (ts.map fun t => cfgAlg (cfgOf s0tile t)) = false) : RunsTiles s0tile st0 g ts := ⟨by rfl, hg, h, hf⟩
theorem witness_TileMove : RunsTiles s0tile st0 .always [2, 0] ∧ Sized s0tile [2, 0] ∧ readSources st0 s0tile [8] none = .ok ([5], s0tile)
    ∧ readSources st0 s0tile [] (some 10) = .ok ([], s0tile) ∧ (5 : BitVec 64).extractLsb' 21 43 = 0 ∧ cfgBytes 5 (dimOf s0tile 5) ≤ 4096 :=
  ⟨tiles0 _ (by rfl) _ (by decide +kernel) (by rfl), by unfold Sized; decide +kernel, by rfl, by rfl, by decide, by decide +kernel⟩
theorem witness_TileMove_txp : let x := tileOf s0tile 0
    cfgBytes (cfgShape x.cfg x.cols x.rows) x.d ≤ 4096 := by decide +kernel
theorem test_tcfg_keeps : (let t := after (exec (.tcfg .always 0 8) ((s0tile.setMe (st0.setG 8 0x4112))))
    ((t.cell 0).cfg 0, tileWords t 0 2)) = (0x4112, [0x3F800000, 0x40000000]) := by decide +kernel
theorem test_txp : tileWords (after (exec (.txp .always 2 0) s0tile)) 2 4 = [0x3F800000, 0x40400000, 0x40000000, 0x40800000] := by decide +kernel

theorem witness_TileArithmetic_tconj : RunsTiles s0tile st0 .always [4, 3] ∧ Sized s0tile [4, 3] ∧ (let x := tileOf s0tile 3
    let t := (s0tile.cell 0).alg x.alg
    (∃ c, c < x.d ∧ t.masked c = true) ∧ noConj x.fmt = false) :=
  ⟨tiles0 _ (by rfl) _ (by decide +kernel) (by rfl), by unfold Sized; decide +kernel, ⟨1, by decide +kernel⟩, by decide +kernel⟩
theorem witness_TileArithmetic_tconj_reals : RunsTiles s0tile st0 .always [2, 0] ∧ ∀ c, c < (tileOf s0tile 0).d → ((s0tile.cell 0).alg (tileOf s0tile 0).alg).masked c = false :=
  ⟨tiles0 _ (by rfl) _ (by decide +kernel) (by rfl), by decide +kernel⟩
theorem witness_TileArithmetic_tnorm : RunsTiles s0tile st0 .always [2, 3] ∧ Sized s0tile [2, 3] ∧ (let x := tileOf s0tile 3
    let y := tileOf s0tile 2
    y.rows = x.rows ∧ y.cols = x.cols ∧ y.d = 1 ∧ y.fmt ∈ [17, 18, 19]) := ⟨tiles0 _ (by rfl) _ (by decide +kernel) (by rfl), by unfold Sized; decide +kernel, by decide +kernel⟩
theorem witness_TileArithmetic_tsca : RunsTiles s0tile st0 .always [2, 0, 1] ∧ Sized s0tile [2, 0, 1] ∧ (let z := tileOf s0tile 2
    let x := tileOf s0tile 0
    let y := tileOf s0tile 1
    z.rows = x.rows ∧ z.cols = x.cols ∧ y.rows = x.rows ∧ y.cols = x.cols ∧ z.alg = x.alg ∧ y.d = 1 ∧ z.fmt ∈ [17, 18, 19] ∧ x.fmt ∈ [9, 17, 18, 19] ∧ y.fmt ∈ [17, 18, 19, 29, 30]) :=
  ⟨tiles0 _ (by rfl) _ (by decide +kernel) (by rfl), by unfold Sized; decide +kernel, by decide +kernel⟩
theorem witness_TileArithmetic_qnt : RunsTiles s0tile st0 .always [6, 0, 5] ∧ Sized s0tile [6, 0, 5] ∧ (let z := tileOf s0tile 6
    let x := tileOf s0tile 0
    let y := tileOf s0tile 5
    z.rows = x.rows ∧ z.cols = x.cols ∧ y.rows = x.rows ∧ y.cols = (x.cols + 31) / 32 ∧ z.d = 1 ∧ x.d = 1 ∧ y.d = 1 ∧ y.fmt = 29 ∧ quantTarget z.fmt = true ∧ x.fmt ∈ [17, 18, 19, 20]) :=
  ⟨tiles0 _ (by rfl) _ (by decide +kernel) (by rfl), by unfold Sized; decide +kernel, by decide +kernel⟩
theorem witness_TileArithmetic_dqnt : RunsTiles s0tile st0 .always [2, 6, 5] ∧ (let z := tileOf s0tile 2
    let x := tileOf s0tile 6
    let y := tileOf s0tile 5
    z.rows = x.rows ∧ z.cols = x.cols ∧ y.rows = x.rows ∧ y.cols = (x.cols + 31) / 32 ∧ y.fmt ∈ [29, 30] ∧ z.fmt ∈ [17, 18, 19] ∧ x.fmt ∈ [16, 17, 18, 19, 20]) :=
  ⟨tiles0 _ (by rfl) _ (by decide +kernel) (by rfl), by decide +kernel⟩
/-- The conjugate of 1 + 2i is 1 − 2i. -/
theorem test_tconj : tileWords (after (exec (.tconj .always 4 3) s0tile)) 4 2 = [0x3F800000, 0xC0000000] := by decide +kernel
/-- |1 + 2i|² is 5. -/
theorem test_tnorm : tileWords (after (exec (.tnorm .always 2 3) s0tile)) 2 2 = [0x40A00000, 0x41100000] := by decide +kernel
theorem test_dqnt : tileWords (after (exec (.dqnt .always 2 0 5) (s0tile.setBytes (tileBase 0 5) [0x80, 0x7F]))) 2 3 = [0x40000000, 0x40800000, 0x40400000] := by decide +kernel

theorem witness_TileTransfer : RunsTiles s0tile st0 .always [0] ∧ Sized s0tile [0] ∧ (∀ line, s0tile.isPoisoned line = false) ∧ (let x := tileOf s0tile 0
    let va := st0.g 10 + st0.g 0 + (0 : BitVec 64)
    va.toNat % 64 = 0 ∧ va.toNat + cfgBytes x.cfg x.d ≤ spaceSize 3 ∧ va.toNat + x.d * x.rows * runBytes x.fmt x.cols ≤ spaceSize 3) :=
  ⟨tiles0 _ (by rfl) _ (by decide +kernel) (by rfl), by unfold Sized; decide +kernel, fun _ => by rfl, by decide +kernel⟩
/-- The planar layout of two complex elements: the real parts, then the imaginary parts. -/
theorem test_tst_planar : (let t := after (exec (.tstExtended .always 3 10 0 3 true (some 0)) s0tile)
    (List.range 5).map fun i => leNat (t.bytes (localBase 3 0 + 64 + 4 * i) 4)) = [0x3F800000, 0x40400000, 0, 0, 0x40000000] := by decide +kernel
theorem test_tld : tileWords (after (exec (.tld .always 2 10 0) (s0tile.setBytes (localBase 3 0 + 64) (words32 [1, 2, 3, 4])))) 2 4 = [1, 2, 3, 4] := by decide +kernel

/-- An algebra image of the dual numbers, d = 2 and e·e = 0, at byte 64 of lmem. -/
def s0alg : State := s0.setBytes (lmemBase 0 + 64) [2, 2, 0, 0, 0, 0, 0, 0, 8, 9, 9, 0]
theorem witness_AlgebraLoad : Runs s0alg st0 .always ∧ readSources st0 s0alg [10] none = .ok ([64], s0alg) ∧ s0alg.tilesInFlight 0 (3 : BitVec 3).toNat = false
    ∧ algOfImage (s0alg.bytes (lmemBase 0 + 64) 12) = some ⟨2, 2, [(0, 1), (1, 1), (1, 1), (0, 0)]⟩ ∧ 64 + 12 ≤ 98304 := ⟨⟨by rfl, by rfl⟩, by rfl, by decide +kernel, by decide +kernel, by decide⟩
/-- A strand of the cell holds an MMA that names slot 3. -/
theorem witness_AlgebraLoad_waits : (s0alg.setStrand 1 { st0 with mma := some ⟨tileBase 0 0, false, [], [3], [], 0, 9⟩ }).tilesInFlight 0 (3 : BitVec 3).toNat = true := by decide +kernel
theorem witness_AlgebraLoad_bad : algOfImage (s0.bytes (lmemBase 0 + 64) (8 + (s0.byte (lmemBase 0 + 64)).toNat * (s0.byte (lmemBase 0 + 64)).toNat)) = none := by decide +kernel
theorem test_talg : (((after (exec (.talg .always 3 10) s0alg)).cell 0).alg 3).d = 2 := by decide +kernel

theorem witness_MatrixMultiply : RunsTiles s0tile st0 .always [2, 0, 1] ∧ Sized s0tile [2, 0, 1] ∧ (let x := tileOf s0tile 0
    let y := tileOf s0tile 1
    let z := tileOf s0tile 2
    y.rows = x.cols ∧ z.rows = x.rows ∧ z.cols = y.cols ∧ x.alg = y.alg ∧ z.alg = (if x.alg = 0 then y.alg else x.alg) ∧ operandFmt x.fmt = true ∧ operandFmt y.fmt = true
    ∧ (if isIntFmt x.fmt && isIntFmt y.fmt then z.fmt = 9 else z.fmt ∈ [17, 18, 19]) ∧ (st0.g 10).toNat % 64 = 0 ∧ (st0.g 10).toNat + cfgBytes z.cfg z.d ≤ 65536) :=
  ⟨tiles0 _ (by rfl) _ (by decide +kernel) (by rfl), by unfold Sized; decide +kernel, by decide +kernel⟩
/-- The state while the product is under way. -/
def s0mma : State := after (exec (.mma .always false false false 2 0 1) s0tile)
theorem witness_MatrixMultiply_done : (s0mma.strand? 0).map (fun st => st.mma.map fun m => (m.cbuf, m.touched)) = some (some (false, [])) := by decide +kernel
theorem test_mma : tileWords (after (exec (.mmaCompletion 0) s0mma)) 2 4 = [0x3F800000, 0x40400000, 0x40400000, 0x40E00000] := by decide +kernel
theorem test_mma_pc : (s0mma.me?.map Strand.pc, (after (exec (.mmaCompletion 0) s0mma)).me?.map Strand.pc) = (some 0x30000, some 0x30004) := by decide +kernel


/-! ### Messages, tasks and synchronisation -/

/-- The small state with other launches in partition 0. -/
def s0launch (f : Launch → Launch) : State := s0.modPart 0 fun x => { x with launches := x.launches.map fun l => (l.1, f l.2) }
/-- A strand that may wait for messages, in a launch whose stage 0 takes ports, with a word on receive queue 2. -/
def stMsg : Strand := { st0 with msgb := true }
def s0msg : State :=
  let s := s0launch fun l => { l with desc := (l.desc.set 113 1).set 114 2 }
  (s.setCell 0 { s.cell 0 with ports := [(2, ⟨[9], [], some (0, 0, 0)⟩)] }).setMe stMsg
theorem witness_QueueInstructions_recvw : RunsWaiting s0msg stMsg .always ∧ stMsg.msgb = true ∧ readSources stMsg s0msg [] (some 10) = .ok ([], s0msg)
    ∧ s0msg.slotBind s0msg.actor stMsg = 2 ∧ s0msg.portMask stMsg = 4 := ⟨⟨by rfl, by rfl, by rfl⟩, by rfl, by rfl, by decide +kernel, by decide +kernel⟩
theorem witness_QueueInstructions_unbound : RunsWaiting s0 st0 .always ∧ st0.msgb = false := ⟨waiting0, by rfl⟩
/-- Device queue 7 of generation 3 with room for two values. -/
def s0dev (live : Bool) (vs : List (BitVec 64)) : State :=
  (s0.modPart 0 fun x => { x with queues := [(7, ⟨3, live, 2, 0, 0, vs⟩)] }).setMe (st0.setG 8 (deviceHandle 3 7))
theorem witness_QueueInstructions_deq : let s := s0dev true [6, 8]
    RunsWaiting s (st0.setG 8 (deviceHandle 3 7)) .always ∧ readSources (st0.setG 8 (deviceHandle 3 7)) s [8] (some 10) = .ok ([deviceHandle 3 7], s)
    ∧ s.part? 0 ≠ none ∧ (s.devq 0 7).gen = 3 ∧ (s.devq 0 7).live = true ∧ (s.devq 0 7).values = [6, 8] :=
  ⟨⟨by rfl, by rfl, by rfl⟩, by rfl, by decide +kernel, by rfl, by rfl, by rfl⟩
theorem witness_QueueInstructions_enq : let s := s0dev true [6]
    Runs s (st0.setG 8 (deviceHandle 3 7)) .always ∧ (st0.setG 8 (deviceHandle 3 7)).Settled ∧ readSources (st0.setG 8 (deviceHandle 3 7)) s [8, 9] none = .ok ([deviceHandle 3 7, 7], s)
    ∧ (s.devq 0 7).values.length < (s.devq 0 7).cap := ⟨⟨by rfl, by rfl⟩, ⟨by rfl, by rfl, by rfl⟩, by rfl, by decide +kernel⟩
theorem witness_QueueInstructions_dead : ((s0dev false []).devq 0 7).live = false := by rfl
/-- A strand of stage 0 whose queue to stage 1 holds four values at most. -/
def s0stage (st : Strand) (b : List Nat) (vs : List (BitVec 64)) : State :=
  ((s0launch fun l => { l with desc := b.foldl (fun d i => d.set (112 + i / 256) (BitVec.ofNat 8 i)) l.desc }).modCrew 0 0 0 fun c => { c with stageq := [(0, vs)] }).setMe st
def stSend : Strand := st0.setG 8 (stageHandle 0)
theorem witness_QueueInstructions_stage : let s := s0stage stSend [0x304] [1]
    Runs s stSend .always ∧ stSend.Settled ∧ readSources stSend s [8, 9] none = .ok ([stageHandle 0, 7], s) ∧ stSend.stage = 0
    ∧ (s.crew? 0 0 0).map (fun c => decide ((c.stageValues 0).length < s.stageDepth stSend 0)) = some true := ⟨⟨by rfl, by rfl⟩, ⟨by rfl, by rfl, by rfl⟩, by rfl, by rfl, by decide +kernel⟩
def stTake : Strand := { stMsg with stage := 1 }
theorem witness_QueueInstructions_take : let s := s0stage stTake [0x304, 0x501, 0x601] [1, 2]
    RunsWaiting s stTake .always ∧ readSources stTake s [] (some 10) = .ok ([], s) ∧ s.slotBind s.actor stTake = 1 ∧ stTake.stage ≠ 0
    ∧ (s.crew? 0 0 0).map (fun c => (c.takers, c.stageValues (stTake.stage - 1))) = some ([], [1, 2]) := ⟨⟨by rfl, by rfl, by rfl⟩, by rfl, by decide +kernel, by decide, by decide +kernel⟩
theorem test_recvw_ports : seenAfter (exec (.recvw .always 10) s0msg) 10 = some (4, 0x30004) := by decide +kernel
theorem test_recvw_stage : seenAfter (exec (.recvw .always 10) (s0stage stTake [0x304, 0x501, 0x601] [1, 2])) 10 = some (1, 0x30004) := by decide +kernel
theorem test_deq_empty : ((after (exec (.deq .always 10 8) (s0dev true []))).me?.bind Strand.wait).isSome = true := by decide +kernel
theorem test_enq_dead : (after (exec (.enq .always 8 9) (s0dev false []))).me?.map Strand.cause = some 0x0507 := by decide +kernel

/-- The partition has two clusters and the launch a crew on each; g8 is in cell 8's window. -/
def stMigr (cell : Nat) : Strand := st0.setG 8 (BitVec.ofNat 64 (0xFF * 2 ^ 48 + cell * 2 ^ 17))
def s0migr (cell : Nat) : State :=
  ((s0launch fun l => { l with crews := l.crews ++ [(1, { Crew.fresh with cluster := some 1, cells := [(8, 0, 0)], m := 1 })] }).modPart 0 fun x => { x with clusters := [0, 1] }).setMe (stMigr cell)
theorem witness_Migration : Runs (s0migr 8) (stMigr 8) .always ∧ (stMigr 8).Settled ∧ (s0migr 8).migrTarget (stMigr 8) ((stMigr 8).g 8) = .ok 1 ∧ (s0migr 8).clusterAt 0 1 = some 1
    ∧ ((s0migr 8).launch? 0 0).map (fun l => l.crews.any fun c => c.2.cluster == some 1) = some true ∧ (stMigr 8).depth = 0
    ∧ ((s0migr 8).cell (cellOf (s0migr 8).actor)).outstanding (slotOf (s0migr 8).actor) = [] ∧ 1 ≠ clusterOf (s0migr 8).actor :=
  ⟨⟨by rfl, by rfl⟩, ⟨by rfl, by rfl, by rfl⟩, by rfl, by decide +kernel, by decide +kernel, by rfl, by decide +kernel, by decide +kernel⟩
theorem witness_Migration_home : (s0migr 1).migrTarget (stMigr 1) ((stMigr 1).g 8) = .ok 0 ∧ (s0migr 1).clusterAt 0 0 = some (clusterOf (s0migr 1).actor) := ⟨by rfl, by decide +kernel⟩
theorem test_migr_home : (after (exec (.migr .always 8) (s0migr 1))).me?.map Strand.pc = some 0x30004 := by decide +kernel
theorem test_migr_leaves : (let t := after (exec (.migr .always 8) (s0migr 8))
    (t.me?.isNone, (t.cluster 1).migrants.map fun m => (m.1, m.2.pc))) = (true, [(false, 0x30004)]) := by decide +kernel

/-- A record of launch 0 at 50000H. -/
def recordBytes : List (BitVec 8) := leBytes 0x30010 8 ++ List.replicate 120 0
def stSpawn : Strand := { st0 with stk := [(0, 0x50000), (1, 0)] }
def s0spawn : State := (s0.setBytes 0x50000 (leBytes 0x30010 8)).setMe stSpawn
theorem witness_TaskInstructions_spawn : Runs s0spawn stSpawn .always ∧ stSpawn.Settled ∧ readSources stSpawn s0spawn [8, 9] none = .ok ([0x50000, 0], s0spawn)
    ∧ s0spawn.cellAt 0 (0 : BitVec 64).toNat = some 0 ∧ (∀ line, s0spawn.isPoisoned line = false)
    ∧ s0spawn.reach stSpawn .read 0x50000 = .ok (gotSpot (s0spawn.reach stSpawn .read 0x50000)) ∧ (gotSpot (s0spawn.reach stSpawn .read 0x50000)).cls = 0
    ∧ (gotSpot (s0spawn.reach stSpawn .read 0x50000)).mt = 0 ∧ (gotSpot (s0spawn.reach stSpawn .read 0x50000)).loc ≠ 2 ∧ overWindow (0x50000 : BitVec 64) 128 = false
    ∧ s0spawn.bytes (gotSpot (s0spawn.reach stSpawn .read 0x50000)).flat 128 = recordBytes ∧ recLaunch recordBytes = 0 ∧ recNmax recordBytes = 0
    ∧ ((s0spawn.launch? 0 0).bind fun l => l.windowOn 0) = some (0, 0, 0) ∧ (s0spawn.cell 0).runq.length < 32 :=
  ⟨⟨by rfl, by rfl⟩, ⟨by rfl, by rfl, by rfl⟩, by rfl, by decide +kernel, fun _ => by rfl, by rfl, by decide +kernel, by decide +kernel, by decide +kernel, by decide, by decide +kernel, by decide +kernel,
    by decide +kernel, by decide +kernel, by decide +kernel⟩
theorem witness_TaskInstructions_elsewhere : s0spawn.cellAt 0 3 = some 3 ∧ ((s0spawn.launch? 0 0).bind fun l => l.windowOn 3) = none := by decide +kernel
/-- A codelet block at byte 256 of lmem, whose record counts two predecessors. -/
def stCdec : Strand := st0.setG 8 0x00FF000000000100
def s0cdec (n : Nat) : State := (s0.setBytes (lmemBase 0 + 256) (leBytes n 8)).setMe stCdec
theorem witness_TaskInstructions_cdec : Runs (s0cdec 2) stCdec .always ∧ stCdec.Settled ∧ readSources stCdec (s0cdec 2) [8] none = .ok ([0x00FF000000000100], s0cdec 2)
    ∧ (s0cdec 2).codeletAt 0 0x00FF000000000100 = some (0, 256) ∧ (s0cdec 2).isPoisoned (lineOf (lmemBase 0 + 256)) = false :=
  ⟨⟨by rfl, by rfl⟩, ⟨by rfl, by rfl, by rfl⟩, by rfl, by decide +kernel, by rfl⟩
theorem witness_TaskInstructions_taskget : readSources st0 s0 [] (some 10) = .ok ([], s0) ∧ (s0.launch? 0 0).map (fun l => decide (0 < l.nCrews * l.nCells * l.nSlots ∧ l.remaining = 0)) = some true
    ∧ ((s0launch fun l => { l with remaining := 9 }).launch? 0 0).map (fun l => decide (0 < l.nCrews * l.nCells * l.nSlots ∧ 0 < l.remaining)) = some true := ⟨by rfl, by decide +kernel, by decide +kernel⟩
theorem test_spawn : (let t := after (exec (.spawn .always 2 8 9) s0spawn)
    (t.me?.map fun u => u.p 2, (t.cell 0).runq.length)) = (some 0xFFFF, 1) := by decide +kernel
theorem test_cdec_pushes : (let t := after (exec (.cdec .always 8) (s0cdec 1))
    (leNat (t.bytes (lmemBase 0 + 256) 8), (t.cell 0).ring.length)) = (0, 1) := by decide +kernel
theorem test_cdec_counts : (let t := after (exec (.cdec .always 8) (s0cdec 2))
    (leNat (t.bytes (lmemBase 0 + 256) 8), (t.cell 0).ring.length)) = (1, 0) := by decide +kernel
theorem test_taskget : seenAfter (exec (.taskget .always 10) (s0launch fun l => { l with next := 4, remaining := 9 })) 10 = some (4 + 9 * 2 ^ 32, 0x30004) := by decide +kernel

theorem witness_BarrierAndDependence_opens : RunsWaiting s0 st0 .always ∧ st0.Settled ∧ (∀ ph, (st0.wait.map Wait.kind) ≠ some (.bar ph))
    ∧ (s0.crew? 0 0 0).map (fun c => decide (c.a + 1 = c.m)) = some true := ⟨waiting0, settled0, fun ph => (show (none : Option WaitKind) ≠ some (WaitKind.bar ph) from nofun), by decide +kernel⟩
/-- The crew has three strands. -/
def s0three : State := s0.modCrew 0 0 0 fun c => { c with m := 3 }
theorem witness_BarrierAndDependence_waits : (s0three.crew? 0 0 0).map (fun c => decide (c.a + 1 < c.m)) = some true := by decide +kernel
theorem witness_BarrierAndDependence_preds : ∀ e ∈ s0.predsOf st0, s0.predRuns 0 e = false := by decide +kernel
theorem witness_BarrierAndDependence_kept : (s0.crew? 0 0 0).map Crew.phase = some 0 ∧ RunsWaiting (s0with fun u => { u with arrived := some 0 }) { st0 with arrived := some 0 } .always
    ∧ st0.arrived = none := ⟨by decide +kernel, ⟨by rfl, by rfl, by rfl⟩, by rfl⟩
theorem witness_BarrierAndDependence_codelet : let s := s0with fun u => { u with cdl := true }
    WaitRow (.bar .always) .always [] none ∧ Runs s { st0 with cdl := true } .always ∧ s.portTrap { st0 with cdl := true } [] none = none
    ∧ WaitRow (.recvw .always 28) .always [] (some 28) ∧ (s.portTrap { st0 with cdl := true } [] (some 28)).isSome = true
    ∧ readSources { st0 with cdl := true } s [8] (some 10) = .ok ([5], s) := ⟨.bar _, ⟨by rfl, by rfl⟩, by rfl, .recvw .., by decide +kernel, by rfl⟩
/-- A strand that had arrived before it was saved waits on without arriving again. -/
theorem test_bar_kept : (let t := after (exec (.bar .always) (s0three.setMe { st0 with arrived := some 0 }))
    (t.me?.map Strand.pc, (t.crew? 0 0 0).map fun c => (c.a, c.phase))) = (some 0x30000, some (0, 0)) := by decide +kernel
theorem test_bar_opens : (let t := after (exec (.bar .always) s0)
    (t.me?.map Strand.pc, (t.crew? 0 0 0).map fun c => (c.a, c.phase))) = (some 0x30004, some (0, 1)) := by decide +kernel
theorem test_bar_waits : (let t := after (exec (.bar .always) s0three)
    (t.me?.map Strand.pc, (t.crew? 0 0 0).map fun c => (c.a, c.phase))) = (some 0x30000, some (1, 0)) := by decide +kernel

/-- Semaphore 5 of the cluster holds n. -/
def s0sem (n : Nat) : State := s0.setCluster 0 { s0.cluster 0 with sems := [(5, n)] }
theorem witness_Semaphores : RunsWaiting (s0sem 7) st0 .always ∧ readSources st0 (s0sem 7) [8, 9] none = .ok ([5, 7], s0sem 7) ∧ (7 : BitVec 64).toNat % 2 ^ 32 ≠ 0
    ∧ ((s0sem 7).cluster 0).semWaiters = [] ∧ 7 ≤ ((s0sem 7).cluster 0).sem 5 ∧ ((s0sem 6).cluster 0).sem 5 < 7 := ⟨⟨by rfl, by rfl, by rfl⟩, by rfl, by decide, by rfl, by decide +kernel, by decide +kernel⟩
theorem witness_Semaphores_zero : readSources (st0.setG 9 0) (s0sem 7) [8, 9] none = .ok ([5, 0], s0sem 7) := by rfl
theorem test_semw_waits : (let t := after (exec (.semw .always 8 9) (s0sem 6))
    (t.me?.map Strand.pc, (t.cluster 0).sem 5, (t.cluster 0).semWaiters)) = (some 0x30000, 6, [⟨5, .slot 0, 0, 7⟩]) := by decide +kernel
theorem test_sems_saturates : ((after (exec (.sems .always 8 9) (s0sem (2 ^ 32 - 3)))).cluster 0).sem 5 = 2 ^ 32 - 1 := by decide +kernel

/-- The strand in slot 0 owns tags 0 and 3; tag 3 has become READY again, tag 0 has not. -/
def s0tag : State := s0.setCell 0 { s0.cell 0 with tagReady := 0xFFFFFFFFFFFFFFFE, tagOwner := [(0, 1), (3, 1)], tagSlot := [(0, 0), (3, 0)] }
theorem witness_Tags : let s := s0tag.setMe (st0.setG 8 8)
    RunsWaiting s (st0.setG 8 8) .always ∧ readSources (st0.setG 8 8) s [8] none = .ok ([8], s) ∧ (∀ t, t < 64 → (8 : BitVec 64).getLsbD t = true → (s.cell 0).ownsTag 0 t = true)
    ∧ tagsReady true (s.cell 0) 8 ∧ (∃ t, t < 64 ∧ (5 : BitVec 64).getLsbD t = true ∧ (s.cell 0).ownsTag 0 t = false) :=
  ⟨⟨by rfl, by rfl, by rfl⟩, by rfl, by decide +kernel, .inr (show ∀ t, t < 64 → (8 : BitVec 64).getLsbD t = true → ((s0tag.setMe (st0.setG 8 8)).cell 0).tagReady.getLsbD t = true by decide +kernel), 2, by decide +kernel⟩
theorem witness_Tags_codelet : let s := s0tag.setMe { st0.setG 8 8 with cdl := true }
    Runs s { st0.setG 8 8 with cdl := true } .always ∧ readSources { st0.setG 8 8 with cdl := true } s [8] none = .ok ([8], s) := ⟨⟨by rfl, by rfl⟩, by rfl⟩
theorem test_tagw_owner_first : (after (exec (.tagwAllLiteral .always 4) (s0tag.setMe { st0 with cdl := true }))).me?.map Strand.cause = some 0x0107 := by decide +kernel
theorem witness_Tags_tagf : readSources st0 s0tag [] (some 10) = .ok ([], s0tag) ∧ (let c := s0tag.cell 0
    (c.ownsTag 0 3 && c.tagReady.getLsbD 3 && NMap.get? c.tagSlot 3 == some 0) = true ∧ ∀ j, j < 3 → (c.ownsTag 0 j && c.tagReady.getLsbD j && NMap.get? c.tagSlot j == some 0) = false) := ⟨by rfl, by decide +kernel⟩
theorem witness_Tags_none : (s0.cell 0).outstanding 0 = [] ∧ ∀ i, i < 64 → ((s0.cell 0).ownsTag 0 i && (s0.cell 0).tagReady.getLsbD i && NMap.get? (s0.cell 0).tagSlot i == some 0) = false := by decide +kernel
theorem test_tagf : seenAfter (exec (.tagf .always 10) s0tag) 10 = some (3, 0x30004) := by decide +kernel
theorem test_tagw_any : (after (exec (.tagwAnyLiteral .always 9) s0tag)).me?.map Strand.pc = some 0x3000C := by decide +kernel
theorem test_tagw_all : (after (exec (.tagwAllLiteral .always 9) s0tag)).me?.map Strand.pc = some 0x30000 := by decide +kernel


/-! ### Traps and system instructions -/

theorem witness_TrapBreaks : Runs s0 st0 .always ∧ st0.drained = true ∧ st0.hm = false ∧ s0.vectorOf st0 ≠ 0 := ⟨runs0, by rfl, by rfl, by decide +kernel⟩
theorem witness_TrapBreaks_false : s0.me? = some st0 ∧ st0.allows ⟨true, 1⟩ = false := ⟨me0, by decide +kernel⟩
theorem test_trap : (after (exec (.trap .always 7) s0)).me?.map (fun u => (u.pc, u.epc, u.cause, u.hm)) = some (0x40000, 0x30004, 0x070F, true) := by decide +kernel
theorem test_trap_false : (after (exec (.trap ⟨true, 0⟩ 7) s0)).me?.map (fun u => (u.pc, u.hm)) = some (0x30004, false) := by decide +kernel

/-- The strand in a handler. -/
def stHandler : Strand := { st0 with hm := true, epc := 0x30020, cause := 0x070F }
theorem witness_TrapEntry : s0.strand? 0 = some st0 ∧ st0.drained = true ∧ st0.hm = false ∧ s0.vectorOf st0 ≠ 0 := ⟨me0, by rfl, by rfl, by decide +kernel⟩
theorem witness_TrapEntry_nested : (s0.setMe stHandler).strand? 0 = some stHandler ∧ stHandler.drained = true ∧ stHandler.hm = true ∧ ((s0.setMe stHandler).part? stHandler.part).isSome = true :=
  ⟨by rfl, by rfl, by rfl, by decide +kernel⟩
/-- The record of a trap in a handler: EPC, the strand's identifiers with HANDLER_NEST and the cause, the address, the cell. -/
theorem test_trap_nested_record : ((after (exec (.trap .always 7) (s0.setMe stHandler))).part? 0).map (fun x => x.errs.map fun r => (field r 0 8, field r 8 2, field r 16 8)) = some [(0x30004, 0x0F0D, 0)] := by decide +kernel
theorem witness_TrapEntry_waits : (s0.setMe stBusy).strand? 0 = some stBusy ∧ stBusy.drained = false := ⟨by rfl, by rfl⟩
theorem test_trap_nested : (let t := after (exec (.trap .always 7) (s0.setMe stHandler))
    (t.me?.isNone, ((t.part? 0).map fun x => x.errs.length))) = (true, some 1) := by decide +kernel
theorem witness_ReturnFromTrap : Runs (s0.setMe stHandler) stHandler .always ∧ stHandler.hm = true ∧ Runs s0 st0 .always ∧ st0.hm = false := ⟨⟨by rfl, by rfl⟩, by rfl, runs0, by rfl⟩
theorem test_eret : (after (exec (.eret .always) (s0.setMe stHandler))).me?.map (fun u => (u.pc, u.hm, u.cause)) = some (0x30020, false, 0x070F) := by decide +kernel
theorem test_eret_outside : (after (exec (.eret .always) s0)).me?.map Strand.cause = some 0x0807 := by decide +kernel

theorem witness_ControlRegisters : s0.me? = some st0 ∧ readSources st0 s0 [] (some 10) = .ok ([], s0) ∧ (0x11 : BitVec 8).toNat ≤ 0x11 ∧ st0.Settled
    ∧ readSources st0 s0 [8] none = .ok ([5], s0) ∧ 0x11 < (0x12 : BitVec 8).toNat ∧ st0.depth < 2 ^ 16 ∧ st0.recs.length ≤ 8 := ⟨me0, by rfl, by decide, settled0, by rfl, by decide, by decide +kernel, by decide +kernel⟩
theorem test_sysw_status : (after (exec (.sysw 8 0) (s0with fun u => u.setG 8 0xFFFFFFFFFFFFFFFF))).me?.map (fun u => (u.statusWord, u.rm, u.hm)) = some (0x030E, 3, false) := by decide +kernel
theorem witness_ControlRegisters_region : (s0.setMe stDeep).me? = some stDeep ∧ stDeep.Settled ∧ ¬ ((written stDeep 9 5).carveSize = 0 ∧ (written stDeep 9 5).log2sz = 0)
    ∧ (written st0 9 5).carveSize = 0 ∧ (written st0 9 5).log2sz = 0 := ⟨by rfl, ⟨by rfl, by rfl, by rfl⟩, by decide +kernel, by decide +kernel, by decide +kernel⟩
/-- Table 1-6: WDEPTH 2, RM 1, MSGB, FTZ, PRIV; Table 1-7: COUNT 0, NMAX and NCAP 1, EPS 1234H, CDROP 56H. -/
theorem test_sysr_status : seenAfter (exec (.sysr 10 0) (s0with fun u => { u with depth := 2, rm := 1, msgb := true, ftz := true, nmax := 0 })) 10 = some (0x0002000000001106, 0x30004) := by decide +kernel
theorem test_sysr_ivctl : seenAfter (exec (.sysr 10 5) (s0with fun u => { u with eps := 0x1234, cdrop := 0x56, nmax := 1, ncap := 1 })) 10 = some (0x1234560500000000, 0x30004) := by decide +kernel
theorem test_sysr_cycle : seenAfter (exec (.sysr 10 0x10) { s0 with clock := 77 }) 10 = some (77, 0x30004) := by decide +kernel

/-- The strand without privilege. -/
def stUser : Strand := { st0 with priv := false }
theorem witness_PrivilegeTrap : PrivRow (.tlbiAll .always) .always ∧ Runs (s0.setMe stUser) stUser .always ∧ stUser.priv = false := ⟨.tlbiAll _, ⟨by rfl, by rfl⟩, by rfl⟩
theorem test_privilege : (after (exec (.tlbiAll .always) (s0.setMe stUser))).me?.map (fun u => (u.cause, u.epc)) = some (0x0707, 0x30000) := by decide +kernel

/-- g9 is 50000H, where a class table lies. -/
def stStab : Strand := st0.setG 9 0x50000
def s0stab (e : Nat) : State := (s0.setBytes 0x50000 (leBytes e 2)).setMe stStab
theorem witness_TablesAndTranslations : RunsPriv (s0stab 0x301) stStab .always ∧ stStab.Settled ∧ readSources stStab (s0stab 0x301) [8, 9] none = .ok ([5, 0x50000], s0stab 0x301)
    ∧ (0x50000 : Nat) % 64 = 0 ∧ (0x50000 : Nat) % 2 ^ 16 + 512 ≤ 2 ^ 16 ∧ (∀ line, (s0stab 0x301).isPoisoned line = false)
    ∧ (s0stab 0x301).reach stStab .read 0x50000 = .ok (gotSpot ((s0stab 0x301).reach stStab .read 0x50000))
    ∧ (let x := gotSpot ((s0stab 0x301).reach stStab .read 0x50000)
      x.cls = 0 ∧ x.mt = 0 ∧ x.loc = 0 ∧ ∀ i, i < 256 → field ((s0stab 0x301).bytes x.flat 512) (2 * i) 2 < 2 ^ 10) ∧ overWindow (0x50000 : BitVec 64) 512 = false :=
  ⟨⟨by rfl, by rfl, by rfl⟩, ⟨by rfl, by rfl, by rfl⟩, by rfl, by decide, by decide, fun _ => by rfl, by rfl, by decide +kernel, by decide⟩
theorem witness_TablesAndTranslations_bad : ∃ i, i < 256 ∧ 2 ^ 10 ≤ field ((s0stab 0x400).bytes (gotSpot ((s0stab 0x400).reach stStab .read 0x50000)).flat 512) (2 * i) 2 := ⟨0, by decide +kernel⟩
theorem witness_TablesAndTranslations_tlbi : RunsPriv s0 st0 .always ∧ st0.Settled ∧ readSources st0 s0 [11] none = .ok ([0x50000], s0) ∧ (0x50000 : BitVec 64).toNat < 2 ^ 56
    ∧ s0.usesPages 0 (s0.pagesOf 0 0x50000) = false ∧ s0.parkedIn 0 (s0.framesOf 0 0x50000) = false := ⟨⟨me0, by rfl, by rfl⟩, settled0, by rfl, by decide, by decide +kernel, by decide +kernel⟩
theorem witness_TablesAndTranslations_all : (∀ n ∈ s0.slots, n.2.part = st0.part → (∀ x ∈ n.2.window, x.translated = false) ∧ n.2.wcbuf = none) ∧ s0.parkedIn st0.part [(0, deviceEnd)] = false := by decide +kernel
/-- An access parked on a line of the page holds TLBI back. -/
theorem test_tlbi_parked : (after (exec (.tlbi .always 11) { s0 with parked := [⟨0x1400, 14, .hart 3, 0, 3⟩] })).me?.map (fun u => (u.pc, u.wait.isSome)) = some (0x30000, true) := by decide +kernel
theorem test_stab : (after (exec (.stab .always 8 9) (s0stab 0x301))).tumbler 0 5 0 0 = 0x301 := by decide +kernel
theorem test_stab_bad : (after (exec (.stab .always 8 9) (s0stab 0x400))).me?.map (fun u => (u.cause, u.faddr)) = some (0x0A07, 0x50000) := by decide +kernel
theorem test_tlbi : ((after (exec (.tlbi .always 11) (s0.setCluster 0 { s0.cluster 0 with tlb := [⟨0, 2, 0, 0x1F⟩, ⟨0, 2, 1, 0x1F⟩] }))).cluster 0).tlb = [⟨0, 2, 1, 0x1F⟩] := by decide +kernel

theorem witness_ContextMoves_preempt : RunsPriv s0 st0 .always ∧ (∀ n u, (st0.wait.map Wait.kind) ≠ some (.preempt n u)) ∧ readSources st0 s0 [8] none = .ok ([5], s0)
    ∧ s0.cellAt 0 ((5 : BitVec 64).toNat / 16) = some 0 ∧ 0 * 16 + (5 : BitVec 64).toNat % 16 ≠ s0.actor ∧ s0.strand? 5 = none :=
  ⟨⟨me0, by rfl, by rfl⟩, fun n u => (show (none : Option WaitKind) ≠ some (WaitKind.preempt n u) from nofun), by rfl, by decide +kernel, by decide +kernel, by decide +kernel⟩
/-- Another strand stands in slot 5. -/
def s0other : State := s0.setStrand 5 { st0 with uid := 9, index := 5 }
theorem witness_ContextMoves_preempt_busy : s0other.strand? 5 = some { st0 with uid := 9, index := 5 } ∧ readSources st0 s0other [8] none = .ok ([5], s0other) ∧ st0.preReq = none := ⟨by rfl, by rfl, by rfl⟩
def stPre : Strand := { st0 with wait := some ⟨.preempt 5 9, 0⟩ }
theorem witness_ContextMoves_preempt_done : RunsPriv (s0.setMe stPre) stPre .always ∧ (stPre.wait.map Wait.kind) = some (.preempt 5 9) ∧ (s0.setMe stPre).strand? 5 = none :=
  ⟨⟨by rfl, by rfl, by rfl⟩, by rfl, by decide +kernel⟩
/-- A saved context in entry 2 of the cache, and an area at 60000H. -/
def ctx0 : Ctx :=
  { strand := { st0 with uid := 9, tfirst := 0, tcount := 0 }, reason := 1, waitCode := 0, slot := 5, pcn := 0, wline := 0, phase := 0, tileCfg := [], tiles := [], source := 2, order := 4, arrival := none }
def stCtx : Strand := st0.setG 8 0x60200
def s0ctx : State := (s0.setCluster 0 { s0.cluster 0 with ctxs := [(2, ctx0)] }).setMe stCtx
theorem witness_ContextMoves_ctxsave : RunsPriv s0ctx stCtx .always ∧ stCtx.Settled ∧ readSources stCtx s0ctx [8] none = .ok ([0x60200], s0ctx) ∧ contextOperand 0x60200 = .ok (0x60000, 2)
    ∧ NMap.get? (s0ctx.cluster 0).ctxs 2 = some ctx0 ∧ (s0ctx.areaSpots stCtx 0x60000).2 = .ok () ∧ s0ctx.firstBar 0 15 (s0ctx.areaSpots stCtx 0x60000).1 = none :=
  ⟨⟨by rfl, by rfl, by rfl⟩, ⟨by rfl, by rfl, by rfl⟩, by rfl, by rfl, by rfl, by rfl, by decide +kernel⟩
theorem witness_ContextMoves_sound : s0ctx.poisonIn (s0ctx.areaSpots stCtx 0x60000).1 = none ∧ pagesType (s0ctx.areaSpots stCtx 0x60000).1 ≠ 4
    ∧ s0ctx.anyRelease 0 15 (s0ctx.areaSpots stCtx 0x60000).1 = false ∧ s0ctx.owes stCtx.origin = false := ⟨by decide +kernel, by decide +kernel, by decide +kernel, by rfl⟩

/-- The image of a context of launch 0 at 60000H: p0, its version, 20 resident entries, and zeros. -/
def s0image : State := ((((s0.setByte 0x60058 0xFF).setByte 0x60059 0xFF).setByte 0x60200 1).setByte 0x60206 20).setMe stCtx
/-- The context of which that is the image. -/
def ctxz : Ctx := { strand := Strand.zero, reason := 0, waitCode := 0, slot := 0, pcn := 0, wline := 0, phase := 0, tileCfg := [], tiles := [], source := 2, order := 4, arrival := none }
/-- What the launch keeps: nothing, that context, one that software has changed, and one of another strand. -/
def kept4 : Fin 4 → List Away
  | 0 => []
  | 1 => [⟨ctxz, none⟩]
  | 2 => [⟨{ ctxz with reason := 1 }, none⟩]
  | 3 => [⟨{ ctxz with strand := { Strand.zero with index := 3 } }, none⟩]
/-- The image in memory, and what the launch keeps. -/
def s0kept (a : Fin 4) : State := s0image.modLaunch 0 0 fun l => { l with away := kept4 a }
theorem each4 {P : Fin 4 → Prop} (h0 : P 0) (h1 : P 1) (h2 : P 2) (h3 : P 3) (a : Fin 4) : P a := by
  match a with
  | 0 => exact h0
  | 1 => exact h1
  | 2 => exact h2
  | 3 => exact h3
theorem Mem.get_above (m : List Host.Cell) (a : Nat) (h : ∀ p ∈ m, p.1 < a) : Mem.get m a = 0 := by
  induction m with
  | nil => rfl
  | cons p r ih =>
    obtain ⟨k, c⟩ := p
    have hk := h (k, c) (by simp)
    rw [Mem.get, if_neg (by simpa using Nat.ne_of_gt hk)]
    exact ih fun q hq => h q (by simp [hq])
theorem image_zero (a : Nat) (h : 0x60210 ≤ a) : s0image.byte a = 0 := by
  have hu : s0image.unk = [] := by rfl
  have hm : ∀ p ∈ s0image.mem, p.1 < 0x60210 := by decide +kernel
  rw [State.byte, hu]
  exact Mem.get_above _ _ fun p hp => Nat.lt_of_lt_of_le (hm p hp) h
theorem zeros_from (f : Nat → BitVec 8) (k n : Nat) (h : ∀ i, k ≤ i → f i = 0) (hk : k ≤ n) : (List.range n).map f = (List.range k).map f ++ List.replicate (n - k) 0#8 := by
  apply List.ext_getElem
  · simp; omega
  · intro i _ _
    simp only [List.getElem_map, List.getElem_range, List.getElem_append, List.length_map, List.length_range, List.getElem_replicate]
    split
    · rfl
    · exact h i (by omega)
theorem field_low (hd z : List (BitVec 8)) (o n : Nat) (h : o + n ≤ hd.length) : field (hd ++ z) o n = field hd o n := by
  rw [field, field, List.drop_append_of_le_length (by omega), List.take_append_of_le_length (by simp; omega)]
theorem zeroRange_low (hd z : List (BitVec 8)) (o n : Nat) (h : o + n ≤ hd.length) : zeroRange (hd ++ z) o n = zeroRange hd o n := by
  rw [zeroRange, zeroRange, List.drop_append_of_le_length (by omega), List.take_append_of_le_length (by simp; omega)]
theorem leNat_zeros (n : Nat) : leNat (List.replicate n 0#8) = 0 := by
  induction n with
  | zero => rfl
  | succ n ih => simp [List.replicate_succ, leNat, ih]
theorem drop_high (hd : List (BitVec 8)) (m o : Nat) (h : hd.length ≤ o) : (hd ++ List.replicate m 0#8).drop o = List.replicate (m - (o - hd.length)) 0#8 := by
  rw [List.drop_append, List.drop_eq_nil_of_le h, List.nil_append, List.drop_replicate]
theorem field_high (hd : List (BitVec 8)) (m o n : Nat) (h : hd.length ≤ o) : field (hd ++ List.replicate m 0#8) o n = 0 := by
  rw [field, drop_high _ _ _ h, List.take_replicate, leNat_zeros]
theorem zeroRange_high (hd : List (BitVec 8)) (m o n : Nat) (h : hd.length ≤ o) : zeroRange (hd ++ List.replicate m 0#8) o n = true := by
  rw [zeroRange, drop_high _ _ _ h, List.take_replicate]; simp
/-- The first bytes of the image. -/
def imageHead : List (BitVec 8) := (List.range 0x210).map fun i => s0image.byte (0x60000 + i)
/-- The two spots of the image. -/
def keptSpot (a : Fin 4) (va : BitVec 64) : Spot := gotSpot ((s0kept a).reach stCtx .read va)
theorem kept_spots (a : Fin 4) : ((s0kept a).wideSpots stCtx 0 0x60000 131072).1 = [⟨0x60000, keptSpot a 0x60000, 65536⟩, ⟨0x70000, keptSpot a 0x70000, 65536⟩] :=
  each4 (P := fun a => ((s0kept a).wideSpots stCtx 0 0x60000 131072).1 = [⟨0x60000, keptSpot a 0x60000, 65536⟩, ⟨0x70000, keptSpot a 0x70000, 65536⟩])
    (by rfl) (by rfl) (by rfl) (by rfl) a
theorem kept_spot : ∀ a : Fin 4, (keptSpot a 0x60000 = ⟨0x60000, 0, 0, false, 0, 0, 0⟩) ∧ keptSpot a 0x70000 = ⟨0x70000, 0, 0, false, 0, 0, 0⟩ := by decide +kernel
theorem kept_same (a : Fin 4) : (s0kept a).mem = s0image.mem ∧ (s0kept a).unk = s0image.unk :=
  each4 (P := fun a => (s0kept a).mem = s0image.mem ∧ (s0kept a).unk = s0image.unk) ⟨by rfl, by rfl⟩ ⟨by rfl, by rfl⟩ ⟨by rfl, by rfl⟩ ⟨by rfl, by rfl⟩ a
theorem kept_page (a : Fin 4) (p : Piece) (h : p.spot.mt = 0) : (s0kept a).pieceBytes none p = s0image.pieceBytes none p := by
  simp only [State.pieceBytes, State.loadBytes, h]
  refine List.map_congr_left fun i _ => ?_
  simp [State.loadByte, heldByte, State.byte, (kept_same a).1, (kept_same a).2]
theorem image_bytes (a : Fin 4) : (((s0kept a).wideSpots stCtx 0 0x60000 131072).1.flatMap ((s0kept a).pieceBytes none)) = imageHead ++ List.replicate (131072 - 0x210) 0#8 := by
  have h1 : (s0kept a).pieceBytes none ⟨0x60000, keptSpot a 0x60000, 65536⟩ = (List.range 65536).map fun i => s0image.byte (0x60000 + i) := by
    rw [kept_page a _ (congrArg Spot.mt (kept_spot a).1), (kept_spot a).1]; rfl
  have h2 : (s0kept a).pieceBytes none ⟨0x70000, keptSpot a 0x70000, 65536⟩ = (List.range 65536).map fun i => s0image.byte (0x70000 + i) := by
    rw [kept_page a _ (congrArg Spot.mt (kept_spot a).2), (kept_spot a).2]; rfl
  rw [kept_spots, List.flatMap_cons, List.flatMap_cons, List.flatMap_nil, List.append_nil, h1, h2,
    zeros_from _ 0x210 65536 (fun i h => image_zero _ (by omega)) (by omega), zeros_from (fun i => s0image.byte (0x70000 + i)) 0 65536 (fun i _ => image_zero _ (by omega)) (by omega)]
  simp only [List.range_zero, List.map_nil, List.nil_append, List.append_assoc, List.replicate_append_replicate, imageHead]
theorem image_good : contextBad (imageHead ++ List.replicate (131072 - 0x210) 0#8) = false := by
  have hl : imageHead.length = 0x210 := by simp [imageHead]
  generalize 131072 - 0x210 = m
  have low (o n : Nat) (h : o + n ≤ 0x210) : field (imageHead ++ List.replicate m 0#8) o n = field imageHead o n := field_low _ _ _ _ (by omega)
  have high (o n : Nat) (h : 0x210 ≤ o) : field (imageHead ++ List.replicate m 0#8) o n = 0 := field_high _ _ _ _ (by omega)
  have zlow (o n : Nat) (h : o + n ≤ 0x210) : zeroRange (imageHead ++ List.replicate m 0#8) o n = zeroRange imageHead o n := zeroRange_low _ _ _ _ (by omega)
  have zhigh (o n : Nat) (h : 0x210 ≤ o) : zeroRange (imageHead ++ List.replicate m 0#8) o n = true := zeroRange_high _ _ _ _ (by omega)
  have f1 : field imageHead 0x200 1 = 1 := by decide +kernel
  have f2 : field imageHead 0x206 1 = 20 := by decide +kernel
  have f3 : field imageHead 0x208 8 = 0 := by decide +kernel
  have f4 : field imageHead 0x201 1 = 0 ∧ field imageHead 0x202 1 = 0 ∧ field imageHead 0x203 1 = 0 ∧ field imageHead 0x204 1 = 0 ∧ field imageHead 0x205 1 = 0 ∧ field imageHead 0x207 1 = 0
      ∧ field imageHead 120 8 = 0 ∧ field imageHead 118 2 = 0 := by decide +kernel
  have z1 : zeroRange imageHead 0x80 32 = true ∧ zeroRange imageHead 0xA0 256 = true ∧ zeroRange imageHead 0x1A0 96 = true := by decide +kernel
  obtain ⟨a1, a2, a3, a4, a5, a6, a7, a8⟩ := f4
  obtain ⟨b1, b2, b3⟩ := z1
  simp only [contextBad, recNmax, recCount, recLaunch, low 0x200 1 (by omega), low 0x201 1 (by omega), low 0x202 1 (by omega), low 0x203 1 (by omega), low 0x204 1 (by omega), low 0x205 1 (by omega),
    low 0x206 1 (by omega), low 0x207 1 (by omega), low 0x208 8 (by omega), low 120 8 (by omega), low 118 2 (by omega), high 0x210 8 (by omega), high 0x218 8 (by omega), high 0x220 2 (by omega),
    high 0x2C8 8 (by omega), f1, f2, f3, a1, a2, a3, a4, a5, a6, a7, a8, zlow 0x80 32 (by omega), zlow 0x1A0 96 (by omega), b1, b3, zhigh 0x224 28 (by omega), zhigh 0x2F0 272 (by omega), zhigh 0x580 640 (by omega),
    zhigh 0x5080 12160 (by omega), zhigh 0x18000 32768 (by omega), residentCount]
  have z2 := zlow 0xA0 256 (by omega)
  simp [z2, b2]
  exact ⟨⟨⟨⟨⟨zhigh _ _ (by omega), fun x _ => zhigh _ _ (by omega)⟩, fun x _ => ⟨zhigh _ _ (by omega), zhigh _ _ (by omega)⟩⟩, zhigh _ _ (by omega)⟩, zhigh _ _ (by omega)⟩, zhigh _ _ (by omega)⟩
/-- The bytes of the image that CTXLOAD reads. -/
def imageOf (a : Fin 4) : List (BitVec 8) := ((s0kept a).wideSpots stCtx 0 0x60000 131072).1.flatMap ((s0kept a).pieceBytes none)
theorem launch_image (a : Fin 4) : ((s0kept a).launch? 0 (recLaunch (imageOf a))).map Launch.away = some (kept4 a) := by
  rw [imageOf, image_bytes, recLaunch, field_low _ _ _ _ (by simp [imageHead]), show field imageHead 118 2 = 0 by decide +kernel]
  exact each4 (P := fun a => ((s0kept a).launch? 0 0).map Launch.away = some (kept4 a)) (by rfl) (by rfl) (by rfl) (by rfl) a
theorem witness_ContextMoves_ctxload (a : Fin 4) : RunsPriv (s0kept a) stCtx .always ∧ stCtx.Settled ∧ readSources stCtx (s0kept a) [8] none = .ok ([0x60200], s0kept a)
    ∧ NMap.get? ((s0kept a).cluster 0).ctxs 2 = none ∧ ((s0kept a).wideSpots stCtx 0 0x60000 131072).2 = .ok ()
    ∧ (∀ p ∈ ((s0kept a).wideSpots stCtx 0 0x60000 131072).1, p.spot.cls = 0 ∧ p.spot.mt = 0 ∧ p.spot.flat + p.len ≤ peerBase)
    ∧ (∀ line, (s0kept a).isPoisoned line = false) ∧ contextBad (imageOf a) = false ∧ ∃ l, (s0kept a).launch? 0 (recLaunch (imageOf a)) = some l ∧ l.away = kept4 a := by
  refine ⟨⟨by rfl, by rfl, by rfl⟩, ⟨by rfl, by rfl, by rfl⟩, by rfl, by rfl, ?_, ?_, fun _ => by rfl, by rw [imageOf, image_bytes]; exact image_good, ?_⟩
  · exact each4 (P := fun a => ((s0kept a).wideSpots stCtx 0 0x60000 131072).2 = .ok ()) (by rfl) (by rfl) (by rfl) (by rfl) a
  · rw [kept_spots, (kept_spot a).1, (kept_spot a).2]
    decide +kernel
  · exact Option.map_eq_some_iff.mp (launch_image a)
theorem flatMap_zeros (l : List Nat) (n : Nat) : (l.flatMap fun _ => zeros n) = zeros (l.length * n) := by
  induction l with
  | nil => simp [zeros]
  | cons x r ih => rw [List.flatMap_cons, ih, zeros, zeros, zeros, List.replicate_append_replicate, List.length_cons, Nat.succ_mul, Nat.add_comm]
theorem image_ctxz : ctxz.image = imageHead ++ List.replicate (131072 - 0x210) 0#8 := by
  have pad (n : Nat) : padTo n [] = zeros n := by simp [padTo, zeros]
  have h : ctxz.image = (ctxz.strand.recordBytes ++ zeros 32 ++ padTo 256 [] ++ zeros 96 ++ ctxz.header
      ++ ((List.range 17).flatMap fun i => wordOf (ctxz.strand.g (BitVec.ofNat 5 (11 + i)))) ++ leBytes 0 8 ++ wordOf 0 ++ wordOf 0 ++ leBytes 0 8 ++ wordOf 0) ++ zeros 272
      ++ padTo 384 ((List.range 20).flatMap fun i => wordOf (ctxz.strand.entry i)) ++ zeros 640 ++ ((List.range 64).flatMap fun _ => zeros 256) ++ padTo 2048 [] ++ padTo 128 [] ++ zeros 12160
      ++ padTo 65536 [] ++ zeros 32768 := by rfl
  rw [h, pad, pad, pad, pad, show padTo 384 ((List.range 20).flatMap fun i => wordOf (ctxz.strand.entry i)) = zeros 384 by decide +kernel, flatMap_zeros,
    show ctxz.strand.recordBytes ++ zeros 32 ++ zeros 256 ++ zeros 96 ++ ctxz.header
      ++ ((List.range 17).flatMap fun i => wordOf (ctxz.strand.g (BitVec.ofNat 5 (11 + i)))) ++ leBytes 0 8 ++ wordOf 0 ++ wordOf 0 ++ leBytes 0 8 ++ wordOf 0 = imageHead ++ zeros 224 by decide +kernel]
  simp only [zeros, List.append_assoc, List.replicate_append_replicate, List.length_range, Nat.reduceAdd, Nat.reduceMul, Nat.reduceSub]
  rfl
/-- An image as CTXSAVE wrote it, one that software has changed, and one of another strand. -/
theorem witness_ContextMoves_ctxload_kept : (ctxz.names (Ctx.ofImage (imageOf 0) 0 0 0) && ctxz.image == imageOf 0) = true
    ∧ (let y := { ctxz with reason := 1 }; (y.names (Ctx.ofImage (imageOf 0) 0 0 0) && y.image == imageOf 0) = false ∧ y.names (Ctx.ofImage (imageOf 0) 0 0 0) = true)
    ∧ Ctx.names { ctxz with strand := { Strand.zero with index := 3 } } (Ctx.ofImage (imageOf 0) 0 0 0) = false := by
  have hi : imageOf 0 = imageHead ++ List.replicate (131072 - 0x210) 0#8 := image_bytes 0
  have hn (y : Ctx) : y.names (Ctx.ofImage (imageOf 0) 0 0 0) = (y.strand.crew == 0 && y.strand.index == 0) := by
    have h1 (bs : List (BitVec 8)) : (Ctx.ofImage bs 0 0 0).strand.crew = field bs 117 1 := by rfl
    have h2 (bs : List (BitVec 8)) : (Ctx.ofImage bs 0 0 0).strand.index = field bs 116 1 := by rfl
    rw [Ctx.names, h1, h2, hi, field_low _ _ _ _ (by simp [imageHead]), field_low _ _ _ _ (by simp [imageHead]), show field imageHead 117 1 = 0 by decide +kernel,
      show field imageHead 116 1 = 0 by decide +kernel]
  refine ⟨?_, ⟨?_, ?_⟩, ?_⟩
  · rw [hn, hi, image_ctxz, beq_self_eq_true]; rfl
  · have hne : Ctx.image { ctxz with reason := 1 } ≠ imageOf 0 := by
      intro h
      have h' := congrArg (List.take 0x210) h
      rw [hi, List.take_append_of_le_length (by simp [imageHead])] at h'
      revert h'
      decide +kernel
    simp [hne]
  · rw [hn]; rfl
  · rw [hn]; rfl
theorem test_preempt : (let t := after (exec (.preempt .always 8) s0other)
    (((t.strand? 5).bind Strand.preReq).map PreReq.reason, (t.me?.bind Strand.wait).map Wait.kind)) = (some 0, some (.preempt 5 9)) := by decide +kernel
theorem test_ctxsave_none : (after (exec (.ctxsave .always 8) (s0.setMe stCtx))).me?.map Strand.cause = some 0x0B07 := by decide +kernel


/-! ### Memory, atomic and staged instructions -/

/-- The check of an address is passed by the spot it gives. -/
theorem witness_LoadResult : LoadRow (.ldD 9 11 8) .always 1 9 [11] ((8 : BitVec 12).signExtend 64) 0 8 0 ∧ Runs s0 st0 .always ∧ readSources st0 s0 [11] (some 9) = .ok ([0x50000], s0)
    ∧ s0.locate st0 .read 0 (total [0x50000] ((8 : BitVec 12).signExtend 64)) 8 = .ok (gotSpot (s0.locate st0 .read 0 (total [0x50000] ((8 : BitVec 12).signExtend 64)) 8))
    ∧ Serves s0 st0 (gotSpot (s0.locate st0 .read 0 (total [0x50000] ((8 : BitVec 12).signExtend 64)) 8))
    ∧ (gotSpot (s0.locate st0 .read 0 (total [0x50000] ((8 : BitVec 12).signExtend 64)) 8)).mt ≠ 5 ∧ qRelaxed (0 : BitVec 4) = false :=
  ⟨.ldD .., runs0, by rfl, by rfl, ⟨settled0, by rfl, by rfl, fun h => absurd h (by decide +kernel)⟩, by decide +kernel, by decide⟩
theorem witness_LoadResult_port : (28 : Reg) ∈ [(28 : Reg), 11] ∧ [(28 : Reg), 11].any isPort = true := by decide
theorem witness_StoreResult : StoreRow (.stW 9 11 (-4)) .always 1 9 [11] ((-4 : BitVec 12).signExtend 64) 0 4 0 ∧ readSources st0 s0 ([11] ++ [9]) none = .ok ([0x50000, 7], s0)
    ∧ s0.locate st0 .write 0 (total [0x50000] ((-4 : BitVec 12).signExtend 64)) 4 = .ok (gotSpot (s0.locate st0 .write 0 0x4FFFC 4)) ∧ Serves s0 st0 (gotSpot (s0.locate st0 .write 0 0x4FFFC 4))
    ∧ (gotSpot (s0.locate st0 .write 0 0x4FFFC 4)).mt ≠ 5 ∧ (gotSpot (s0.locate st0 .write 0 0x4FFFC 4)).mt ≠ 2 ∧ s0.owes st0.origin = false := ⟨.stW .., by rfl, by rfl, ⟨settled0, by rfl, by rfl, fun h => absurd h (by decide +kernel)⟩, by decide +kernel, by decide +kernel, by rfl⟩
theorem witness_StoreResult_combining : readSources st0 s0 ([16] ++ [9]) none = .ok ([0x100000000, 7], s0) ∧ s0.locate st0 .write 0 0x100000000 8 = .ok (gotSpot (s0.locate st0 .write 0 0x100000000 8))
    ∧ Serves s0 st0 (gotSpot (s0.locate st0 .write 0 0x100000000 8)) ∧ (gotSpot (s0.locate st0 .write 0 0x100000000 8)).mt = 2 := ⟨by rfl, by rfl, ⟨settled0, by rfl, by rfl, fun h => absurd h (by decide +kernel)⟩, by decide +kernel⟩
theorem test_ld_sext : seenAfter (exec (.ldW 9 11 0) (s0.setBytes 0x50000 [0, 0, 0, 0x80])) 9 = some (0xFFFFFFFF80000000, 0x30004) := by decide +kernel
theorem test_st_word : (after (exec (.stW 11 11 (-4)) (s0.setBytes 0x50000 [9]))).bytes 0x4FFFC 5 = [0, 0, 5, 0, 9] := by decide +kernel
theorem test_st_combining : (let t := after (exec (.stD 9 16 0) s0)
    (t.bytes 0x100000000 1, (t.me?.bind Strand.wcbuf).map fun b => b.line)) = ([0], some 0x4000000) := by decide +kernel

theorem witness_RelaxedAccess : LoadRow (.ldExtended .always true 9 11 0 0 1 none) .always 3 9 [11, 0] 0 0 8 1 ∧ qRelaxed (1 : BitVec 4) = true ∧ ([(9 : Reg), 11, 0].any isPort) = false
    ∧ readSources st0 s0 [11, 0] (some 9) = .ok ([0x50000, 0], s0) ∧ s0.locate st0 .read 0 0x50000 8 = .ok (gotSpot (s0.locate st0 .read 0 0x50000 8))
    ∧ (gotSpot (s0.locate st0 .read 0 0x50000 8)).cls = 0 ∧ (gotSpot (s0.locate st0 .read 0 0x50000 8)).mt = 0 := ⟨.ldExtended .., by decide, by decide, by rfl, by rfl, by decide +kernel, by decide +kernel⟩
/-- A relaxed load of 50000H and a relaxed store of g9 to it, in flight. -/
def s0relaxed (store : Bool) : State :=
  let s := s0.setBytes 0x50000 [0x44]
  if store then after (exec (.stExtended .always true 9 11 0 0 1 none) s) else after (exec (.ldExtended .always true 9 11 0 0 1 none) s)
theorem witness_RelaxedAccess_load : ((s0relaxed false).strand? 0).bind (fun st => st.window[0]?.map fun x => decide (x.store = false ∧ x.whole = true ∧ x.parts = [(0x50000, 0, [])] ∧ x.got = [] ∧ x.dest = .reg 9 false ∧ mayPerform st.window 0 x = true ∧ x.release = false ∧ (s0relaxed false).loadPoison st.wcbuf 0 x.memType 0x50000 x.width = false ∧ st.inLanes = false))
    = some true := by decide +kernel
theorem witness_RelaxedAccess_store : ((s0relaxed true).strand? 0).bind (fun st => st.window[0]?.map fun x => decide (x.store = true ∧ x.whole = true ∧ x.parts = [(0x50000, 0, leBytes 7 8)] ∧ mayPerform st.window 0 x = true ∧ x.release = false ∧ (s0relaxed true).noStore 0x50000 = false ∧ st.inLanes = false))
    = some true := by decide +kernel
theorem test_relaxed_load : seenAfter (exec (.loadPerformed (.slot 0) 0) (s0relaxed false)) 9 = some (0x44, 0x3000C) := by decide +kernel
theorem test_relaxed_store : (let t := after (exec (.storePerformed (.slot 0) 0) (s0relaxed true))
    ((s0relaxed true).bytes 0x50000 1, t.bytes 0x50000 2)) = ([0x44], [7, 0]) := by decide +kernel

theorem witness_Misaligned : readSources st0 s0 [15] (some 9) = .ok ([0x50001], s0) ∧ (total [0x50001] 0).toNat % 8 ≠ 0 ∧ readSources st0 s0 ([15] ++ [9]) none = .ok ([0x50001, 7], s0)
    ∧ AmoRow .amoAdd .amoAddExtended (fun x y => x + y) ∧ readSources st0 s0 [15, 9] (some 10) = .ok ([0x50001, 7], s0) ∧ (0x50001 : BitVec 64).toNat % bytesOf false ≠ 0 :=
  ⟨by rfl, by decide, by rfl, .add, by rfl, by decide⟩
theorem witness_Misaligned_atomic : readSources st0 s0 [15, 9, 8] none = .ok ([0x50001, 7, 5], s0) ∧ readSources st0 s0 [15] (some 10) = .ok ([0x50001], s0)
    ∧ SldRow (.sld .always 1 9 15 0) .always 1 9 15 0 1 false 0 0 ∧ readSources st0 s0 [15, 0] (some 9) = .ok ([0x50001, 0], s0) ∧ SstRow (.sst .always 1 9 15 0) .always 1 9 15 0 1 false 0 0
    ∧ readSources st0 s0 [15, 0, 9] none = .ok ([0x50001, 0, 7], s0) ∧ readSources st0 s0 [15, 0, 9] (some 10) = .ok ([0x50001, 0, 7], s0) ∧ ((0x50001 : BitVec 64) + 0 + 0).toNat % bytesOf (!false) ≠ 0 :=
  ⟨by rfl, by rfl, .sld .., by rfl, .sst .., by rfl, by rfl, by decide⟩
theorem test_cas_misaligned : (after (exec (.cas .always true 8 15 9) s0)).me?.map (fun u => (u.cause, u.faddr, u.g 8)) = some (0x0005, 0x50001, 5) := by decide +kernel
theorem test_misaligned : (after (exec (.ldD 9 15 0) s0)).me?.map (fun u => (u.cause, u.faddr, u.g 9)) = some (0x0005, 0x50001, 7) := by decide +kernel

theorem witness_AtomicUpdate : readSources st0 s0 [11, 9] (some 10) = .ok ([0x50000, 7], s0) ∧ s0.locate st0 .rmw 0 0x50000 8 = .ok (gotSpot (s0.locate st0 .rmw 0 0x50000 8))
    ∧ Serves s0 st0 (gotSpot (s0.locate st0 .rmw 0 0x50000 8)) ∧ (gotSpot (s0.locate st0 .rmw 0 0x50000 8)).mt ≠ 5 ∧ s0.owes st0.origin = false :=
  ⟨by rfl, by rfl, ⟨settled0, by rfl, by rfl, fun h => absurd h (by decide +kernel)⟩, by decide +kernel, by rfl⟩
theorem witness_AtomicUpdate_cas : readSources st0 s0 [11, 9, 8] none = .ok ([0x50000, 7, 5], s0) ∧ seen true (datum s0 (gotSpot (s0.locate st0 .rmw 0 0x50000 8)).flat 8) ≠ seen true 5
    ∧ (gotSpot (s0.locate st0 .rmw 0 0x50000 8)).mt ≠ 1 ∧ readSources st0 (s0.setBytes 0x50000 [5]) [11, 9, 8] none = .ok ([0x50000, 7, 5], s0.setBytes 0x50000 [5])
    ∧ seen true (datum (s0.setBytes 0x50000 [5]) (gotSpot (s0.locate st0 .rmw 0 0x50000 8)).flat 8) = seen true 5 := ⟨by rfl, by decide +kernel, by decide +kernel, by rfl, by decide +kernel⟩
theorem test_amo_max : (let t := after (exec (.amoMax .always false 10 11 9) (s0.setBytes 0x50000 [0, 0, 0, 0x80]))
    (t.me?.map fun u => u.g 10, t.bytes 0x50000 4)) = (some 0xFFFFFFFF80000000, [7, 0, 0, 0]) := by decide +kernel
theorem test_cas_fails : (let t := after (exec (.cas .always true 8 11 9) (s0.setBytes 0x50000 [4]))
    (t.me?.map fun u => u.g 8, t.bytes 0x50000 1)) = (some 4, [4]) := by decide +kernel
theorem test_cas_stores : (let t := after (exec (.cas .always true 8 11 9) (s0.setBytes 0x50000 [5]))
    (t.me?.map fun u => u.g 8, t.bytes 0x50000 1)) = (some 5, [7]) := by decide +kernel

/-- The strand holds a reservation of the eight bytes at 50000H. -/
def s0resv (lost : Bool) : State := { s0 with resv := [⟨0, 0, 0, 0, 0x1400, 0x50000, 8, 0, lost, 0⟩] }
theorem witness_Reservations_lr : readSources st0 s0 [11] (some 10) = .ok ([0x50000], s0) ∧ s0.locate st0 .rmw 0 0x50000 8 = .ok (gotSpot (s0.locate st0 .rmw 0 0x50000 8))
    ∧ Serves s0 st0 (gotSpot (s0.locate st0 .rmw 0 0x50000 8)) ∧ (gotSpot (s0.locate st0 .rmw 0 0x50000 8)).mt ∉ [1, 3, 5] := ⟨by rfl, by rfl, ⟨settled0, by rfl, by rfl, fun h => absurd h (by decide +kernel)⟩, by decide +kernel⟩
theorem witness_Reservations_sc : readSources st0 (s0resv false) [11, 9] (some 10) = .ok ([0x50000, 7], s0resv false)
    ∧ (s0resv false).reservation st0 = some ⟨0, 0, 0, 0, 0x1400, 0x50000, 8, 0, false, 0⟩ ∧ (s0resv false).locate st0 .rmw 0 0x50000 8 = .ok (gotSpot ((s0resv false).locate st0 .rmw 0 0x50000 8))
    ∧ lineOf (gotSpot ((s0resv false).locate st0 .rmw 0 0x50000 8)).flat = 0x1400 ∧ (s0resv false).owes st0.origin = false := ⟨by rfl, by decide +kernel, by rfl, by decide +kernel, by rfl⟩
theorem witness_Reservations_lost : (s0resv true).reservation st0 = some ⟨0, 0, 0, 0, 0x1400, 0x50000, 8, 0, true, 0⟩ ∧ RunsWaiting (s0resv true) st0 .always ∧ readSources st0 (s0resv true) [8] (some 10) = .ok ([5], s0resv true) :=
  ⟨by decide +kernel, ⟨by rfl, by rfl, by rfl⟩, by rfl⟩
theorem witness_Reservations_waitrs : s0.reservation st0 = none ∧ ((s0resv false).reservation st0).map Reservation.isLost = some false ∧ st0.wait = none
    ∧ readSources st0 (s0resv false) [0] (some 10) = .ok ([0], s0resv false) ∧ (0 : BitVec 64).toNat % 2 ^ 32 = 0 := ⟨by decide +kernel, by decide +kernel, by rfl, by rfl, by decide⟩
/-- The wait has begun, and its time is up. -/
def stWaitrs : Strand := { st0 with wait := some ⟨.waitrs 5, 0⟩ }
theorem witness_Reservations_timeout : ({ s0resv false with clock := 9 }.setMe stWaitrs).me? = some stWaitrs ∧ (stWaitrs.wait = some ⟨.waitrs 5, 0⟩ ∧ stWaitrs.Settled)
    ∧ 0 + (5 : BitVec 64).toNat % 2 ^ 32 ≤ ({ s0resv false with clock := 9 } : State).clock := ⟨by rfl, ⟨by rfl, by rfl, by rfl, by rfl⟩, by decide +kernel⟩
theorem test_waitrs_timeout : seenAfter (exec (.waitrs .always 10 8) ({ s0resv false with clock := 9 }.setMe stWaitrs)) 10 = some (1, 0x30004) := by decide +kernel
/-- The answer of WAITRS drops the cluster's copy of a reserved read-mostly line. -/
theorem test_waitrs_copy : ((after (exec (.waitrs .always 10 8) (State.setCluster { s0 with resv := [⟨0, 0, 0, 0, 0x1400, 0x50000, 8, 0, true, 1⟩] } 0
    { s0.cluster 0 with copies := [(0x1400, 9), (0x1401, 9)] }))).cluster 0).copies = [(0x1401, 9)] := by decide +kernel
theorem test_sc : (let t := after (exec (.sc .always true 10 11 9) (s0resv false))
    (t.me?.map fun u => u.g 10, t.bytes 0x50000 1, t.resv)) = (some 0, [7], []) := by decide +kernel
theorem test_sc_lost : (let t := after (exec (.sc .always true 10 11 9) (s0resv true))
    (t.me?.map fun u => u.g 10, t.bytes 0x50000 1, t.resv)) = (some 1, [0], []) := by decide +kernel
theorem test_waitrs_none : seenAfter (exec (.waitrs .always 10 8) s0) 10 = some (2, 0x30004) := by decide +kernel
theorem test_other_store_loses : (let t := after (exec (.stD 9 11 8) (s0resv false))
    ((t.reservation st0).map Reservation.isLost)) = some true := by decide +kernel

theorem witness_FencesAndCopies : Runs s0 st0 .always ∧ st0.Settled ∧ readSources st0 s0 [11, 9] none = .ok ([0x50000, 7], s0) ∧ readSources st0 s0 [11, 16] none = .ok ([0x50000, 0x100000000], s0)
    ∧ 2 ^ 30 ≤ (0x100000000 : BitVec 64).toNat := ⟨runs0, settled0, by rfl, by rfl, by decide⟩
theorem witness_FencesAndCopies_waits : Runs (s0.setMe stBusy) stBusy .always ∧ ∃ x ∈ stBusy.window, (if x.store then (2 : BitVec 5).getLsbD 1 else (2 : BitVec 5).getLsbD 0) = true :=
  ⟨⟨by rfl, by rfl⟩, by decide +kernel⟩
/-- A store of the strand is on its way to host memory. -/
def s0out : State := { s0 with outbound := [⟨[hostBase], st0.origin⟩] }
theorem witness_FencesAndCopies_system : (4 : BitVec 4) = 4 ∧ (3 : BitVec 5).getLsbD 0 = true ∧ s0out.owes st0.origin = true ∧ s0.owes st0.origin = false := by decide +kernel
theorem test_fence_system : ((after (exec (.fence .always 4 3) s0out)).me?.map fun u => (u.pc, u.wait.map Wait.kind), (after (exec (.fence .always 3 3) s0out)).me?.map Strand.pc) = (some (0x30000, some .acks), some 0x30004) := by
  decide +kernel
/-- GiB 5 is read-mostly, and the cluster holds copies of its first two lines. -/
def s0copies : State := (s0.setBytes 0x20028 (leBytes 0x14000003F 8)).setCluster 0 { s0.cluster 0 with copies := [(0x5000000, 0), (0x5000001, 0)] }
theorem witness_FencesAndCopies_range : (match s0copies.lookup 0 0 false 0x140000000 with | .leaf l e => decide (leafType e = 1 ∧ lineOf (s0copies.leafFlat 0 l e 0x140000000) = 0x5000000) | _ => false) = true := by decide +kernel
theorem test_cinv_range : ((after (exec (.cinv .always 8 9) (s0copies.setMe ((st0.setG 8 0x140000000).setG 9 64)))).cluster 0).copies = [(0x5000001, 0)] := by decide +kernel
theorem test_fence_waits : (after (exec (.fence .always 3 2) (s0.setMe stBusy))).me?.map Strand.pc = some 0x30000 := by decide +kernel
theorem test_cinv_all : ((after (exec (.cinvAll .always) (s0.setCluster 0 { s0.cluster 0 with copies := [(5, 9)] }))).cluster 0).copies = [] := by decide +kernel

/-- The spots of lines of class 0, 1, 2 and 3, by the register that holds the address. -/
def spotAt (r : Reg) : Spot := gotSpot (s0.locate st0 .rmw 0 (st0.g r) 8)
theorem witness_StagedAccess_spots : s0.locate st0 .rmw 0 (st0.g 11) 8 = .ok (spotAt 11) ∧ s0.locate st0 .rmw 0 (st0.g 12) 8 = .ok (spotAt 12)
    ∧ s0.locate st0 .rmw 0 (st0.g 13) 8 = .ok (spotAt 13) ∧ s0.locate st0 .rmw 0 (st0.g 14) 8 = .ok (spotAt 14) := ⟨by rfl, by rfl, by rfl, by rfl⟩
theorem witness_StagedAccess : [spotAt 11, spotAt 12, spotAt 13, spotAt 14].map (fun x => (x.cls, x.mt, s0.noStore x.flat)) = [(0, 0, false), (1, 0, false), (2, 0, false), (3, 0, false)] ∧ s0.owes st0.origin = false := by decide +kernel
/-- The verdict and the access of an entry. -/
def entryOf (r : Reg) (t : Nat) : Verdict × Nat := (verdictOf (s0.entryAt 0 (spotAt r).cls (lineOf (spotAt r).flat) t), accessOf (s0.entryAt 0 (spotAt r).cls (lineOf (spotAt r).flat) t))
theorem witness_StagedAccess_entries : entryOf 12 0 = (.allow, 2) ∧ (entryOf 12 1).1 = .park ∧ entryOf 14 0 = (.allow, 3) ∧ (entryOf 13 9).1 = .fault := by decide +kernel
/-- Of class 3, transition 2 allows a read only, and transition 3 nothing of the datum. -/
def s0access (e : BitVec 16) : State := s0.modPart 0 fun x => { x with tables := [(3, [e])] }
theorem witness_StagedAccess_access : [0x0001, 0x0101, 0x0201, 0x0301].map (fun e => let s := s0access e
    (verdictOf (s.entryAt 0 3 (lineOf (spotAt 14).flat) 0), accessOf (s.entryAt 0 3 (lineOf (spotAt 14).flat) 0))) = [(.allow, 0), (.allow, 1), (.allow, 2), (.allow, 3)] := by decide +kernel
/-- SST with ACCESS read moves the line and stores nothing; SAMO with ACCESS write stores C. -/
theorem test_staged_access : (let t := after (exec (.sst .always 0 9 14 0) (s0access 0x0101))
    let u := after (exec (.samo .always 0 10 14 0 0 false 0 9 none) (s0access 0x0201))
    (t.lineState 0x3000000, t.bytes 0xC0000000 1, u.lineState 0x3000000, u.bytes 0xC0000000 1)) = (1, [0], 1, [7]) := by decide +kernel
theorem witness_StagedAccess_registers : (9 : Reg).toNat < 28 ∧ (12 : Reg).toNat < 28 ∧ SldRow (.sld .always 0 9 12 0) .always 0 9 12 0 1 false 0 0 ∧ SstRow (.sst .always 0 9 12 0) .always 0 9 12 0 1 false 0 0
    ∧ st0.Settled ∧ st0.cdl = false ∧ s0.parkCount (here s0) < 256 := ⟨by decide, by decide, .sld .., .sst .., settled0, by rfl, by decide +kernel⟩
/-- Class 1 is full/empty: an SST by transition 0 fills an empty line. -/
theorem test_sst_fills : (let t := after (exec (.sst .always 0 9 12 0) s0)
    (t.lineState 0x1000000, t.bytes 0x40000000 1, t.me?.map Strand.pc)) = (1, [7], some 0x30004) := by decide +kernel
theorem test_sld_parks : (let t := after (exec (.sld .always 1 9 12 0) s0)
    (t.parked.length, t.me?.map Strand.pc, t.me?.map Strand.cause)) = (1, some 0x30000, some 0) := by decide +kernel
theorem test_staged_fault : (after (exec (.sld .always 9 9 13 0) s0)).me?.map (fun u => (u.cause, u.faddr)) = some (0x0008, 0x80000000) := by decide +kernel
theorem test_transition_on_class0 : (after (exec (.sld .always 1 9 11 0) s0)).me?.map (fun u => (u.cause, u.faddr)) = some (0x0208, 0x50000) := by decide +kernel


/-! ### Guards and frames -/

theorem witness_FalseGuard : GuardRow (.add ⟨true, 0⟩ 10 8 9) ⟨true, 0⟩ ∧ s0.me? = some st0 ∧ st0.allows ⟨true, 0⟩ = false := ⟨.add .., me0, by decide +kernel⟩
theorem witness_FalseGuard_lanes : LaneGuardRow (.vadd ⟨true, 0⟩ 3 1 2) ⟨true, 0⟩ ∧ st0.mask ⟨true, 0⟩ = 0 := ⟨.vadd .., by decide +kernel⟩
theorem test_false_load : seenAfter (exec (.ldExtended ⟨true, 0⟩ true 9 15 0 0 0 (some 1)) s0) 9 = some (7, 0x30014) := by decide +kernel
theorem test_false_lanes : lanesAfter (exec (.vaddExtended ⟨true, 1⟩ 1 1 1 18) (s0with fun u => u.setP 1 0xFFFF)) 1 = some (0x40000000, 0x3F800000) := by decide +kernel

theorem witness_RegisterFrame : PlainRow (.sel .always false 1 10 8 9) [10] [] [] false ∧ exec (.sel .always false 1 10 8 9) s0 = .next (after (exec (.sel .always false 1 10 8 9) s0)) := ⟨.sel .., by rfl⟩
theorem freeCtx0 : (freeEntry (s0.cluster (clusterOf s0.actor)).ctxs).isSome = true := by decide +kernel
theorem offSpill_of_free {s : State} {a : Nat} (h : (freeEntry (s.cluster (clusterOf s.actor)).ctxs).isSome = true) : OffSpill s a :=
  fun _ _ _ h0 => by rw [h0] at h; cases h
theorem witness_AccessFrame_quiet : QuietRow (.vld .always 1 10 0) [] [] [1] kept ∧ s0.me? = some st0 ∧ exec (.vld .always 1 10 0) s0 = .next (after (exec (.vld .always 1 10 0) s0))
    ∧ OffBuffer st0 0x50000 ∧ OffSpill s0 0x50000 := ⟨.vld .., me0, by rfl, fun _ (h : (none : Option WcBuf) = some _) => (nomatch h), offSpill_of_free freeCtx0⟩
theorem witness_AccessFrame_storing : StoringRow (.tmov .always 2 0) [] false kept ∧ StoresTo s0tile st0 (.tmov .always 2 0) (image s0tile 2) 4096 ∧ WritesConfig (.tmov .always 2 0) 2
    ∧ exec (.tmov .always 2 0) s0tile = .next (after (exec (.tmov .always 2 0) s0tile)) := ⟨.tmov .., .tile (.tmov ..), .tmov .., next_of (by decide +kernel)⟩
theorem witness_AccessFrame_places : StoresTo s0 st0 (.vst .always 1 10 0) (lmemBase 0 + 68) 4 ∧ StoresTo s0 st0 (.tst .always 2 10 0) (abufBase 0 + 64) (transferBytes (tileOf s0 2) false) := by
  have h1 : readSources st0 s0 [10, 0] none [1] = .ok ([64, 0], s0) := by rfl
  have h2 : readSources st0 s0 [10, 0] none = .ok ([64, 0], s0) := by rfl
  exact ⟨.vst 1 (by decide +kernel) h1, .tst h2⟩
/-- The first entry of the stack of a strand two calls deep is spilled to the carve by a call of one slot. -/
theorem witness_AccessFrame_spill : StoresTo (s0.setMe stDeep) stDeep (.call .always 0 4) (lmemBase 0) 8 :=
  .spill (st1 := stDeep) (j := 0) (va := 0) (spot := Spot.local (lmemBase 0)) (.call ..) (by rfl) (by decide +kernel) (by rfl)
theorem witness_AccessFrame : AccessRow (.stD 9 11 0) [] ∧ s0.me? = some st0 ∧ exec (.stD 9 11 0) s0 = .next (after (exec (.stD 9 11 0) s0)) := ⟨.store (.stD ..), me0, by rfl⟩
theorem witness_AccessFrame_place : StoresAt s0 st0 (.stD 9 11 0) 0x50000 8 ∧ StoresAt s0 st0 (.casExtended .always false 8 11 9 0 0) 0x50000 4 := by
  have h1 : readSources st0 s0 ([11] ++ [9]) none = .ok ([0x50000, 7], s0) := by rfl
  have h2 : Finds s0 st0 .write 0 (total [0x50000] ((0 : BitVec 12).signExtend 64)) 8 (gotSpot (s0.locate st0 .write 0 0x50000 8)) := ⟨true, false, by rfl⟩
  have h3 : readSources st0 s0 [11, 9, 8] none = .ok ([0x50000, 7, 5], s0) := by rfl
  have h4 : Finds s0 st0 .rmw 0 0x50000 (bytesOf false) (gotSpot (s0.locate st0 .rmw 0 0x50000 4)) := ⟨true, false, by rfl⟩
  exact ⟨.store (.stD 9 11 0) h1 h2, .casExtended h3 h4⟩

/-! ### Encoding and the step -/

theorem witness_DecodesItsEncoding : (Instr.ldExtended .always true 9 4 5 1 3 none).encodable = true ∧ (Instr.ldExtended .always true 9 4 5 1 3 none).wf = true := by decide
theorem witness_DecodingIsExact : decodeList [0x035A9204, 7] = .ok (.add ⟨false, 3⟩ 9 10 11, [7]) := by rfl
/-- One ill-formed term for each check, with the name it is refused by (R68, R70 and the instruction entries). -/
theorem test_illformed : [(Instr.addWLiteral .always 9 10 0x100000000).check, (Instr.shlLiteral .always true 9 10 32).check, (Instr.ext 9 10 60 5).check, (Instr.ins 28 10 0 0).check,
    (Instr.cmpLtLiteral .always true 2 8 0x100000000).check, (Instr.jmp .always 2).check, (Instr.loop 0 1).check, (Instr.stD 28 8 0).check, (Instr.ldExtended .always true 9 8 9 2 0 none).check,
    (Instr.ldExtended .always true 9 8 9 0 7 none).check, (Instr.stExtended .always true 9 8 9 0 3 none).check, (Instr.amoAddExtended .always true 9 8 9 0 2).check, (Instr.fence .always 5 1).check,
    (Instr.fence .always 0 0).check, (Instr.sldExtended .always 0 9 8 0 false 3 none).check, (Instr.samo .always 0 9 8 0 7 false 0 10 none).check, (Instr.vaddExtended .always 1 2 3 9).check,
    (Instr.vcvt .always 1 2 19 19 2 0).check, (Instr.vcmpFeqExtended .always 1 2 3 19 true).check, (Instr.vldExtended .always 1 8 0 0 0 none).check, (Instr.tldExtended .always 1 8 0 5 false none).check,
    (Instr.tstExtended .always 1 8 0 2 false none).check, (Instr.mma .always false false false 1 1 2).check, (Instr.tsca .always 1 2 2).check, (Instr.talg .always 0 8).check,
    (Instr.boxvExtended .always 1 2 8 3).check, (Instr.recvw .always 28).check, (Instr.copy .always 8 9 10 ⟨false, false, false, 2, 0, 0, 0, 5, 0, 0, 0, 0, 0⟩ none).check,
    (Instr.getx .always 8 9 10 ⟨false, false, true, 0, 0, 0, 0, 5, 0, 0, 0, 0, 0⟩ none).check, (Instr.putx .always 8 9 10 ⟨false, false, false, 0, 0, 0, 0, 5, 1, 0, 0, 0, 0⟩).check,
    (Instr.coll .always 8 ⟨false, false, false, 1, 0, 0, 0, 5, 0, 0, 0, 0, 0⟩).check, (Instr.xreqLayout .always 2 8 8).check, (Instr.sysr 9 0x12).check, (Instr.sysw 29 0).check].all Option.isSome = true := by
  decide +kernel
/-- Words no instruction has: an unassigned major, a reserved field, an unassigned function. -/
theorem test_illegal_words : [decodeList [0x000001FC], decodeList [0x00080000], decodeList [0xC0000004], decodeList [0x00000000 + 0x01]].all (fun r => match r with | .error _ => true | .ok _ => false) = true := by decide +kernel

/-- The strand holds a NOP it has issued. -/
def stNop : Strand := { st0 with held := some (.nop .always) }
theorem witness_NopEncoding : (s0.setMe stNop).me? = some stNop ∧ stNop.wait = none ∧ stNop.held = some (.nop .always) := ⟨by rfl, by rfl, by rfl⟩
/-- A word of OP 0 with D 9 at the PC. -/
def s0word (w : Nat) : State := s0.setBytes 0x30000 (leBytes w 4)
theorem witness_NopEncoding_illegal : (s0word 0x1200).strand? 0 = some st0 ∧ st0.firstTrap = none ∧ (s0word 0x1200).fetchWords 0 st0 = .ok (⟨packR 0 0 9 0 0 .always 0, 0, 0, 0, 0⟩, s0word 0x1200)
    ∧ ((0 : BitVec 4) = 0 ∧ ((9 : BitVec 5) ≠ 0 ∨ (0 : BitVec 5) ≠ 0 ∨ (0 : BitVec 5) ≠ 0)) ∧ 8 ≤ (8 : BitVec 4).toNat := ⟨by rfl, by rfl, by rfl, by decide, by decide⟩
theorem witness_SelChooses : Runs (s0port [3, 4] []) st0 .always ∧ st0.Settled ∧ st0.cdl = false ∧ isPort (10 : Reg) = false ∧ isPort (8 : Reg) = false ∧ (28 : Reg).toNat = 28 + 0
    ∧ (((s0port [3, 4] []).cell 0).port 0).owner = some (st0.part, st0.launch, 0) ∧ (((s0port [3, 4] []).cell 0).port 0).words = [3, 4] :=
  ⟨⟨by rfl, by rfl⟩, settled0, by rfl, by rfl, by rfl, by rfl, by decide +kernel, by decide +kernel⟩
theorem witness_SelChooses_values : Runs s0 st0 .always ∧ readSources st0 s0 [8, 9] (some 10) = .ok ([5, 7], s0) ∧ st0.allows ⟨true, 0⟩ = false := ⟨runs0, reads0, by decide +kernel⟩
theorem test_sel_pops : (let t := after (exec (.sel .always false 1 10 8 28) (s0port [3, 4] []))
    (t.me?.map fun u => u.g 10, ((t.cell 0).port 0).words)) = (some 5, [4]) := by decide +kernel

theorem witness_FetchReadsMemory : s0.translate 0 0 st0.afresh .fetch 0x30000 = .ok (gotSpot (s0.translate 0 0 st0.afresh .fetch 0x30000)) ∧ (gotSpot (s0.translate 0 0 st0.afresh .fetch 0x30000)).mt ≠ 5
    ∧ s0.isPoisoned (lineOf (gotSpot (s0.translate 0 0 st0.afresh .fetch 0x30000)).flat) = false ∧ (gotSpot (s0.translate 0 0 st0.afresh .fetch 0x30000)).flat < peerBase ∧ NMap.get? s0.codeLog ((gotSpot (s0.translate 0 0 st0.afresh .fetch 0x30000)).flat / 4) = none :=
  ⟨by rfl, by decide +kernel, by decide +kernel, by decide +kernel, by decide +kernel⟩
/-- The words of an instruction at the PC. -/
def s0words (l : List Nat) : State := s0.setBytes 0x30000 (l.flatMap fun w => leBytes w 4)
theorem witness_FetchReadsMemory_words : (s0words [5, 6, 7]).fetchWord 0 st0 st0.pc = .ok (5, s0words [5, 6, 7]) ∧ headCheck 5 = none ∧ wordCount 5 = 3 ∧ (s0words [5, 6, 7]).fetchWord 0 st0 (st0.pc + 4) = .ok (6, s0words [5, 6, 7])
    ∧ (s0words [5, 6, 7]).fetchWord 0 st0 (st0.pc + 8) = .ok (7, s0words [5, 6, 7]) := ⟨by rfl, by decide, by decide, by rfl, by rfl⟩
theorem witness_FetchReadsMemory_one : headCheck 4 = none ∧ wordCount 4 = 1 ∧ (s0words [4]).fetchWord 0 st0 st0.pc = .ok (4, s0words [4]) := ⟨by decide, by decide, by rfl⟩
theorem witness_FetchReadsMemory_five : headCheck 0x53 = none ∧ wordCount 0x53 = 5 ∧ (s0words [0x53, 1, 2, 3, 4]).fetchWord 0 st0 st0.pc = .ok (0x53, s0words [0x53, 1, 2, 3, 4])
    ∧ (s0words [0x53, 1, 2, 3, 4]).fetchWord 0 st0 (st0.pc + 16) = .ok (4, s0words [0x53, 1, 2, 3, 4]) :=
  ⟨by decide, by decide, ok_of_got (by decide +kernel), ok_of_got (by decide +kernel)⟩

/-- ADD g10, g8, g9 stands at the PC, and cell 0's turn is next. -/
def s0add : State := s0words [0x00461404 + 0x00080000]
theorem witness_StepRunsDecoded : s0add.agenda = [.issue 0] ∧ ({ s0add with agenda := [] } : State).nextSlot 0 = some 0 ∧ (({ s0add with agenda := [] } : State).takeTurn 0 0).strand? 0 = some st0
    ∧ (({ s0add with agenda := [] } : State).takeTurn 0 0).fetchWords 0 st0 = .ok (⟨0x004E1404, 0, 0, 0, 0⟩, ({ s0add with agenda := [] } : State).takeTurn 0 0)
    ∧ decodeWords ⟨0x004E1404, 0, 0, 0, 0⟩ = .ok (.add .always 10 24 9) ∧ decodeWords ⟨0x1200, 0, 0, 0, 0⟩ = .error .reservedField := ⟨by rfl, by decide +kernel, by decide +kernel, ok_of_got (by decide +kernel), by rfl, by rfl⟩
/-- The turn issues late: LD g10, [g11] waits in its slot, ADD g10, g8, g9 is executed. -/
def s0late (w : Nat) : State := { s0words [w] with agenda := [.issueLate 0] }
theorem witness_StepRunsDecoded_late : ({ s0late 0x004A1404 with agenda := [] } : State).nextSlot 0 = some 0 ∧ (({ s0late 0x004A1404 with agenda := [] } : State).takeTurn 0 0).strand? 0 = some st0
    ∧ (({ s0late 0x004A1404 with agenda := [] } : State).takeTurn 0 0).fetchWords 0 st0 = .ok (⟨0x004A1404, 0, 0, 0, 0⟩, ({ s0late 0x004A1404 with agenda := [] } : State).takeTurn 0 0)
    ∧ decodeWords ⟨0x004A1404, 0, 0, 0, 0⟩ = .ok (.add .always 10 8 9) ∧ accessesMemory (.add .always 10 8 9) = false ∧ decodeWords ⟨0x00811840, 0, 0, 0, 0⟩ = .ok (.ldD 12 4 16) ∧ accessesMemory (.ldD 10 11 0) = true :=
  ⟨by decide +kernel, by decide +kernel, ok_of_got (by decide +kernel), by rfl, by rfl, by rfl, by rfl⟩
/-- The strand waits inside a SEMW. -/
noncomputable def stWaits : Strand := { st0 with held := some (.semw .always 8 9), wait := some ⟨.poll, 0⟩ }
theorem witness_StepRunsDecoded_retry : (s0.setMe stWaits).strand? 0 = some stWaits ∧ stWaits.held = some (.semw .always 8 9) ∧ stWaits.wait = some ⟨.poll, 0⟩ ∧ stWaits.preReq = none ∧ stWaits.trapPend = none
    ∧ stWaits.halting = false ∧ exec (.semw .always 8 9) { s0.setMe stWaits with agenda := [], actor := 0 } = .next (after (exec (.semw .always 8 9) { s0.setMe stWaits with agenda := [], actor := 0 })) :=
  ⟨by rfl, by rfl, by rfl, by rfl, by rfl, by rfl, by rfl⟩
theorem witness_StepRunsDecoded_event : (Instr.yieldExpiry 0).encodable = false ∧ exec (.yieldExpiry 0) { s0 with agenda := [] } = .next (after (exec (.yieldExpiry 0) { s0 with agenda := [] })) := ⟨by rfl, by rfl⟩
theorem test_step_add : seenAfter (step (s0words [0x004A1404])) 10 = some (12, 0x30004) := by decide +kernel
theorem test_step_illegal : (after (step (s0word 0x1200))).me?.map (fun u => (u.cause, u.epc)) = some (0x0001, 0x30000) := by decide +kernel
theorem test_withFetchWord : (after (step (State.reset.withFetchWord 32 0x00002414))).me?.map (fun u => u.pc) = some 0x30004 := by decide +kernel

theorem witness_ExecGoesOn : (Instr.halt .always).encodable = true ∧ State.reset.me? = none ∧ exec (.halt .always) State.reset = .fault .noStrand := ⟨by rfl, by rfl, by rfl⟩
theorem witness_IssueFaults : s0.strand? 0 = some st0 := me0
/-- The PC lies on a page that is not mapped. -/
def stFar : Strand := { st0 with pc := 0x200000000 }
theorem witness_IssueFaults_page : (match (s0.setMe stFar).fetchWords 0 stFar with | .notPresent _ _ => true | _ => false) = true := by decide +kernel
theorem witness_IssueFaults_trap : (match (s0.setMe { st0 with pc := 0x00FF000000000000 }).fetchWords 0 { st0 with pc := 0x00FF000000000000 } with | .trap _ => true | _ => false) = true := by decide +kernel
theorem witness_StepKeepsMemory : s0.memOk ∧ step s0 = .next (after (step s0)) := ⟨by rfl, by rfl⟩
theorem test_page_fault : (let t := after (step (s0.setMe stFar))
    ((t.part? 0).map fun x => x.faults.length, t.me?.map Strand.pc)) = (some 1, some 0x200000000) := by decide +kernel


/-! ### Engines -/

/-- The engine words of a plain command on tag 5. -/
def eng0 : EngineWords := ⟨false, false, false, 0, 0, 0, 0, 5, 0, 0, 0, 0, 0⟩
/-- A copy descriptor of two elements of eight bytes, one after the other. -/
def copyDesc : List (BitVec 8) := [1, 3, 0, 0, 0, 0, 0, 0, 2, 0, 0, 0, 1, 0, 0, 0, 1, 0, 0, 0, 1, 0, 0, 0, 1, 0, 0, 0, 1, 0, 0, 0, 8] ++ List.replicate 47 0 ++ [8] ++ List.replicate 47 0
/-- The header of a list of two indexes of four bytes, elements of eight. -/
def listDesc : List (BitVec 8) := [2, 0, 0, 0, 3] ++ List.replicate 11 0
/-- The strand copies 60000H to 70000H by the descriptor at byte 128 of lmem; tag 5 is its own. -/
def stCopy (b : BitVec 64) : Strand := { st0 with stk := [(0, 0x70000), (1, 0x60000), (2, b)] }
def s0engine (b : BitVec 64) (ready : BitVec 64) : State :=
  (((s0.setBytes (lmemBase 0 + 128) copyDesc).setBytes (lmemBase 0 + 256) listDesc).setBytes 0x60000 [1, 2, 3]).setMe (stCopy b)
    |>.setCell 0 { s0.cell 0 with tagOwner := [(5, 1)], tagReady := ready }
theorem witness_CopyIssue : CopyRow (.copy .always 8 9 10 eng0 none) .always 3 0 8 9 10 eng0 none ∧ RunsEngine (s0engine 128 (BitVec.allOnes 64)) (stCopy 128) .always 5
    ∧ (let s := s0engine 128 (BitVec.allOnes 64)
      ((stCopy 128).g 10).toNat % descSize 0 = 0 ∧ ((stCopy 128).g 10).toNat + descSize 0 ≤ 98304 ∧ s.poisonedRange (lmemBase 0 + 128) (descSize 0) = false
      ∧ s.bytes (lmemBase 0 + 128) (descSize 0) = copyDesc ∧ copyDescBad eng0 copyDesc = false ∧ (s.cell 0).tagReady.getLsbD 5 = true ∧ (s.hart (s.pickHart (here s))).held < 64)
    ∧ copyChecks eng0 copyDesc ((stCopy 128).g 8) ((stCopy 128).g 9) = .ok () := ⟨.copy .., ⟨⟨by rfl, by rfl⟩, ⟨by rfl, by rfl, by rfl⟩, by decide +kernel⟩, by decide +kernel, by rfl⟩
theorem witness_CopyIssue_list : CopyRow (.getx .always 8 9 10 eng0 none) .always 3 1 8 9 10 eng0 none ∧ CopyRow (.putx .always 8 9 10 eng0) .always 3 2 8 9 10 eng0 none
    ∧ (let s := s0engine 256 (BitVec.allOnes 64)
      ((stCopy 256).g 10).toNat % descSize 1 = 0 ∧ s.bytes (lmemBase 0 + 256) (descSize 1) = listDesc ∧ listDescBad eng0 listDesc = false
      ∧ ((stCopy 256).g 10).toNat + 16 + field listDesc 0 4 * (4 + 4 * field listDesc 5 1) ≤ 98304 ∧ s.poisonedRange (lmemBase 0 + 256) (descSize 1) = false)
    ∧ indexChecks false eng0 listDesc ((stCopy 256).g 8) ((stCopy 256).g 9) = .ok () ∧ indexChecks true eng0 listDesc ((stCopy 256).g 8) ((stCopy 256).g 9) = .ok () :=
  ⟨.getx .., .putx .., by decide +kernel, by rfl, by rfl⟩
theorem witness_CopyIssue_tag : Runs s0 st0 .always ∧ st0.Settled ∧ (s0.cell 0).ownsTag 0 5 = false := ⟨runs0, settled0, by decide +kernel⟩
theorem witness_CopyIssue_misaligned : RunsEngine (s0engine 130 (BitVec.allOnes 64)) (stCopy 130) .always 5 ∧ ((stCopy 130).g 10).toNat % descSize 0 ≠ 0 := ⟨⟨⟨by rfl, by rfl⟩, ⟨by rfl, by rfl, by rfl⟩, by decide +kernel⟩, by decide +kernel⟩
theorem witness_CopyIssue_malformed : copyDescBad eng0 ((s0engine 384 (BitVec.allOnes 64)).bytes (lmemBase 0 + 384) (descSize 0)) = true
    ∧ listDescBad eng0 ((s0engine 384 (BitVec.allOnes 64)).bytes (lmemBase 0 + 384) (descSize 1)) = true := by decide +kernel
theorem witness_CopyIssue_waits : ((s0engine 128 0).cell 0).tagReady.getLsbD 5 = false ∧ RunsEngine (s0engine 128 0) (stCopy 128) .always 5 := ⟨by decide +kernel, ⟨⟨by rfl, by rfl⟩, ⟨by rfl, by rfl, by rfl⟩, by decide +kernel⟩⟩
/-- The copy has been kicked, started, and its first element read. -/
noncomputable def s0kick : State := after (exec (.copy .always 8 9 10 eng0 none) (s0engine 128 (BitVec.allOnes 64)))
noncomputable def s0start : State := after (exec (.engineCommandStart 0) s0kick)
noncomputable def s0loaded : State := after (exec (.loadPerformed (.hart 0) 0) s0start)
theorem test_copy_kick : ((s0kick.hart 0).queue.length, (s0kick.cell 0).tagReady.getLsbD 5, s0kick.me?.map Strand.pc) = (1, false, some 0x3000C) := by decide +kernel
theorem test_copy_element : (after (exec (.storePerformed (.hart 0) 0) s0loaded)).bytes 0x70000 3 = [1, 2, 3] := by decide +kernel
theorem test_copy_malformed : (after (exec (.copy .always 8 9 10 eng0 none) (s0engine 384 (BitVec.allOnes 64)))).me?.map (fun u => (u.cause, u.faddr)) = some (0x0607, 384) := by decide +kernel

/-- A command of the strand as the engine holds it. -/
def cmd0 : Command :=
  { id := 3, part := 0, launch := 0, cell := 0, slot := 0, words := [], coll := false, kind := 0, dst := 0x70000, src := 0x60000, third := 128, eng := eng0, replica := none, desc := copyDesc
    started := true, waited := true, startAt := 0, indexed := [], loaded := [], stored := [], blocks := [], refetched := [], replicas := [], job := none, rewritten := [], teDone := 0, status := 0, stopped := false, hold := .poll, holdAt := 0, holdLine := 0
    phase := 0, progress := 0, entry := 0, table := none, run := 0 }
/-- Hart 0 runs a command. -/
def s0run (c : Command) : State := (s0engine 128 0).setHart 0 ⟨[], [c]⟩
/-- Hart 0 has a command queued that waits for three counts of semaphore 7. -/
def cmdWait : Command := { cmd0 with started := false, waited := false, eng := { eng0 with wt := 3, ws := 7 } }
def s0queued (n : Nat) : State := ((s0engine 128 0).setHart 0 ⟨[cmdWait], []⟩).setCluster 0 { s0.cluster 0 with sems := [(7, n)] }
theorem witness_EngineSteps_start : (s0kick.hart 0).queue.map (fun c => c.eng.wt) = [0] := by decide +kernel
theorem witness_EngineSteps_wait : ((s0queued 3).hart 0).queue = [cmdWait] ∧ cmdWait.waited = false ∧ cmdWait.eng.wt ≠ 0 ∧ ((s0queued 3).cluster (cmdWait.cell / 8)).semWaiters = []
    ∧ cmdWait.eng.wt.toNat ≤ ((s0queued 3).cluster (cmdWait.cell / 8)).sem cmdWait.eng.ws.toNat ∧ ((s0queued 2).cluster (cmdWait.cell / 8)).sem cmdWait.eng.ws.toNat < cmdWait.eng.wt.toNat := by decide +kernel
/-- The spot of an answer of an engine's address check. -/
def engSpot (r : Except Bar Spot) : Spot := match r with | .ok x => x | .error _ => Spot.local 0
/-- An answer is a spot. -/
def isSpot (r : Except Bar Spot) : Bool := match r with | .ok _ => true | .error _ => false
theorem spot_of_is {r : Except Bar Spot} (h : isSpot r = true) : r = .ok (engSpot r) := by cases r <;> simp_all [isSpot, engSpot]
/-- Where element 1 of the source lies. -/
def spotLoad : Spot := engSpot ((s0run cmd0).engineSpot 0 0 .read cmd0.afresh cmd0.eng.ssp (cmd0.copyPlace false 1).1 (cmd0.bytesOf false))
theorem witness_EngineSteps_load : (s0run cmd0).cmd? 0 0 = some cmd0 ∧ cmd0.free (accessNo 0 1) = true ∧ cmd0.mayLoad 1 = true
    ∧ (s0run cmd0).pauseDue cmd0 = false ∧ (s0run cmd0).engineSpot 0 0 .read cmd0.afresh cmd0.eng.ssp (cmd0.copyPlace false 1).1 (cmd0.bytesOf false) = .ok spotLoad
    ∧ (let x := spotLoad
      x.cls = 0 ∧ x.mt ≠ 5 ∧ (s0run cmd0).loadPoison none 0 x.mt x.flat 8 = false ∧ (s0run cmd0).keptBack ((s0run cmd0).beforeAccessOf 0 0 cmd0 0 1) x 8 = false) :=
  ⟨by decide +kernel, by decide +kernel, by decide +kernel, by decide +kernel, spot_of_is (by decide +kernel), by decide +kernel⟩
/-- A later command of the hart copies back: 70000H to 60000H, its first element read or not. -/
def cmdBack (l : NMap (List (BitVec 8))) : Command := { cmd0 with id := 4, dst := 0x60000, src := 0x70000, loaded := l }
def s0two (l : NMap (List (BitVec 8))) : State := (s0engine 128 0).setHart 0 ⟨[], [cmd0, cmdBack l]⟩
def spotBack (w : Bool) : Spot :=
  engSpot ((s0two []).engineSpot 0 0 (if w then .write else .read) (cmdBack []).afresh 0 ((cmdBack []).copyPlace w 0).1 8)
theorem witness_EngineSteps_kept : (s0two []).cmd? 0 1 = some (cmdBack []) ∧ (cmdBack []).mayLoad 0 = true ∧ (s0two []).pauseDue (cmdBack []) = false
    ∧ (spotBack false).cls = 0 ∧ (spotBack false).mt ≠ 5 ∧ (s0two []).keptBack ((s0two []).beforeAccessOf 0 1 (cmdBack []) 0 0) (spotBack false) 8 = true
    ∧ (s0two [(0, zeros 8)]).cmd? 0 1 = some (cmdBack [(0, zeros 8)]) ∧ Command.mayStore (cmdBack [(0, zeros 8)]) 0 = true
    ∧ (spotBack true).cls = 0 ∧ (spotBack true).mt ≠ 5
    ∧ (s0two [(0, zeros 8)]).keptBack ((s0two [(0, zeros 8)]).beforeAccessOf 0 1 (cmdBack [(0, zeros 8)]) 1 0) (spotBack true) 8 = true
    ∧ (s0two []).hartClear 0 1 = false := by decide +kernel
theorem test_copy_order : ((after (exec (.loadPerformed (.hart 0) 1) (s0two []))).hart 0).running.map (fun c => c.loaded.length) = [0, 0]
    ∧ ((after (exec (.loadPerformed (.hart 0) 0) (s0two []))).hart 0).running.map (fun c => c.loaded.length) = [1, 0] := by decide +kernel
def cmdLoaded : Command := { cmd0 with loaded := [(0, leBytes 0x030201 8)] }
/-- Where element 0 of the destination lies. -/
def spotStore : Spot := engSpot ((s0run cmdLoaded).engineSpot 0 0 .write cmdLoaded.afresh 0 (cmdLoaded.copyPlace true 0).1 (cmdLoaded.bytesOf true))
theorem witness_EngineSteps_store : (s0run cmdLoaded).cmd? 0 0 = some cmdLoaded ∧ cmdLoaded.eng.conv = false ∧ NMap.get? cmdLoaded.loaded 0 = some (leBytes 0x030201 8) ∧ leBytes 0x030201 8 ≠ [] ∧ cmdLoaded.free (accessNo 1 0) = true
    ∧ cmdLoaded.mayStore 0 = true ∧ (s0run cmdLoaded).engineSpot 0 0 .write cmdLoaded.afresh cmdLoaded.eng.dsp (cmdLoaded.copyPlace true 0).1 (cmdLoaded.bytesOf true)
      = .ok spotStore
    ∧ (let x := spotStore
      x.cls = 0 ∧ x.mt ≠ 5 ∧ (s0run cmdLoaded).noStore x.flat = false ∧ (s0run cmdLoaded).aliased cmdLoaded x.flat = false
      ∧ (s0run cmdLoaded).keptBack ((s0run cmdLoaded).beforeAccessOf 0 0 cmdLoaded 1 0) x 8 = false) :=
  ⟨by decide +kernel, by decide +kernel, by decide +kernel, by decide +kernel, by decide +kernel, by decide +kernel, spot_of_is (by decide +kernel), by decide +kernel⟩
/-- A command whose destination lines take transition 0 once its two elements are written: class 3, and class 0. -/
def cmdTe (dst : BitVec 64) : Command := { cmd0 with dst := dst, eng := { eng0 with te := true }, loaded := [(0, zeros 8), (1, zeros 8)], stored := [0, 1] }
theorem witness_EngineSteps_te : (let s := s0run (cmdTe 0xC0000000)
    let c := cmdTe 0xC0000000
    s.cmd? 0 0 = some c ∧ c.eng.te = true ∧ c.eng.dsp = 0 ∧ c.allDone = true ∧ c.free (accessNo 2 c.teDone) = true ∧ (c.destLines s)[c.teDone]? = some 0x3000000) := by
 decide +kernel


/-- Where the destination line of a command with TE lies. -/
def spotTe (dst : BitVec 64) : Spot := engSpot ((s0run (cmdTe dst)).engineSpot 0 0 .rmw false 0 dst 1)
theorem witness_EngineSteps_te_allow : (s0run (cmdTe 0xC0000000)).engineSpot 0 0 .rmw (cmdTe 0xC0000000).afresh 0 (BitVec.ofNat 64 (0x3000000 * 64)) 1 = .ok (spotTe 0xC0000000)
    ∧ (spotTe 0xC0000000).cls ≠ 0 ∧ (s0run (cmdTe 0xC0000000)).beforeCmd 0 0 = [] ∧ (s0run (cmdTe 0xC0000000)).clearOf 0 [] = true ∧ (s0run (cmdTe 0xC0000000)).keptBack [] (spotTe 0xC0000000) 0 = false ∧ (s0run (cmdTe 0xC0000000)).isPoisoned (lineOf (spotTe 0xC0000000).flat) = false
    ∧ verdictOf ((s0run (cmdTe 0xC0000000)).entryAt 0 (spotTe 0xC0000000).cls (lineOf (spotTe 0xC0000000).flat) (cmdTe 0xC0000000).eng.q.toNat) = .allow :=
  ⟨spot_of_is (by decide +kernel), by decide +kernel, by decide +kernel, by decide +kernel, by decide +kernel, by decide +kernel, by decide +kernel⟩
theorem witness_EngineSteps_te_class0 : (s0run (cmdTe 0x70000)).engineSpot 0 0 .rmw (cmdTe 0x70000).afresh 0 (BitVec.ofNat 64 (0x1C00 * 64)) 1 = .ok (spotTe 0x70000) ∧ (spotTe 0x70000).cls = 0
    ∧ ((cmdTe 0x70000).destLines (s0run (cmdTe 0x70000)))[0]? = some 0x1C00 := ⟨spot_of_is (by decide +kernel), by decide +kernel, by decide +kernel⟩
/-- A command whose data are written, with a signal of two counts to semaphore 9, in each of its last phases. -/
def cmdDone (phase : Nat) : Command := { cmd0 with eng := { eng0 with si := 2, ss := 9 }, loaded := [(0, zeros 8), (1, zeros 8)], stored := [0, 1], phase := phase }
theorem witness_EngineSteps_signal : (s0run (cmdDone 0)).cmd? 0 0 = some (cmdDone 0) ∧ (cmdDone 0).phase = 0 ∧ (s0run (cmdDone 0)).dataDone (cmdDone 0) = true ∧ (s0run (cmdDone 0)).hartClear 0 0 = true := by decide +kernel
theorem witness_EngineSteps_mailbox : (s0run (cmdDone 1)).cmd? 0 0 = some (cmdDone 1) ∧ (cmdDone 1).phase = 1 ∧ (cmdDone 1).status < 256 ∧ (s0run (cmdDone 1)).hartClear 0 0 = true := by decide +kernel
theorem witness_EngineSteps_ready : (s0run (cmdDone 2)).cmd? 0 0 = some (cmdDone 2) ∧ (cmdDone 2).phase = 2 := by decide +kernel
/-- Pre-emption has been asked of the strand, and one of the command's two elements is written. -/
def cmdHalf : Command := { cmd0 with loaded := [(0, zeros 8)], stored := [0] }
def stAsked : Strand := { stCopy 128 with preReq := some ⟨1, 0, none, false⟩ }
def s0pause : State := (s0run cmdHalf).setMe stAsked
theorem witness_EngineSteps_pause : s0pause.cmd? 0 0 = some cmdHalf ∧ s0pause.strand? (cmdHalf.cell * 16 + cmdHalf.slot) = some stAsked ∧ stAsked.preReq = some ⟨1, 0, none, false⟩
    ∧ (s0pause.part? cmdHalf.part).map (fun p => decide (0 + p.deadline * 1900 ≤ s0pause.clock)) = some true ∧ cmdHalf.coll = false ∧ cmdHalf.phase = 0 ∧ cmdHalf.stopped = false ∧ s0pause.dataDone cmdHalf = false ∧ cmdHalf.atBoundary = true
    ∧ cmdHalf.hold ≠ .parked ∧ s0pause.hartClear 0 0 = true := by decide +kernel
theorem witness_EngineSteps_mailbox_apart : OffStacks (s0run (cmdDone 1)) (mailboxOf 0 5) 8 ∧ OffStacks s0pause (mailboxOf cmdHalf.cell cmdHalf.eng.tag.toNat) 8 :=
  ⟨show ∀ i, i < 8 → _ by decide +kernel, show ∀ i, i < 8 → _ by decide +kernel⟩
theorem test_te : (after (exec (.teTransition 0 0) (s0run (cmdTe 0xC0000000)))).lineState 0x3000000 = 1 := by decide +kernel
theorem test_signal : ((after (exec (.engineSignal 0 0) (s0run (cmdDone 0)))).cluster 0).sem 9 = 2 := by decide +kernel
theorem test_mailbox : (after (exec (.mailboxWrite 0 0) (s0run (cmdDone 1)))).bytes (0x1000000FF000 + 8 * 5) 8 = [2, 0, 0, 0, 0, 0, 0, 0] := by decide +kernel
theorem test_tag_ready : ((after (exec (.tagReady 0 0) (s0run (cmdDone 2)))).cell 0).tagReady.getLsbD 5 = true := by decide +kernel
theorem test_pause : ((after (exec (.commandPause 0 0) s0pause)).strand? 0).map (fun st => st.paused.map fun p => (p.1, p.2.progress)) = some [(5, 1)] := by decide +kernel

/-- Group 4 has two members, both of this module: dies 0 and 1 of partition 0. A collective descriptor lies at byte 64 of lmem, its step table, of one END entry, at 50000H. -/
def groupBlock : List (BitVec 8) := [2] ++ zeros 15 ++ zeros 32 ++ [0, 0, 0, 1] ++ zeros 28
def collDesc : List (BitVec 8) := [0, 0, 19, 0, 0, 0, 0, 0, 4] ++ zeros 15 ++ leBytes 0x60000 8 ++ leBytes 0x70000 8 ++ leBytes 0x50000 8 ++ zeros 16
def stepHeader : List (BitVec 8) := leBytes 0 4 ++ leBytes 2 4 ++ leBytes 1 4 ++ zeros 52
def s0coll : State :=
  (((s0.setBytes (lmemBase 0 + 64) collDesc).setBytes 0x50000 (stepHeader ++ [0xFF])).modPart 0 fun x => { x with groups := [(4, groupBlock)] }).setCell 0 { s0.cell 0 with tagOwner := [(5, 1)] }
theorem witness_CollAndTransform : RunsEngine s0coll st0 .always 5 ∧ (∀ line, s0coll.isPoisoned line = false) ∧ (st0.g 10).toNat % 64 = 0 ∧ s0coll.bytes (lmemBase 0 + 64) 64 = collDesc
    ∧ (s0coll.part? 0).bind (fun p => NMap.get? p.groups (field collDesc 8 4)) = some groupBlock ∧ collDescBad collDesc (field groupBlock 0 4) = false
    ∧ field collDesc 24 8 % collWidth (field collDesc 2 1) = 0 ∧ field collDesc 32 8 % collWidth (field collDesc 2 1) = 0 ∧ wordAt collDesc 40 = 0x50000 ∧ overWindow (0x50000 : BitVec 64) 64 = false
    ∧ s0coll.reach st0 .read 0x50000 = .ok (gotSpot (s0coll.reach st0 .read 0x50000)) ∧ (let x := gotSpot (s0coll.reach st0 .read 0x50000)
      x.cls = 0 ∧ x.mt = 0 ∧ x.loc = 0 ∧ stepHeaderBad (s0coll.bytes x.flat 64) groupBlock s0coll.moduleNo.toNat 0 0 = false)
    ∧ (s0coll.cell 0).tagReady.getLsbD 5 = true ∧ (s0coll.hart (collHart 0)).held < 16 :=
  ⟨⟨⟨by rfl, by rfl⟩, ⟨by rfl, by rfl, by rfl⟩, by decide +kernel⟩, fun _ => by rfl, by decide +kernel, by decide +kernel, by decide +kernel, by decide +kernel, by decide +kernel, by decide +kernel, by decide +kernel,
    by decide, ok_gotSpot (by decide +kernel), by decide +kernel, by decide +kernel, by decide +kernel⟩
/-- A checksum request of 16 bytes at 60000H: its parameter block lies at byte 64 of lmem. -/
def xreqBlock : List (BitVec 8) := leBytes 0x60000 8 ++ zeros 8 ++ leBytes 16 8 ++ zeros 40
def s0xreq : State := s0.setBytes (lmemBase 0 + 64) xreqBlock
theorem witness_CollAndTransform_xreq : XreqRow .xreqCksum 2 ∧ Runs s0xreq st0 .always ∧ st0.Settled ∧ (∀ x, st0.wait ≠ some x) ∧ (st0.g 10).toNat % 64 = 0 ∧ (st0.g 10).toNat + 64 ≤ 98304
    ∧ (s0xreq.cluster 0).coproc = none ∧ s0xreq.isPoisoned (lineOf (lmemBase 0 + 64)) = false :=
  ⟨.cksum, ⟨by rfl, by rfl⟩, settled0, fun x => (show (none : Option Wait) ≠ some x from nofun), by decide +kernel, by decide +kernel, by decide +kernel, by decide +kernel⟩
/-- The request in the coprocessor, one that has read everything, and one whose parameters are bad. -/
def xreq0 (done : Bool) : Xreq :=
  { slot := 0, fn := 2, d := 2, ra := 10, rb := 9, part := 0, block := xreqBlock, loaded := if done then (List.range 16).map fun i => (i, [0]) else [], stored := [], status := 0, stopped := false
    hold := .poll, holdAt := 0, holdLine := 0 }
def s0xbusy (done : Bool) : State := s0xreq.setCluster 0 { s0xreq.cluster 0 with coproc := some (xreq0 done) }
theorem witness_CollAndTransform_busy : ((s0xbusy false).cluster 0).coproc ≠ none ∧ Runs (s0xbusy false) st0 .always := ⟨by decide +kernel, by rfl, by rfl⟩
theorem witness_CollAndTransform_bad : (xreq0 false).bad = false ∧ Xreq.bad { xreq0 false with block := zeros 34 ++ [1] ++ zeros 29 } = true := by decide +kernel
theorem witness_CollAndTransform_done : ((s0xbusy true).cluster (clusterOf 0)).coproc = some (xreq0 true) ∧ ((s0xbusy true).strand? 0).isSome = true ∧ (xreq0 true).done = true ∧ isPort (xreq0 true).ra = false
    ∧ isPort (xreq0 true).rb = false := by decide +kernel
theorem test_xreq_busy : (after (exec (.xreqCksum .always 2 10 9) (s0xbusy false))).me?.map (fun u => (u.p 2, u.pc)) = some (0, 0x30004) := by decide +kernel
theorem test_xreq_accepted : (after (exec (.xreqCksum .always 2 10 9) s0xreq)).me?.map (fun u => (u.pc, u.wait.map Wait.kind)) = some (0x30000, some .xreq) := by decide +kernel
/-- The check value of CRC32C, for the digits 1 to 9. -/
theorem test_crc32c : crc32c 0 [0x31, 0x32, 0x33, 0x34, 0x35, 0x36, 0x37, 0x38, 0x39] = 0xE3069283 := by decide +kernel

/-- A page of compressed memory at GiB 5, with a KZ map header of log 2, and a copy of 512 zero elements that covers its block 0. -/
def cmdZ : Command :=
  { cmd0 with dst := 0x140000000, src := 0x60000, eng := { eng0 with z := true }, desc := copyDesc.set 8 0 |>.set 9 2, loaded := (List.range 512).map fun j => (j, zeros 8) }
def s0page : State := (s0.setBytes 0x20028 (leBytes 0x1400000BF 8)).setBytes 0x140000010 [2]
def storedZ : List (BitVec 8) := s0page.encodeBlock false 0x140000000 0x140000040 [] (cmdZ.mergeBlock (List.range 512) (List.replicate 4096 0))
/-- The page with a log of some size, and the copy at work. -/
def s0z (size : Nat) : State := (s0page.modPart 0 fun x => { x with logs := [(2, ⟨0x50000000, size, 0x50000000, [], none, false⟩)] }).setHart 0 ⟨[], [cmdZ]⟩
theorem places_z : ∀ j, j < 512 → (cmdZ.copyPlace true j).1.toNat % 4096 = 8 * j ∧ (cmdZ.copyPlace true j).1.toNat / 4096 = 0x140000 := by decide +kernel
theorem next_z : cmdZ.nextBlock = some (0x140000, List.range 512) := by decide +kernel
theorem covers_z : cmdZ.coversBlock (List.range 512) = true := by
  simp only [Command.coversBlock, List.all_eq_true, List.any_eq_true, List.mem_range, Bool.and_eq_true, decide_eq_true_eq]
  intro o ho
  have hb : cmdZ.bytesOf true = 8 := by decide +kernel
  have hp := (places_z (o / 8) (by omega)).1
  exact ⟨o / 8, by omega, by omega, by omega⟩
/-- Where the page lies. -/
def spotZ : Spot := engSpot ((s0z 0).engineSpot 0 0 .write false 0 (BitVec.ofNat 64 (0x140000 * 4096)) 1)
theorem spot_z : spotZ.mt = 5 ∧ spotZ.cls = 0 ∧ spotZ.zfmt = false ∧ spotZ.flat = 0x140000000 ∧ spotZ.frame = 0x140000000 := by decide +kernel
theorem bytes_same (s t : State) (hm : s.mem = t.mem) (hu : s.unk = t.unk) (n a : Nat) : s.bytes a n = t.bytes a n := by
  induction n generalizing a with
  | zero => rfl
  | succ n ih => simp only [State.bytes, State.byte, hm, hu, ih]
theorem encodeBlock_same (s t : State) (hm : s.mem = t.mem) (hu : s.unk = t.unk) (z : Bool) (f o : Nat) (k d : List (BitVec 8)) : s.encodeBlock z f o k d = t.encodeBlock z f o k d := by
  simp only [State.encodeBlock, bytes_same s t hm hu]
theorem modPart_same (s : State) (p : Nat) (f : Partition → Partition) : (s.modPart p f).mem = s.mem ∧ (s.modPart p f).unk = s.unk := by
  simp only [State.modPart]; split <;> exact ⟨rfl, rfl⟩
theorem stored_z (n : Nat) : (s0z n).encodeBlock false 0x140000000 (entryPlaceOf 0x140000000 (0x140000000 - 0x140000000)) [] (cmdZ.mergeBlock (List.range 512) (List.replicate 4096 0)) = storedZ := by
  rw [storedZ, encodeBlock_same (s0z n) s0page (modPart_same ..).1 (modPart_same ..).2, show entryPlaceOf 0x140000000 (0x140000000 - 0x140000000) = 0x140000040 by decide]
theorem append_z (n : Nat) (b : List (BitVec 8)) (h : 64 * (b.length / 64) ≤ n) : ((s0z n).appendLog 0 2 b).isSome = true := by
  have hl : ((s0z n).part? 0).bind (fun x => NMap.get? x.logs 2) = some ⟨0x50000000, n, 0x50000000, [], none, false⟩ := by rfl
  simp [State.appendLog, hl, Log.room, h]
/-- A log with room for any block. -/
theorem append_ex (b : List (BitVec 8)) : ∃ n, ((s0z n).appendLog 0 2 b).isSome = true := ⟨_, append_z _ b (Nat.le_refl _)⟩
theorem witness_CompressedAndCollective : ∃ n, (s0z n).cmd? 0 0 = some cmdZ ∧ cmdZ.eng.z = true ∧ cmdZ.free (accessNo 3 0x140000) = true
    ∧ cmdZ.coll = false ∧ cmdZ.job = none ∧ cmdZ.nextBlock = some (0x140000, List.range 512) ∧ cmdZ.coversBlock (List.range 512) = true ∧ (∀ j ∈ List.range 512, (NMap.get? cmdZ.loaded j).isSome = true) ∧ (∀ line, (s0z n).isPoisoned line = false) ∧ ((s0z n).appendLog 0 2 storedZ).isSome = true := by
  obtain ⟨n, h⟩ := append_ex storedZ
  exact ⟨n, by rfl, by decide +kernel, by decide +kernel, by decide +kernel, by decide +kernel, next_z, covers_z, by decide +kernel, fun _ => by rfl, h⟩
/-- A command that writes two elements of the block, its old bytes read, and its new ones placed. -/
def cmdPart (job : Option BlockJob) : Command := { cmd0 with dst := 0x140000000, eng := { eng0 with z := true }, loaded := [(0, zeros 8), (1, zeros 8)], job := job }
def s0part (job : Option BlockJob) : State := (s0page.modPart 0 fun x => { x with logs := [(2, ⟨0x50000000, 0, 0x50000000, [], none, false⟩)] }).setHart 0 ⟨[], [cmdPart job]⟩
theorem witness_CompressedAndCollective_read : (cmdPart none).nextBlock = some (0x140000, [0, 1]) ∧ (cmdPart none).coversBlock [0, 1] = false ∧ (cmdPart none).refetched = [] ∧ (cmdPart none).replicas = []
    ∧ (s0part none).keptBack ((s0part none).beforeCmd 0 0) spotZ 4096 = false ∧ (match (s0part none).readBlock false 0x140000000 0 with | .ok b => !b.isEmpty | _ => false) = true := by decide +kernel
/-- A block of one line finds no room in a log of no bytes. -/
theorem append_none (b : List (BitVec 8)) (h : 64 ≤ b.length) : (s0part none).appendLog 0 2 b = none := by
  have hl : ((s0part none).part? 0).bind (fun x => NMap.get? x.logs 2) = some ⟨0x50000000, 0, 0x50000000, [], none, false⟩ := by rfl
  have hn : 0 < b.length / 64 := by omega
  simp only [State.appendLog, hl, Log.room]
  have h1 : ¬ (0x50000000 + 64 * (b.length / 64) ≤ 0x50000000 + 0) := by omega
  simp [h1]
theorem witness_CompressedAndCollective_job : (cmdPart (some ⟨0x140000, [0], false, none⟩)).job = some ⟨0x140000, [0], false, none⟩
    ∧ (cmdPart (some ⟨0x140000, [0], true, some (1, 0x50000000)⟩)).job = some ⟨0x140000, [0], true, some (1, 0x50000000)⟩
    ∧ (s0part (some ⟨0x140000, [0], true, some (1, 0x50000000)⟩)).clearOf 0 [] = true ∧ (s0part (some ⟨0x140000, [0], true, some (1, 0x50000000)⟩)).beforeCmd 0 0 = [] ∧ (s0part none).appendLog 0 2 (zeros 64) = none :=
  ⟨by rfl, by rfl, by rfl, by rfl, append_none _ (by decide)⟩
theorem test_block_named : ((after (exec (.compressedBlockRewrite 0 0 []) (s0part (some ⟨0x140000, [0], true, some (1, 0x50000000)⟩)))).bytes 0x140000040 8) = leBytes (mapEntry 1 0x50000000) 8 := by
  decide +kernel
theorem witness_CompressedAndCollective_spot : isSpot ((s0z 4096).engineSpot 0 0 .write cmdZ.afresh 0 (BitVec.ofNat 64 (0x140000 * 4096)) 1) = true
    ∧ engSpot ((s0z 4096).engineSpot 0 0 .write cmdZ.afresh 0 (BitVec.ofNat 64 (0x140000 * 4096)) 1) = spotZ
    ∧ mapHeaderOk false ((s0z 4096).bytes 0x140000000 64) = true ∧ field ((s0z 4096).bytes 0x140000000 64) 16 4 = 2 := by decide +kernel
/-- Log 2 holds one block of one line at 50000000H, whose owner is the entry at 140000040H. -/
def s0log (entry : Nat) : State :=
  (((s0.setBytes 0x50000010 (leBytes 0x140000040 8)).setBytes 0x140000040 (leBytes entry 8)).modPart 0 fun x => { x with logs := [(2, ⟨0x50000000, 0x10000, 0x50000040, [(0x50000000, 1)], none, false⟩)] })
theorem witness_CompressedAndCollective_log : ((s0log 0).part? 0).map Partition.logs = some [(2, ⟨0x50000000, 0x10000, 0x50000040, [(0x50000000, 1)], none, false⟩)]
    ∧ field ((s0log 0).bytes 0x50000000 24) 16 8 = 0x140000040 ∧ inDevice 0x140000040 8 = true ∧ entryValid (leNat ((s0log 0).bytes 0x140000040 8)) = false ∧ (s0log 0).beingNamed 0 0x50000000 = false
    ∧ ((s0log 0).setHart 0 ⟨[], [cmdPart (some ⟨0x140000, [0], false, some (1, 0x50000000)⟩)]⟩).beingNamed 0 0x50000000 = true := by decide +kernel
/-- The collector has copied the block to 50000040H. -/
def s0moved (entry : Nat) : State := (s0log entry).modPart 0 fun x => { x with logs := [(2, ⟨0x50000000, 0x10000, 0x50000080, [(0x50000000, 1), (0x50000040, 1)], some (0x50000000, 0x140000040, 0x50000040), false⟩)] }
theorem witness_CompressedAndCollective_moved : ((s0moved 0).part? 0).map Partition.logs = some [(2, ⟨0x50000000, 0x10000, 0x50000080, [(0x50000000, 1), (0x50000040, 1)], some (0x50000000, 0x140000040, 0x50000040), false⟩)]
    ∧ OffStacks (s0moved 0) 0x140000040 8 ∧ entryValid (leNat ((s0moved 0).bytes 0x140000040 8)) = false
    ∧ entryValid (leNat ((s0moved (mapEntry 1 0x50000000)).bytes 0x140000040 8)) = true ∧ entryAddr (leNat ((s0moved (mapEntry 1 0x50000000)).bytes 0x140000040 8)) = 0x50000000 :=
  ⟨by decide +kernel, show ∀ i, i < 8 → _ by decide +kernel, by decide +kernel, by decide +kernel, by decide +kernel⟩
theorem test_collector_names : (((s0moved (mapEntry 1 0x50000000)).collectLog 0 2).bytes 0x140000040 8) = leBytes (mapEntry 1 0x50000040) 8 := by decide +kernel
theorem witness_CompressedAndCollective_live : entryValid (leNat ((s0log (mapEntry 1 0x50000000)).bytes 0x140000040 8)) = true ∧ entryAddr (leNat ((s0log (mapEntry 1 0x50000000)).bytes 0x140000040 8)) = 0x50000000
    ∧ (State.appendLog { s0log (mapEntry 1 0x50000000) with fresh := (s0log (mapEntry 1 0x50000000)).fresh + 1 } 0 2 ((s0log (mapEntry 1 0x50000000)).bytes 0x50000000 64)).isSome = true := by decide +kernel
/-- A collective command of group 4 with an entry in hand: END, SEND of one element to member 1, RECV of one from a member of module 9. -/
def cmdColl (e : Option (List (BitVec 8))) : Command :=
  { cmd0 with coll := true, kind := 3, desc := collDesc ++ stepHeader, dst := 0x70000, third := 0x50000, loaded := [(0, [1, 2, 3, 4])], table := e }
def s0step (e : List (BitVec 8)) (c : Command) (g : List (BitVec 8)) : State :=
  ((s0.setBytes 0x50040 e).modPart 0 fun x => { x with groups := [(4, g)] }).setHart 384 ⟨[], [c]⟩
def entryBytes (kind : Nat) : List (BitVec 8) := leBytes kind 1 ++ [0xF] ++ leBytes 1 2 ++ zeros 12 ++ leBytes 1 8 ++ zeros 40
def farGroup : List (BitVec 8) := [2] ++ zeros 15 ++ zeros 32 ++ [9, 0, 0, 1] ++ zeros 28
/-- The command with an entry of a kind in hand. -/
def cmdEntry (k : Nat) : Command := cmdColl (some (entryBytes k))
/-- An entry of a kind is in hand and well formed. -/
def entryInHand (k : Nat) : Bool :=
  let s := s0step (entryBytes k) (cmdEntry k) groupBlock
  decide ((s.hart 384).running = [cmdEntry k]) && (s.part? 0).bind (fun p => NMap.get? p.groups (field (cmdEntry k).desc 8 4)) == some groupBlock
    && !stepEntryBad (field groupBlock 0 4) (entryBytes k) && !s.hartOwes 384 && s.sent.isEmpty
theorem witness_CompressedAndCollective_entry : (cmdEntry 0).coll = true ∧ (cmdEntry 0).free (accessNo 3 (cmdEntry 0).entry) = true ∧ (cmdEntry 0).entry ≠ field (cmdEntry 0).desc 72 4
    ∧ entryInHand 0xFF = true ∧ entryInHand 0 = true ∧ entryInHand 1 = true ∧ entryInHand 2 = true := by decide +kernel
/-- The command with its element written. -/
def cmdStored : Command := { cmdEntry 1 with stored := [0], blocks := [(0, [1])] }
/-- Link 3 leads to module 9. -/
def s0linked : State := (s0step (entryBytes 0) (cmdEntry 0) farGroup).setLink 3 { Link.fresh with peer := 9, up := true }
theorem witness_CompressedAndCollective_peer : field (entryBytes 0) 16 8 ≤ (cmdEntry 0).loaded.length ∧ (memberOf groupBlock 1).1 = s0.moduleNo.toNat ∧ (memberOf farGroup 1).1 ≠ s0.moduleNo.toNat
    ∧ NMap.get? (cmdEntry 1).blocks (cmdEntry 1).entry = none ∧ [(1 : BitVec 8), 2, 3, 4].length = 1 * (cmdEntry 1).collBytes ∧ field (entryBytes 1) 16 8 ≤ cmdStored.stored.length
    ∧ (NMap.get? cmdStored.blocks 0).isSome = true ∧ (s0step (entryBytes 1) cmdStored groupBlock).hartOwes 384 = false
    ∧ (⟨3, 0, 4, 0, 1, 0, [5, 0, 0, 0]⟩ : CollMsg).part = (cmdEntry 1).part ∧ (⟨3, 0, 4, 0, 1, 0, [5, 0, 0, 0]⟩ : CollMsg).group = field (cmdEntry 1).desc 8 4
    ∧ (⟨3, 0, 4, 0, 1, 0, [5, 0, 0, 0]⟩ : CollMsg).run = (cmdEntry 1).run ∧ (⟨3, 0, 4, 0, 1, 0, [5, 0, 0, 0]⟩ : CollMsg).dst = (cmdEntry 1).member := by decide +kernel
theorem witness_CompressedAndCollective_links : s0linked.linkTo (memberOf farGroup 1).1 (field (entryBytes 0) 1 1) = some 3
    ∧ (s0step (entryBytes 0) (cmdEntry 0) farGroup).linkTo (memberOf farGroup 1).1 (field (entryBytes 0) 1 1) = none ∧ s0linked.hartOwes 384 = false := by decide +kernel
/-- Where the entry lies. -/
def spotTable : Spot := engSpot ((s0step (entryBytes 0) (cmdColl none) groupBlock).engineSpot 0 0 .read (cmdColl none).afresh 0 (cmdColl none).tableVa 64)
theorem witness_CompressedAndCollective_table : (let s := s0step (entryBytes 0) (cmdColl none) groupBlock
    (s.hart 384).running = [cmdColl none] ∧ (cmdColl none).coll = true ∧ (cmdColl none).free (accessNo 5 (cmdColl none).entry) = true ∧ (cmdColl none).entry ≠ field (cmdColl none).desc 72 4
    ∧ isSpot (s.engineSpot 0 0 .read (cmdColl none).afresh 0 (cmdColl none).tableVa 64) = true ∧ spotTable.cls = 0 ∧ spotTable.mt ≠ 5
    ∧ s.keptBack (s.beforeAccessOf 384 0 (cmdColl none) 5 0) spotTable 64 = false ∧ s.loadPoison none 0 spotTable.mt spotTable.flat 64 = false) := by decide +kernel
theorem test_coll_send : (after (exec (.collStep 0 []) (s0step (entryBytes 0) (cmdEntry 0) groupBlock))).sent.map CollMsg.bytes = [[1, 2, 3, 4]] := by decide +kernel
/-- A SEND to another module sends one flit, and its elements wait for their acknowledgement. -/
theorem test_coll_send_far : (let t := after (exec (.collStep 0 []) s0linked)
    ((NMap.getD t.links 3 Link.fresh).flits, t.outbound.map Outbound.who)) = (1, [.hart 0 0 384]) := by decide +kernel
theorem test_coll_table : ((after (exec (.collStep 0 []) (s0step (entryBytes 0) (cmdColl none) groupBlock))).hart 384).running.map Command.table = [some (entryBytes 0)] := by decide +kernel


/-! ### Decoding: for every encodable instruction one word, with a value of its own in each field (Tables 3-2 to 3-16) -/

theorem test_decode_scalar_0 :
    decodeList [0x0B000000] = .ok (.nop ⟨true, 3⟩, [])
    ∧ decodeList [0x1B000000] = .ok (.yield ⟨true, 3⟩, [])
    ∧ decodeList [0x2B000000] = .ok (.halt ⟨true, 3⟩, [])
    ∧ decodeList [0x3B019200] = .ok (.movhFromShared ⟨true, 3⟩ 9 6, [])
    ∧ decodeList [0x4B028A00] = .ok (.movhToShared ⟨true, 3⟩ 5 10, [])
    ∧ decodeList [0x5B5A9200] = .ok (.rng ⟨true, 3⟩ 9 10 11, [])
    ∧ decodeList [0x6B028000] = .ok (.jmpx ⟨true, 3⟩ 10, [])
    ∧ decodeList [0x7B000000] = .ok (.ret ⟨true, 3⟩, [])
    ∧ decodeList [0x0B5A9204] = .ok (.add ⟨true, 3⟩ 9 10 11, [])
    ∧ decodeList [0x0B029205, 0x9ABCDEF0, 0x12345678] = .ok (.addLiteral ⟨true, 3⟩ 9 10 0x123456789abcdef0, [])
    ∧ decodeList [0x1B5A9204] = .ok (.sub ⟨true, 3⟩ 9 10 11, [])
    ∧ decodeList [0x1B029205, 0x9ABCDEF0, 0x12345678] = .ok (.subLiteral ⟨true, 3⟩ 9 10 0x123456789abcdef0, []) := by
  refine ⟨?_, ?_, ?_, ?_, ?_, ?_, ?_, ?_, ?_, ?_, ?_, ?_⟩ <;> rfl
theorem test_decode_scalar_1 :
    decodeList [0x2B5A9204] = .ok (.mul ⟨true, 3⟩ 9 10 11, [])
    ∧ decodeList [0x2B029205, 0x9ABCDEF0, 0x12345678] = .ok (.mulLiteral ⟨true, 3⟩ 9 10 0x123456789abcdef0, [])
    ∧ decodeList [0x3B5A9204] = .ok (.mulh ⟨true, 3⟩ 9 10 11, [])
    ∧ decodeList [0x3B029205, 0x9ABCDEF0, 0x12345678] = .ok (.mulhLiteral ⟨true, 3⟩ 9 10 0x123456789abcdef0, [])
    ∧ decodeList [0x4B5A9204] = .ok (.div ⟨true, 3⟩ 9 10 11, [])
    ∧ decodeList [0x4B029205, 0x9ABCDEF0, 0x12345678] = .ok (.divLiteral ⟨true, 3⟩ 9 10 0x123456789abcdef0, [])
    ∧ decodeList [0x5B5A9204] = .ok (.rem ⟨true, 3⟩ 9 10 11, [])
    ∧ decodeList [0x5B029205, 0x9ABCDEF0, 0x12345678] = .ok (.remLiteral ⟨true, 3⟩ 9 10 0x123456789abcdef0, [])
    ∧ decodeList [0x6B5A9204] = .ok (.and ⟨true, 3⟩ 9 10 11, [])
    ∧ decodeList [0x6B029205, 0x9ABCDEF0, 0x12345678] = .ok (.andLiteral ⟨true, 3⟩ 9 10 0x123456789abcdef0, [])
    ∧ decodeList [0x7B5A9204] = .ok (.or ⟨true, 3⟩ 9 10 11, [])
    ∧ decodeList [0x7B029205, 0x9ABCDEF0, 0x12345678] = .ok (.orLiteral ⟨true, 3⟩ 9 10 0x123456789abcdef0, []) := by
  refine ⟨?_, ?_, ?_, ?_, ?_, ?_, ?_, ?_, ?_, ?_, ?_, ?_⟩ <;> rfl
theorem test_decode_scalar_2 :
    decodeList [0x8B5A9204] = .ok (.xor ⟨true, 3⟩ 9 10 11, [])
    ∧ decodeList [0x8B029205, 0x9ABCDEF0, 0x12345678] = .ok (.xorLiteral ⟨true, 3⟩ 9 10 0x123456789abcdef0, [])
    ∧ decodeList [0x9B5A9204] = .ok (.andn ⟨true, 3⟩ 9 10 11, [])
    ∧ decodeList [0x9B029205, 0x9ABCDEF0, 0x12345678] = .ok (.andnLiteral ⟨true, 3⟩ 9 10 0x123456789abcdef0, [])
    ∧ decodeList [0xAB5A9204] = .ok (.min ⟨true, 3⟩ 9 10 11, [])
    ∧ decodeList [0xAB029205, 0x9ABCDEF0, 0x12345678] = .ok (.minLiteral ⟨true, 3⟩ 9 10 0x123456789abcdef0, [])
    ∧ decodeList [0xBB5A9204] = .ok (.max ⟨true, 3⟩ 9 10 11, [])
    ∧ decodeList [0xBB029205, 0x9ABCDEF0, 0x12345678] = .ok (.maxLiteral ⟨true, 3⟩ 9 10 0x123456789abcdef0, [])
    ∧ decodeList [0x0B5A9208] = .ok (.addW ⟨true, 3⟩ 9 10 11, [])
    ∧ decodeList [0x0B029209, 0x9ABCDEF0, 0x00000000] = .ok (.addWLiteral ⟨true, 3⟩ 9 10 0x9abcdef0, [])
    ∧ decodeList [0x1B5A9208] = .ok (.subW ⟨true, 3⟩ 9 10 11, [])
    ∧ decodeList [0x1B029209, 0x9ABCDEF0, 0x00000000] = .ok (.subWLiteral ⟨true, 3⟩ 9 10 0x9abcdef0, []) := by
  refine ⟨?_, ?_, ?_, ?_, ?_, ?_, ?_, ?_, ?_, ?_, ?_, ?_⟩ <;> rfl
theorem test_decode_scalar_3 :
    decodeList [0x2B5A9208] = .ok (.mulW ⟨true, 3⟩ 9 10 11, [])
    ∧ decodeList [0x2B029209, 0x9ABCDEF0, 0x00000000] = .ok (.mulWLiteral ⟨true, 3⟩ 9 10 0x9abcdef0, [])
    ∧ decodeList [0x3B5A9208] = .ok (.mulhW ⟨true, 3⟩ 9 10 11, [])
    ∧ decodeList [0x3B029209, 0x9ABCDEF0, 0x00000000] = .ok (.mulhWLiteral ⟨true, 3⟩ 9 10 0x9abcdef0, [])
    ∧ decodeList [0x4B5A9208] = .ok (.divW ⟨true, 3⟩ 9 10 11, [])
    ∧ decodeList [0x4B029209, 0x9ABCDEF0, 0x00000000] = .ok (.divWLiteral ⟨true, 3⟩ 9 10 0x9abcdef0, [])
    ∧ decodeList [0x5B5A9208] = .ok (.remW ⟨true, 3⟩ 9 10 11, [])
    ∧ decodeList [0x5B029209, 0x9ABCDEF0, 0x00000000] = .ok (.remWLiteral ⟨true, 3⟩ 9 10 0x9abcdef0, [])
    ∧ decodeList [0x6B5A9208] = .ok (.andW ⟨true, 3⟩ 9 10 11, [])
    ∧ decodeList [0x6B029209, 0x9ABCDEF0, 0x00000000] = .ok (.andWLiteral ⟨true, 3⟩ 9 10 0x9abcdef0, [])
    ∧ decodeList [0x7B5A9208] = .ok (.orW ⟨true, 3⟩ 9 10 11, [])
    ∧ decodeList [0x7B029209, 0x9ABCDEF0, 0x00000000] = .ok (.orWLiteral ⟨true, 3⟩ 9 10 0x9abcdef0, []) := by
  refine ⟨?_, ?_, ?_, ?_, ?_, ?_, ?_, ?_, ?_, ?_, ?_, ?_⟩ <;> rfl
theorem test_decode_scalar_4 :
    decodeList [0x8B5A9208] = .ok (.xorW ⟨true, 3⟩ 9 10 11, [])
    ∧ decodeList [0x8B029209, 0x9ABCDEF0, 0x00000000] = .ok (.xorWLiteral ⟨true, 3⟩ 9 10 0x9abcdef0, [])
    ∧ decodeList [0x9B5A9208] = .ok (.andnW ⟨true, 3⟩ 9 10 11, [])
    ∧ decodeList [0x9B029209, 0x9ABCDEF0, 0x00000000] = .ok (.andnWLiteral ⟨true, 3⟩ 9 10 0x9abcdef0, [])
    ∧ decodeList [0xAB5A9208] = .ok (.minW ⟨true, 3⟩ 9 10 11, [])
    ∧ decodeList [0xAB029209, 0x9ABCDEF0, 0x00000000] = .ok (.minWLiteral ⟨true, 3⟩ 9 10 0x9abcdef0, [])
    ∧ decodeList [0xBB5A9208] = .ok (.maxW ⟨true, 3⟩ 9 10 11, [])
    ∧ decodeList [0xBB029209, 0x9ABCDEF0, 0x00000000] = .ok (.maxWLiteral ⟨true, 3⟩ 9 10 0x9abcdef0, [])
    ∧ decodeList [0x8B5A920C] = .ok (.shl ⟨true, 3⟩ true 9 10 11, [])
    ∧ decodeList [0x8B02920D, 0x00000013, 0x00000000] = .ok (.shlLiteral ⟨true, 3⟩ true 9 10 0x13, [])
    ∧ decodeList [0x9B5A920C] = .ok (.shr ⟨true, 3⟩ true 9 10 11, [])
    ∧ decodeList [0x9B02920D, 0x00000013, 0x00000000] = .ok (.shrLiteral ⟨true, 3⟩ true 9 10 0x13, []) := by
  refine ⟨?_, ?_, ?_, ?_, ?_, ?_, ?_, ?_, ?_, ?_, ?_, ?_⟩ <;> rfl
theorem test_decode_scalar_5 :
    decodeList [0xAB5A920C] = .ok (.sar ⟨true, 3⟩ true 9 10 11, [])
    ∧ decodeList [0xAB02920D, 0x00000013, 0x00000000] = .ok (.sarLiteral ⟨true, 3⟩ true 9 10 0x13, [])
    ∧ decodeList [0xBB5A920C] = .ok (.rol ⟨true, 3⟩ true 9 10 11, [])
    ∧ decodeList [0xBB02920D, 0x00000013, 0x00000000] = .ok (.rolLiteral ⟨true, 3⟩ true 9 10 0x13, [])
    ∧ decodeList [0xCB02920C] = .ok (.clz ⟨true, 3⟩ true 9 10, [])
    ∧ decodeList [0xDB02920C] = .ok (.ctz ⟨true, 3⟩ true 9 10, [])
    ∧ decodeList [0xEB02920C] = .ok (.popc ⟨true, 3⟩ true 9 10, [])
    ∧ decodeList [0xFB02920C] = .ok (.brev ⟨true, 3⟩ true 9 10, [])
    ∧ decodeList [0x091A9210] = .ok (.addi 9 10 291, [])
    ∧ decodeList [0x00029211, 0x9ABCDEF0, 0x12345678] = .ok (.addiLiteral 9 10 0x123456789abcdef0, [])
    ∧ decodeList [0x09181214] = .ok (.movi 9 291, [])
    ∧ decodeList [0x00001215, 0x9ABCDEF0, 0x12345678] = .ok (.moviLiteral 9 0x123456789abcdef0, []) := by
  refine ⟨?_, ?_, ?_, ?_, ?_, ?_, ?_, ?_, ?_, ?_, ?_, ?_⟩ <;> rfl
theorem test_decode_scalar_6 :
    decodeList [0x3B5A9218] = .ok (.lea ⟨true, 3⟩ 3 9 10 11, [])
    ∧ decodeList [0x3B5A9219, 0x9ABCDEF0, 0x12345678] = .ok (.leaLiteral ⟨true, 3⟩ 3 9 10 11 0x123456789abcdef0, [])
    ∧ decodeList [0x0EAA921C] = .ok (.ext 9 10 7 21, [])
    ∧ decodeList [0x8EAA921C] = .ok (.ins 9 10 7 21, [])
    ∧ decodeList [0x8B5A8A20] = .ok (.cmpEq ⟨true, 3⟩ true 5 10 11, [])
    ∧ decodeList [0x8B028A21, 0x9ABCDEF0, 0x00000000] = .ok (.cmpEqLiteral ⟨true, 3⟩ true 5 10 0x9abcdef0, [])
    ∧ decodeList [0x9B5A8A20] = .ok (.cmpNe ⟨true, 3⟩ true 5 10 11, [])
    ∧ decodeList [0x9B028A21, 0x9ABCDEF0, 0x00000000] = .ok (.cmpNeLiteral ⟨true, 3⟩ true 5 10 0x9abcdef0, [])
    ∧ decodeList [0xAB5A8A20] = .ok (.cmpLt ⟨true, 3⟩ true 5 10 11, [])
    ∧ decodeList [0xAB028A21, 0x9ABCDEF0, 0x00000000] = .ok (.cmpLtLiteral ⟨true, 3⟩ true 5 10 0x9abcdef0, [])
    ∧ decodeList [0xBB5A8A20] = .ok (.cmpGe ⟨true, 3⟩ true 5 10 11, [])
    ∧ decodeList [0xBB028A21, 0x9ABCDEF0, 0x00000000] = .ok (.cmpGeLiteral ⟨true, 3⟩ true 5 10 0x9abcdef0, []) := by
  refine ⟨?_, ?_, ?_, ?_, ?_, ?_, ?_, ?_, ?_, ?_, ?_, ?_⟩ <;> rfl
theorem test_decode_scalar_7 :
    decodeList [0xCB5A8A20] = .ok (.cmpLtu ⟨true, 3⟩ true 5 10 11, [])
    ∧ decodeList [0xCB028A21, 0x9ABCDEF0, 0x00000000] = .ok (.cmpLtuLiteral ⟨true, 3⟩ true 5 10 0x9abcdef0, [])
    ∧ decodeList [0xDB5A8A20] = .ok (.cmpGeu ⟨true, 3⟩ true 5 10 11, [])
    ∧ decodeList [0xDB028A21, 0x9ABCDEF0, 0x00000000] = .ok (.cmpGeuLiteral ⟨true, 3⟩ true 5 10 0x9abcdef0, [])
    ∧ decodeList [0x0B398A24] = .ok (.plogAnd ⟨true, 3⟩ 5 6 7, [])
    ∧ decodeList [0x1B398A24] = .ok (.plogOr ⟨true, 3⟩ 5 6 7, [])
    ∧ decodeList [0x2B398A24] = .ok (.plogXor ⟨true, 3⟩ 5 6 7, [])
    ∧ decodeList [0x3B398A24] = .ok (.plogAndn ⟨true, 3⟩ 5 6 7, [])
    ∧ decodeList [0x4B398A24] = .ok (.plogOrn ⟨true, 3⟩ 5 6 7, [])
    ∧ decodeList [0x5B398A24] = .ok (.plogNand ⟨true, 3⟩ 5 6 7, [])
    ∧ decodeList [0x6B398A24] = .ok (.plogNor ⟨true, 3⟩ 5 6 7, [])
    ∧ decodeList [0x7B398A24] = .ok (.plogXnor ⟨true, 3⟩ 5 6 7, []) := by
  refine ⟨?_, ?_, ?_, ?_, ?_, ?_, ?_, ?_, ?_, ?_, ?_, ?_⟩ <;> rfl
theorem test_decode_scalar_8 :
    decodeList [0xDB5A9228] = .ok (.sel ⟨true, 3⟩ true 5 9 10 11, [])
    ∧ decodeList [0xBB4B4A2C] = .ok (.br ⟨true, 3⟩ 370085, [])
    ∧ decodeList [0x5B246830] = .ok (.call ⟨true, 3⟩ 5 4660, [])
    ∧ decodeList [0x5B000031, 0x12345678, 0x00000000] = .ok (.callLiteral ⟨true, 3⟩ 5 0x12345678, [])
    ∧ decodeList [0x0B000035, 0x12345678, 0x00000000] = .ok (.jmp ⟨true, 3⟩ 0x12345678, [])
    ∧ decodeList [0x5B028038] = .ok (.callx ⟨true, 3⟩ 5 10, [])
    ∧ decodeList [0x0918123C] = .ok (.loop 9 291, []) := by
  refine ⟨?_, ?_, ?_, ?_, ?_, ?_, ?_⟩ <;> rfl
theorem test_decode_memory_0 :
    decodeList [0x091A9240] = .ok (.ldD 9 10 291, [])
    ∧ decodeList [0x00029241, 0x9ABCDEF0, 0x12345678] = .ok (.ldDLiteral 9 10 0x123456789abcdef0, [])
    ∧ decodeList [0x091A9244] = .ok (.ldW 9 10 291, [])
    ∧ decodeList [0x00029245, 0x9ABCDEF0, 0x12345678] = .ok (.ldWLiteral 9 10 0x123456789abcdef0, [])
    ∧ decodeList [0x091A9248] = .ok (.stD 9 10 291, [])
    ∧ decodeList [0x00029249, 0x9ABCDEF0, 0x12345678] = .ok (.stDLiteral 9 10 0x123456789abcdef0, [])
    ∧ decodeList [0x091A924C] = .ok (.stW 9 10 291, [])
    ∧ decodeList [0x0002924D, 0x9ABCDEF0, 0x12345678] = .ok (.stWLiteral 9 10 0x123456789abcdef0, [])
    ∧ decodeList [0x4B5A9250] = .ok (.ldIndexed ⟨true, 3⟩ true 9 10 11, [])
    ∧ decodeList [0x4B5A9253, 0x00000020, 0x30000000, 0x55667788, 0x11223344] = .ok (.ldExtended ⟨true, 3⟩ true 9 10 11 1 3 (some 0x1122334455667788), [])
    ∧ decodeList [0xCB5A9250] = .ok (.stIndexed ⟨true, 3⟩ true 9 10 11, [])
    ∧ decodeList [0xCB5A9253, 0x000000A0, 0x50000000, 0x55667788, 0x11223344] = .ok (.stExtended ⟨true, 3⟩ true 9 10 11 5 5 (some 0x1122334455667788), []) := by
  refine ⟨?_, ?_, ?_, ?_, ?_, ?_, ?_, ?_, ?_, ?_, ?_, ?_⟩ <;> rfl
theorem test_decode_memory_1 :
    decodeList [0x1B029254] = .ok (.lr ⟨true, 3⟩ true 9 10, [])
    ∧ decodeList [0x1B029256, 0x00000000, 0x30000000] = .ok (.lrExtended ⟨true, 3⟩ true 9 10 3, [])
    ∧ decodeList [0x3B5A9254] = .ok (.sc ⟨true, 3⟩ true 9 10 11, [])
    ∧ decodeList [0x3B5A9256, 0x00000000, 0x50000000] = .ok (.scExtended ⟨true, 3⟩ true 9 10 11 5, [])
    ∧ decodeList [0x8B5A9258] = .ok (.amoAdd ⟨true, 3⟩ true 9 10 11, [])
    ∧ decodeList [0x8B5A925A, 0x000000A0, 0x70000000] = .ok (.amoAddExtended ⟨true, 3⟩ true 9 10 11 5 7, [])
    ∧ decodeList [0x9B5A9258] = .ok (.amoAnd ⟨true, 3⟩ true 9 10 11, [])
    ∧ decodeList [0x9B5A925A, 0x000000A0, 0x70000000] = .ok (.amoAndExtended ⟨true, 3⟩ true 9 10 11 5 7, [])
    ∧ decodeList [0xAB5A9258] = .ok (.amoOr ⟨true, 3⟩ true 9 10 11, [])
    ∧ decodeList [0xAB5A925A, 0x000000A0, 0x70000000] = .ok (.amoOrExtended ⟨true, 3⟩ true 9 10 11 5 7, [])
    ∧ decodeList [0xBB5A9258] = .ok (.amoXor ⟨true, 3⟩ true 9 10 11, [])
    ∧ decodeList [0xBB5A925A, 0x000000A0, 0x70000000] = .ok (.amoXorExtended ⟨true, 3⟩ true 9 10 11 5 7, []) := by
  refine ⟨?_, ?_, ?_, ?_, ?_, ?_, ?_, ?_, ?_, ?_, ?_, ?_⟩ <;> rfl
theorem test_decode_memory_2 :
    decodeList [0xCB5A9258] = .ok (.amoMin ⟨true, 3⟩ true 9 10 11, [])
    ∧ decodeList [0xCB5A925A, 0x000000A0, 0x70000000] = .ok (.amoMinExtended ⟨true, 3⟩ true 9 10 11 5 7, [])
    ∧ decodeList [0xDB5A9258] = .ok (.amoMax ⟨true, 3⟩ true 9 10 11, [])
    ∧ decodeList [0xDB5A925A, 0x000000A0, 0x70000000] = .ok (.amoMaxExtended ⟨true, 3⟩ true 9 10 11 5 7, [])
    ∧ decodeList [0xEB5A9258] = .ok (.amoSwap ⟨true, 3⟩ true 9 10 11, [])
    ∧ decodeList [0xEB5A925A, 0x000000A0, 0x70000000] = .ok (.amoSwapExtended ⟨true, 3⟩ true 9 10 11 5 7, [])
    ∧ decodeList [0x1B5A925C] = .ok (.cas ⟨true, 3⟩ true 9 10 11, [])
    ∧ decodeList [0x1B5A925E, 0x000000A0, 0x70000000] = .ok (.casExtended ⟨true, 3⟩ true 9 10 11 5 7, [])
    ∧ decodeList [0x3B002A60] = .ok (.fence ⟨true, 3⟩ 3 21, [])
    ∧ decodeList [0x0B029264] = .ok (.waitrs ⟨true, 3⟩ 9 10, [])
    ∧ decodeList [0x6B5A9268] = .ok (.sld ⟨true, 3⟩ 6 9 10 11, [])
    ∧ decodeList [0x6B5A926B, 0x00000100, 0x10000000, 0x55667788, 0x11223344] = .ok (.sldExtended ⟨true, 3⟩ 6 9 10 11 true 1 (some 0x1122334455667788), []) := by
  refine ⟨?_, ?_, ?_, ?_, ?_, ?_, ?_, ?_, ?_, ?_, ?_, ?_⟩ <;> rfl
theorem test_decode_memory_3 :
    decodeList [0x6B5A926C] = .ok (.sst ⟨true, 3⟩ 6 9 10 11, [])
    ∧ decodeList [0x6B5A926F, 0x00000100, 0x10000000, 0x55667788, 0x11223344] = .ok (.sstExtended ⟨true, 3⟩ 6 9 10 11 true 1 (some 0x1122334455667788), [])
    ∧ decodeList [0x6B5A9273, 0x0800010D, 0x50000000, 0x55667788, 0x11223344] = .ok (.samo ⟨true, 3⟩ 6 9 10 11 4 true 5 13 (some 0x1122334455667788), [])
    ∧ decodeList [0x0B5A8074] = .ok (.cinv ⟨true, 3⟩ 10 11, [])
    ∧ decodeList [0x1B000074] = .ok (.cinvAll ⟨true, 3⟩, []) := by
  refine ⟨?_, ?_, ?_, ?_, ?_⟩ <;> rfl
theorem test_decode_vector_0 :
    decodeList [0x0B5A9280] = .ok (.vadd ⟨true, 3⟩ 9 10 11, [])
    ∧ decodeList [0x0B5A9282, 0x00004800, 0x00000000] = .ok (.vaddExtended ⟨true, 3⟩ 9 10 11 18, [])
    ∧ decodeList [0x1B5A9280] = .ok (.vsub ⟨true, 3⟩ 9 10 11, [])
    ∧ decodeList [0x1B5A9282, 0x00004800, 0x00000000] = .ok (.vsubExtended ⟨true, 3⟩ 9 10 11 18, [])
    ∧ decodeList [0x2B5A9280] = .ok (.vmul ⟨true, 3⟩ 9 10 11, [])
    ∧ decodeList [0x2B5A9282, 0x00004800, 0x00000000] = .ok (.vmulExtended ⟨true, 3⟩ 9 10 11 18, [])
    ∧ decodeList [0x3B5A9280] = .ok (.vmin ⟨true, 3⟩ 9 10 11, [])
    ∧ decodeList [0x3B5A9282, 0x00004800, 0x00000000] = .ok (.vminExtended ⟨true, 3⟩ 9 10 11 18, [])
    ∧ decodeList [0x4B5A9280] = .ok (.vmax ⟨true, 3⟩ 9 10 11, [])
    ∧ decodeList [0x4B5A9282, 0x00004800, 0x00000000] = .ok (.vmaxExtended ⟨true, 3⟩ 9 10 11 18, [])
    ∧ decodeList [0x5B029280] = .ok (.vabs ⟨true, 3⟩ 9 10, [])
    ∧ decodeList [0x5B029282, 0x00004800, 0x00000000] = .ok (.vabsExtended ⟨true, 3⟩ 9 10 18, []) := by
  refine ⟨?_, ?_, ?_, ?_, ?_, ?_, ?_, ?_, ?_, ?_, ?_, ?_⟩ <;> rfl
theorem test_decode_vector_1 :
    decodeList [0x6B029280] = .ok (.vneg ⟨true, 3⟩ 9 10, [])
    ∧ decodeList [0x6B029282, 0x00004800, 0x00000000] = .ok (.vnegExtended ⟨true, 3⟩ 9 10 18, [])
    ∧ decodeList [0x7B029280] = .ok (.vrcp ⟨true, 3⟩ 9 10, [])
    ∧ decodeList [0x7B029282, 0x00004800, 0x00000000] = .ok (.vrcpExtended ⟨true, 3⟩ 9 10 18, [])
    ∧ decodeList [0x8B029280] = .ok (.vrsq ⟨true, 3⟩ 9 10, [])
    ∧ decodeList [0x8B029282, 0x00004800, 0x00000000] = .ok (.vrsqExtended ⟨true, 3⟩ 9 10 18, [])
    ∧ decodeList [0x9B029280] = .ok (.vex2 ⟨true, 3⟩ 9 10, [])
    ∧ decodeList [0x9B029282, 0x00004800, 0x00000000] = .ok (.vex2Extended ⟨true, 3⟩ 9 10 18, [])
    ∧ decodeList [0xAB029280] = .ok (.vlg2 ⟨true, 3⟩ 9 10, [])
    ∧ decodeList [0xAB029282, 0x00004800, 0x00000000] = .ok (.vlg2Extended ⟨true, 3⟩ 9 10 18, [])
    ∧ decodeList [0xBB029280] = .ok (.vsqrt ⟨true, 3⟩ 9 10, [])
    ∧ decodeList [0xBB029282, 0x00004800, 0x00000000] = .ok (.vsqrtExtended ⟨true, 3⟩ 9 10 18, []) := by
  refine ⟨?_, ?_, ?_, ?_, ?_, ?_, ?_, ?_, ?_, ?_, ?_, ?_⟩ <;> rfl
theorem test_decode_vector_2 :
    decodeList [0x0B5A9284] = .ok (.vfma ⟨true, 3⟩ 9 10 11, [])
    ∧ decodeList [0x0B5A9286, 0x00004800, 0x00000000] = .ok (.vfmaExtended ⟨true, 3⟩ 9 10 11 18, [])
    ∧ decodeList [0x1B5A9284] = .ok (.vfms ⟨true, 3⟩ 9 10 11, [])
    ∧ decodeList [0x1B5A9286, 0x00004800, 0x00000000] = .ok (.vfmsExtended ⟨true, 3⟩ 9 10 11 18, [])
    ∧ decodeList [0x0B02928A, 0x0004CC00, 0x00000000] = .ok (.vcvt ⟨true, 3⟩ 9 10 19 9 0 0, [])
    ∧ decodeList [0x0B5A8A8C] = .ok (.vcmpFeq ⟨true, 3⟩ 5 10 11, [])
    ∧ decodeList [0x0B5A8A8E, 0x02004800, 0x00000000] = .ok (.vcmpFeqExtended ⟨true, 3⟩ 5 10 11 18 true, [])
    ∧ decodeList [0x1B5A8A8C] = .ok (.vcmpFne ⟨true, 3⟩ 5 10 11, [])
    ∧ decodeList [0x1B5A8A8E, 0x02004800, 0x00000000] = .ok (.vcmpFneExtended ⟨true, 3⟩ 5 10 11 18 true, [])
    ∧ decodeList [0x2B5A8A8C] = .ok (.vcmpFlt ⟨true, 3⟩ 5 10 11, [])
    ∧ decodeList [0x2B5A8A8E, 0x02004800, 0x00000000] = .ok (.vcmpFltExtended ⟨true, 3⟩ 5 10 11 18 true, [])
    ∧ decodeList [0x3B5A8A8C] = .ok (.vcmpFle ⟨true, 3⟩ 5 10 11, []) := by
  refine ⟨?_, ?_, ?_, ?_, ?_, ?_, ?_, ?_, ?_, ?_, ?_, ?_⟩ <;> rfl
theorem test_decode_vector_3 :
    decodeList [0x3B5A8A8E, 0x02004800, 0x00000000] = .ok (.vcmpFleExtended ⟨true, 3⟩ 5 10 11 18 true, [])
    ∧ decodeList [0x4B5A8A8C] = .ok (.vcmpFunord ⟨true, 3⟩ 5 10 11, [])
    ∧ decodeList [0x4B5A8A8E, 0x02004800, 0x00000000] = .ok (.vcmpFunordExtended ⟨true, 3⟩ 5 10 11 18 true, [])
    ∧ decodeList [0x8B5A8A8C] = .ok (.vcmpIeq ⟨true, 3⟩ 5 10 11, [])
    ∧ decodeList [0x9B5A8A8C] = .ok (.vcmpIne ⟨true, 3⟩ 5 10 11, [])
    ∧ decodeList [0xAB5A8A8C] = .ok (.vcmpIlt ⟨true, 3⟩ 5 10 11, [])
    ∧ decodeList [0xBB5A8A8C] = .ok (.vcmpIle ⟨true, 3⟩ 5 10 11, [])
    ∧ decodeList [0xCB5A8A8C] = .ok (.vcmpIltu ⟨true, 3⟩ 5 10 11, [])
    ∧ decodeList [0xDB5A8A8C] = .ok (.vcmpIleu ⟨true, 3⟩ 5 10 11, [])
    ∧ decodeList [0xDB5A9290] = .ok (.vsel ⟨true, 3⟩ true 5 9 10 11, [])
    ∧ decodeList [0x0B5A9294] = .ok (.vand ⟨true, 3⟩ 9 10 11, [])
    ∧ decodeList [0x1B5A9294] = .ok (.vor ⟨true, 3⟩ 9 10 11, []) := by
  refine ⟨?_, ?_, ?_, ?_, ?_, ?_, ?_, ?_, ?_, ?_, ?_, ?_⟩ <;> rfl
theorem test_decode_vector_4 :
    decodeList [0x2B5A9294] = .ok (.vxor ⟨true, 3⟩ 9 10 11, [])
    ∧ decodeList [0x3B5A9294] = .ok (.vshl ⟨true, 3⟩ 9 10 11, [])
    ∧ decodeList [0x4B5A9294] = .ok (.vshr ⟨true, 3⟩ 9 10 11, [])
    ∧ decodeList [0x5B5A9294] = .ok (.viadd ⟨true, 3⟩ 9 10 11, [])
    ∧ decodeList [0x6B5A9294] = .ok (.vimul ⟨true, 3⟩ 9 10 11, [])
    ∧ decodeList [0x0B5A9298] = .ok (.vperm ⟨true, 3⟩ 9 10 11, [])
    ∧ decodeList [0x1B029298] = .ok (.vbcast ⟨true, 3⟩ 9 10, [])
    ∧ decodeList [0x2B5A9298] = .ok (.vextr ⟨true, 3⟩ 9 10 11, [])
    ∧ decodeList [0x3B5A9298] = .ok (.vins ⟨true, 3⟩ 9 10 11, [])
    ∧ decodeList [0x0B02929C] = .ok (.vredFadd ⟨true, 3⟩ 9 10, [])
    ∧ decodeList [0x0B02929E, 0x00004800, 0x00000000] = .ok (.vredFaddExtended ⟨true, 3⟩ 9 10 18, [])
    ∧ decodeList [0x1B02929C] = .ok (.vredFmin ⟨true, 3⟩ 9 10, []) := by
  refine ⟨?_, ?_, ?_, ?_, ?_, ?_, ?_, ?_, ?_, ?_, ?_, ?_⟩ <;> rfl
theorem test_decode_vector_5 :
    decodeList [0x1B02929E, 0x00004800, 0x00000000] = .ok (.vredFminExtended ⟨true, 3⟩ 9 10 18, [])
    ∧ decodeList [0x2B02929C] = .ok (.vredFmax ⟨true, 3⟩ 9 10, [])
    ∧ decodeList [0x2B02929E, 0x00004800, 0x00000000] = .ok (.vredFmaxExtended ⟨true, 3⟩ 9 10 18, [])
    ∧ decodeList [0x3B02929C] = .ok (.vredIadd ⟨true, 3⟩ 9 10, [])
    ∧ decodeList [0x4B02929C] = .ok (.vredImin ⟨true, 3⟩ 9 10, [])
    ∧ decodeList [0x5B02929C] = .ok (.vredImax ⟨true, 3⟩ 9 10, [])
    ∧ decodeList [0x0B5A92A0] = .ok (.vdotS8 ⟨true, 3⟩ 9 10 11, [])
    ∧ decodeList [0x1B5A92A0] = .ok (.vdotU8s8 ⟨true, 3⟩ 9 10 11, [])
    ∧ decodeList [0x2B5A92A0] = .ok (.vdotF16 ⟨true, 3⟩ 9 10 11, [])
    ∧ decodeList [0x3B5A92A0] = .ok (.vdotBf16 ⟨true, 3⟩ 9 10 11, [])
    ∧ decodeList [0x0B5A92A4] = .ok (.vld ⟨true, 3⟩ 9 10 11, [])
    ∧ decodeList [0x0B5A92A7, 0x00000060, 0x10000000, 0x55667788, 0x11223344] = .ok (.vldExtended ⟨true, 3⟩ 9 10 11 3 1 (some 0x1122334455667788), []) := by
  refine ⟨?_, ?_, ?_, ?_, ?_, ?_, ?_, ?_, ?_, ?_, ?_, ?_⟩ <;> rfl
theorem test_decode_vector_6 :
    decodeList [0x1B5A92A4] = .ok (.vst ⟨true, 3⟩ 9 10 11, [])
    ∧ decodeList [0x1B5A92A7, 0x00000020, 0x10000000, 0x55667788, 0x11223344] = .ok (.vstExtended ⟨true, 3⟩ 9 10 11 1 1 (some 0x1122334455667788), [])
    ∧ decodeList [0x0B5A92A8] = .ok (.vgath ⟨true, 3⟩ 9 10 11, [])
    ∧ decodeList [0x0B5A92AA, 0x000000A0, 0x10000000] = .ok (.vgathExtended ⟨true, 3⟩ 9 10 11 5 1, [])
    ∧ decodeList [0x1B5A92A8] = .ok (.vscat ⟨true, 3⟩ 9 10 11, [])
    ∧ decodeList [0x1B5A92AA, 0x00000060, 0x10000000] = .ok (.vscatExtended ⟨true, 3⟩ 9 10 11 3 1, [])
    ∧ decodeList [0x0B0292AC] = .ok (.valloc ⟨true, 3⟩ 9 10, [])
    ∧ decodeList [0x1B0280AC] = .ok (.vfree ⟨true, 3⟩ 10, []) := by
  refine ⟨?_, ?_, ?_, ?_, ?_, ?_, ?_, ?_⟩ <;> rfl
theorem test_decode_tile_0 :
    decodeList [0x0B0292C0] = .ok (.tcfg ⟨true, 3⟩ 9 10, [])
    ∧ decodeList [0x1B0292C0] = .ok (.tcfgr ⟨true, 3⟩ 9 10, [])
    ∧ decodeList [0x2B0012C0] = .ok (.tzero ⟨true, 3⟩ 9, [])
    ∧ decodeList [0x3B0292C0] = .ok (.tmov ⟨true, 3⟩ 9 10, [])
    ∧ decodeList [0x4B0292C0] = .ok (.tconj ⟨true, 3⟩ 9 10, [])
    ∧ decodeList [0x5B0292C0] = .ok (.txp ⟨true, 3⟩ 9 10, [])
    ∧ decodeList [0x6B0292C0] = .ok (.tnorm ⟨true, 3⟩ 9 10, [])
    ∧ decodeList [0x0B5A92C4] = .ok (.tld ⟨true, 3⟩ 9 10 11, [])
    ∧ decodeList [0x0B5A92C7, 0x02000040, 0x00000000, 0x55667788, 0x11223344] = .ok (.tldExtended ⟨true, 3⟩ 9 10 11 2 true (some 0x1122334455667788), [])
    ∧ decodeList [0x1B5A92C4] = .ok (.tst ⟨true, 3⟩ 9 10 11, [])
    ∧ decodeList [0x1B5A92C7, 0x02000080, 0x00000000, 0x55667788, 0x11223344] = .ok (.tstExtended ⟨true, 3⟩ 9 10 11 4 true (some 0x1122334455667788), [])
    ∧ decodeList [0x7B5A92C8] = .ok (.mma ⟨true, 3⟩ true true true 9 10 11, []) := by
  refine ⟨?_, ?_, ?_, ?_, ?_, ?_, ?_, ?_, ?_, ?_, ?_, ?_⟩ <;> rfl
theorem test_decode_tile_1 :
    decodeList [0x7B5A92CA, 0x0000008D, 0x00000000] = .ok (.mmaCbuf ⟨true, 3⟩ true true true 9 10 11 13, [])
    ∧ decodeList [0x0B5A92CC] = .ok (.tsca ⟨true, 3⟩ 9 10 11, [])
    ∧ decodeList [0x1B5A92CC] = .ok (.qnt ⟨true, 3⟩ 9 10 11, [])
    ∧ decodeList [0x2B5A92CC] = .ok (.dqnt ⟨true, 3⟩ 9 10 11, [])
    ∧ decodeList [0x0B028AD0] = .ok (.talg ⟨true, 3⟩ 5 10, []) := by
  refine ⟨?_, ?_, ?_, ?_, ?_⟩ <;> rfl
theorem test_decode_ray_0 :
    decodeList [0x0B5A92E0] = .ok (.boxv ⟨true, 3⟩ 9 10 11, [])
    ∧ decodeList [0x0B5A92E2, 0x00000020, 0x00000000] = .ok (.boxvExtended ⟨true, 3⟩ 9 10 11 1, [])
    ∧ decodeList [0x1B5A92E0] = .ok (.trix ⟨true, 3⟩ 9 10 11, [])
    ∧ decodeList [0x1B5A92E2, 0x00000020, 0x00000000] = .ok (.trixExtended ⟨true, 3⟩ 9 10 11 1, [])
    ∧ decodeList [0x2B5A92E0] = .ok (.splt ⟨true, 3⟩ 9 10 11, [])
    ∧ decodeList [0x2B5A92E2, 0x00000000, 0x00000000] = .ok (.spltExtended ⟨true, 3⟩ 9 10 11 0, [])
    ∧ decodeList [0x3B5A92E0] = .ok (.volseg ⟨true, 3⟩ 9 10 11, [])
    ∧ decodeList [0x3B5A92E2, 0x00000020, 0x00000000] = .ok (.volsegExtended ⟨true, 3⟩ 9 10 11 1, [])
    ∧ decodeList [0x0B5A92E4] = .ok (.ivmake ⟨true, 3⟩ 9 10 11, [])
    ∧ decodeList [0x1B0280E4] = .ok (.ivins ⟨true, 3⟩ 10, [])
    ∧ decodeList [0x2B0292E4] = .ok (.ivget ⟨true, 3⟩ 9 10, [])
    ∧ decodeList [0x3B3812E4] = .ok (.ivqry ⟨true, 3⟩ 9 7, []) := by
  refine ⟨?_, ?_, ?_, ?_, ?_, ?_, ?_, ?_, ?_, ?_, ?_, ?_⟩ <;> rfl
theorem test_decode_ray_1 :
    decodeList [0x4B0280E4] = .ok (.ivcut ⟨true, 3⟩ 10, [])
    ∧ decodeList [0x5B0000E4] = .ok (.ivclr ⟨true, 3⟩, [])
    ∧ decodeList [0x6B0012E4] = .ok (.ivcomp ⟨true, 3⟩ 9, [])
    ∧ decodeList [0x7B0280E4] = .ok (.ivcfg ⟨true, 3⟩ 10, []) := by
  refine ⟨?_, ?_, ?_, ?_⟩ <;> rfl
theorem test_decode_engine_0 :
    decodeList [0x0B001300] = .ok (.recvw ⟨true, 3⟩ 9, [])
    ∧ decodeList [0x1B028100] = .ok (.migr ⟨true, 3⟩ 10, [])
    ∧ decodeList [0x2B5A8B00] = .ok (.spawn ⟨true, 3⟩ 5 10 11, [])
    ∧ decodeList [0x3B028100] = .ok (.cdec ⟨true, 3⟩ 10, [])
    ∧ decodeList [0x4B000100] = .ok (.hintsucc ⟨true, 3⟩, [])
    ∧ decodeList [0x5B000100] = .ok (.waitpred ⟨true, 3⟩, [])
    ∧ decodeList [0x0B5A8104] = .ok (.enq ⟨true, 3⟩ 10 11, [])
    ∧ decodeList [0x1B029304] = .ok (.deq ⟨true, 3⟩ 9 10, [])
    ∧ decodeList [0x0B001308] = .ok (.taskget ⟨true, 3⟩ 9, [])
    ∧ decodeList [0x0B00010C] = .ok (.bar ⟨true, 3⟩, [])
    ∧ decodeList [0x0B5A8110] = .ok (.semw ⟨true, 3⟩ 10 11, [])
    ∧ decodeList [0x1B5A8110] = .ok (.sems ⟨true, 3⟩ 10 11, []) := by
  refine ⟨?_, ?_, ?_, ?_, ?_, ?_, ?_, ?_, ?_, ?_, ?_, ?_⟩ <;> rfl
theorem test_decode_engine_1 :
    decodeList [0x0B5A9317, 0x5010002A, 0x93445566, 0x55667788, 0x11223344] = .ok (.copy ⟨true, 3⟩ 9 10 11 ⟨true, false, true, 1, 0, 0, 0, 0x2a, 9, 3, 0x44, 0x55, 0x66⟩ (some 0x1122334455667788), [])
    ∧ decodeList [0x0B5A931B, 0x60194C6A, 0x93445566, 0x55667788, 0x11223344] = .ok (.getx ⟨true, 3⟩ 9 10 11 ⟨true, true, false, 1, 18, 19, 1, 0x2a, 9, 3, 0x44, 0x55, 0x66⟩ (some 0x1122334455667788), [])
    ∧ decodeList [0x0B5A931E, 0x60194C6A, 0x93445566] = .ok (.putx ⟨true, 3⟩ 9 10 11 ⟨true, true, false, 1, 18, 19, 1, 0x2a, 9, 3, 0x44, 0x55, 0x66⟩, [])
    ∧ decodeList [0x0B028122, 0x0000002A, 0x03445566] = .ok (.coll ⟨true, 3⟩ 10 ⟨false, false, false, 0, 0, 0, 0, 0x2a, 0, 3, 0x44, 0x55, 0x66⟩, [])
    ∧ decodeList [0x0B028124] = .ok (.tagwAll ⟨true, 3⟩ 10, [])
    ∧ decodeList [0x0B000125, 0x9ABCDEF0, 0x12345678] = .ok (.tagwAllLiteral ⟨true, 3⟩ 0x123456789abcdef0, [])
    ∧ decodeList [0x1B028124] = .ok (.tagwAny ⟨true, 3⟩ 10, [])
    ∧ decodeList [0x1B000125, 0x9ABCDEF0, 0x12345678] = .ok (.tagwAnyLiteral ⟨true, 3⟩ 0x123456789abcdef0, [])
    ∧ decodeList [0x2B001324] = .ok (.tagf ⟨true, 3⟩ 9, [])
    ∧ decodeList [0x0B5A8B28] = .ok (.xreqLayout ⟨true, 3⟩ 5 10 11, [])
    ∧ decodeList [0x1B5A8B28] = .ok (.xreqQuant ⟨true, 3⟩ 5 10 11, [])
    ∧ decodeList [0x2B5A8B28] = .ok (.xreqCksum ⟨true, 3⟩ 5 10 11, []) := by
  refine ⟨?_, ?_, ?_, ?_, ?_, ?_, ?_, ?_, ?_, ?_, ?_, ?_⟩ <;> rfl
theorem test_decode_system_0 :
    decodeList [0x0B980140] = .ok (.trap ⟨true, 3⟩ 19, [])
    ∧ decodeList [0x1B000140] = .ok (.eret ⟨true, 3⟩, [])
    ∧ decodeList [0x00881344] = .ok (.sysr 9 17, [])
    ∧ decodeList [0x008A8148] = .ok (.sysw 10 17, [])
    ∧ decodeList [0x0B5A814C] = .ok (.stab ⟨true, 3⟩ 10 11, [])
    ∧ decodeList [0x0B028150] = .ok (.tlbi ⟨true, 3⟩ 10, [])
    ∧ decodeList [0x1B000150] = .ok (.tlbiAll ⟨true, 3⟩, [])
    ∧ decodeList [0x0B028154] = .ok (.preempt ⟨true, 3⟩ 10, [])
    ∧ decodeList [0x1B028154] = .ok (.ctxsave ⟨true, 3⟩ 10, [])
    ∧ decodeList [0x2B028154] = .ok (.ctxload ⟨true, 3⟩ 10, []) := by
  refine ⟨?_, ?_, ?_, ?_, ?_, ?_, ?_, ?_, ?_, ?_⟩ <;> rfl


/-! ### Events of strands and of memory -/

theorem witness_StrandEvents_stall : let st := { st0 with wait := some ⟨.portSend, 0⟩ }
    let s : State := { s0.setMe st with clock := 2 ^ 25 }
    s.strand? 0 = some st ∧ (s.launch? 0 0).map (fun l => decide (0 + l.stall < s.clock)) = some true := ⟨by rfl, by decide +kernel⟩
theorem witness_StrandEvents_within : let st := { st0 with wait := some ⟨.enqFull, 0⟩ }
    (s0.setMe st).strand? 0 = some st ∧ ((s0.setMe st).launch? 0 0).map (fun l => decide ((s0.setMe st).clock ≤ 0 + l.stall)) = some true := ⟨by rfl, by decide +kernel⟩
/-- A strand waits on its reservation until cycle 100. -/
def s0waitrs (clock : Nat) : State := { s0resv false with slots := [(0, { st0 with wait := some ⟨.waitrs 100, 0⟩, held := some (.waitrs .always 10 8) })], clock := clock }
theorem witness_StrandEvents_waitrs : (s0waitrs 100).strand? 0 = some { st0 with wait := some ⟨.waitrs 100, 0⟩, held := some (.waitrs .always 10 8) }
    ∧ (s0waitrs 100).reservation { st0 with wait := some ⟨.waitrs 100, 0⟩ } = some ⟨0, 0, 0, 0, 0x1400, 0x50000, 8, 0, false, 0⟩ ∧ Reservation.isLost ⟨0, 0, 0, 0, 0x1400, 0x50000, 8, 0, false, 0⟩ = false
    ∧ Reservation.memType ⟨0, 0, 0, 0, 0x1400, 0x50000, 8, 0, false, 0⟩ ≠ 4 ∧ st0.wcbuf = none ∧ st0.allows .always = true ∧ st0.cdl = false
    ∧ readSources { st0 with wait := some ⟨.waitrs 100, 0⟩, held := some (.waitrs .always 10 8) } { s0waitrs 100 with actor := 0 } [8] (some 10) = .ok ([5], { s0waitrs 100 with actor := 0 })
    ∧ 0 + (5 : BitVec 64).toNat % 2 ^ 32 ≤ (s0waitrs 100).clock
    ∧ 100 ≤ (s0waitrs 100).clock ∧ (s0waitrs 99).clock < 100 := ⟨by rfl, by rfl, by decide, by decide, by rfl, by rfl, by rfl, by rfl, by decide, by decide, by decide⟩
theorem test_waitrs_deadline : (seenAfter (exec (.waitrsTimeout 0) (s0waitrs 100)) 10, seenAfter (exec (.waitrsTimeout 0) (s0waitrs 99)) 10) = (some (1, 0x30004), some (64, 0x30000)) := by decide +kernel
theorem test_reservation_limit : ((after (exec (.reservationInstructionLimit 0) { s0 with resv := [⟨0, 0, 0, 0, 0x1400, 0x50000, 8, 33, false, 0⟩] })).resv.map Reservation.lost,
    (after (exec (.reservationInstructionLimit 0) { s0 with resv := [⟨0, 0, 0, 0, 0x1400, 0x50000, 8, 32, false, 0⟩] })).resv.map Reservation.lost) = ([true], [false]) := by decide +kernel
/-- A strand that yielded at cycle 0. -/
def s0yield (clock : Nat) : State := { s0.setMe { st0 with yielded := some (0, []) } with clock := clock }
theorem witness_StrandEvents_yield : (s0yield 16).strand? 0 = some { st0 with yielded := some (0, []) } ∧ 0 + 16 ≤ (s0yield 16).clock ∧ (s0yield 15).clock < 0 + 16 := ⟨by rfl, by decide, by decide⟩
theorem test_yield : ((after (exec (.yieldExpiry 0) (s0yield 16))).me?.map Strand.yielded, (after (exec (.yieldExpiry 0) (s0yield 15))).me?.map Strand.yielded) = (some none, some (some (0, []))) := by decide +kernel
/-- A strand with a trap to take, and one that has yet to perform an access. -/
def stTrap : Strand := { st0 with trapPend := some (mkTrap 0x09 0) }
theorem witness_StrandEvents_trap : (s0.setMe stTrap).strand? 0 = some stTrap ∧ stTrap.trapPend = some (mkTrap 0x09 0) ∧ stTrap.wcbuf = none ∧ stTrap.window = []
    ∧ ({ stTrap with window := (stBusy).window } : Strand).window ≠ [] := ⟨by rfl, by rfl, by rfl, by rfl, by decide +kernel⟩
theorem test_trap_delivery : (after (exec (.trapDelivery 0) (s0.setMe stTrap))).me?.map (fun u => (u.pc, u.epc, u.cause)) = some (0x40000, 0x30000, 0x0009) := by decide +kernel
/-- A strand that has executed HALT, alone or with a tag of its own not READY. -/
def stHalt : Strand := { st0 with halting := true }
def s0halt (tag : Bool) : State :=
  if tag then (s0.setMe stHalt).setCell 0 { s0.cell 0 with tagReady := 0xFFFFFFFFFFFFFFFE, tagOwner := [(0, 1)], tagSlot := [(0, 0)] } else s0.setMe stHalt
theorem witness_StrandEvents_end : (s0halt false).strand? 0 = some stHalt ∧ stHalt.halting = true ∧ stHalt.window = [] ∧ stHalt.wcbuf = none ∧ (s0halt false).canEnd 0 stHalt = true
    ∧ stHalt.held = none ∧ (s0halt true).canEnd 0 stHalt = false ∧ (s0halt true).strand? 0 = some stHalt := ⟨by rfl, by rfl, by rfl, by rfl, by decide +kernel, by rfl, by decide +kernel, by rfl⟩
/-- A strand whose HALT waited while an earlier store met poison. -/
def stHaltPoison : Strand := { stHalt with held := some (.halt .always), poison := [(.none, 0x50000)] }
theorem witness_StrandEvents_poison : (s0.setMe stHaltPoison).strand? 0 = some stHaltPoison ∧ stHaltPoison.halting = true ∧ stHaltPoison.window = [] ∧ stHaltPoison.wcbuf = none ∧ stHaltPoison.held ≠ none
    ∧ stHaltPoison.poison = [(.none, 0x50000)] := ⟨by rfl, by rfl, by rfl, by rfl, nofun, by rfl⟩
theorem test_halt_poison : (after (exec (.strandEnd 0) (s0.setMe stHaltPoison))).me?.map (fun u => (u.cause, u.faddr)) = some (0x0406, 0x50000) := by decide +kernel
theorem witness_StrandEvents_crew : ((s0halt false).crew? stHalt.part stHalt.launch stHalt.crew).isSome = true := by decide +kernel
theorem test_strand_end : (let t := after (exec (.strandEnd 0) (s0halt false))
    (t.me?.isNone, (t.crew? 0 0 0).map Crew.m)) = (true, some 0) := by decide +kernel
theorem test_strand_end_waits : (after (exec (.strandEnd 0) (s0halt true))).me?.isSome = true := by decide +kernel
/-- Semaphore 5 holds 7; a strand and then a hart wait on it. -/
def s0waiter (who : Agent) (cmd : Nat) : State :=
  (s0.setCluster 0 { s0.cluster 0 with sems := [(5, 7)], semWaiters := [⟨5, who, cmd, 7⟩] }).setHart 0 ⟨[cmd0], []⟩
theorem witness_StrandEvents_semaphore : ((s0waiter (.slot 0) 0).cluster 0).ripe 5 = some ⟨5, .slot 0, 0, 7⟩ ∧ (s0waiter (.slot 0) 0).strand? 0 = some st0
    ∧ ((s0waiter (.hart 0) 3).cluster 0).ripe 5 = some ⟨5, .hart 0, 3, 7⟩ ∧ ((s0waiter (.hart 0) 3).hart 0).queue = [cmd0] := ⟨by rfl, by rfl, by rfl, by rfl⟩
theorem test_semaphore_step : (let t := after (exec (.semaphoreWaitStep 0 5) (s0waiter (.slot 0) 0))
    (t.me?.map Strand.pc, (t.cluster 0).sem 5, (t.cluster 0).semWaiters)) = (some 0x30004, 0, []) := by decide +kernel
/-- The waiting command gets the semaphore wherever it now stands in its queue (R312). -/
theorem test_semaphore_hart : [3, 8].map (fun n => ((after (exec (.semaphoreWaitStep 0 5) ((s0waiter (.hart 0) n).setHart 0 ⟨[{ cmd0 with id := 8, waited := false }, { cmd0 with waited := false }], []⟩))).hart 0).queue.map
    Command.waited) = [[false, true], [true, false]] := by decide +kernel
theorem witness_StrandEvents_parity : s0.strand? 0 = some st0 ∧ (s0.part? st0.part).isSome = true ∧ s0.canEnd 0 st0 = true := ⟨me0, by decide +kernel, by decide +kernel⟩
theorem test_parity : (let t := after (exec (.parityError 0) s0)
    (t.me?.isNone, (t.cluster 0).corr, (t.part? 0).map fun x => x.errs.length)) = (true, 1, some 1) := by decide +kernel
theorem test_port_stall : (after (exec (.portStall 0) { s0.setMe { st0 with wait := some ⟨.portSend, 0⟩ } with clock := 2 ^ 25 })).me?.map Strand.cause = some 0x0009 := by decide +kernel
theorem test_enq_stall : (after (exec (.enqStall 0) { s0.setMe { st0 with wait := some ⟨.enqFull, 0⟩ } with clock := 2 ^ 25 })).me?.map Strand.cause = some 0x0109 := by decide +kernel

/-- A strand that holds an instruction it tries again. -/
def stHeld (i : Instr) : Strand := { st0 with held := some i, wait := some ⟨.poll, 0⟩ }
theorem test_atomic_performed : seenAfter (exec (.atomicPerformed 0) ((s0.setBytes 0x50000 [3]).setMe (stHeld (.amoAdd .always true 10 11 9)))) 10 = some (3, 0x30004) := by decide +kernel
theorem witness_HomeEvents_atomic : let st := stHeld (.amoAdd .always true 10 11 9)
    let s := (s0.setBytes 0x50000 [3]).setMe st
    Holds s 0 st (.amoAdd .always true 10 11 9) .poll ∧ st.allows .always = true ∧ readSources st { s with actor := 0 } [11, 9] (some 10) = .ok ([0x50000, 7], { s with actor := 0 })
    ∧ State.locate { s with actor := 0 } st .rmw 0 0x50000 8 = .ok (gotSpot (State.locate { s with actor := 0 } st .rmw 0 0x50000 8))
    ∧ Serves { s with actor := 0 } st (gotSpot (State.locate { s with actor := 0 } st .rmw 0 0x50000 8)) ∧ (gotSpot (State.locate { s with actor := 0 } st .rmw 0 0x50000 8)).mt ≠ 5 ∧ s.owes st.origin = false :=
  ⟨⟨by rfl, by rfl, by rfl, ⟨by rfl, by rfl, by rfl⟩⟩, by rfl, by rfl, by rfl, ⟨⟨by rfl, by rfl, by rfl⟩, by rfl, by rfl, fun h => absurd h (by decide +kernel)⟩, by decide +kernel, by rfl⟩
/-- Where the line of g14, of class 3, is for a strand that tries its access again. -/
def spotHeld (s : State) (i : Instr) : Spot := gotSpot (State.locate { s with actor := 0 } (stHeld i) .rmw 0 0xC0000000 8)
theorem witness_HomeEvents_staged : let i : Instr := .sld .always 0 10 14 0
    let s := (s0access 0x0101).setMe (stHeld i)
    Holds s 0 (stHeld i) i .poll ∧ (stHeld i).allows .always = true ∧ (stHeld i).Settled ∧ (stHeld i).g 14 + (stHeld i).g 0 + 0 = 0xC0000000
    ∧ State.locate { s with actor := 0 } (stHeld i) .rmw 0 0xC0000000 8 = .ok (spotHeld s i) ∧ (spotHeld s i).mt ∉ [3, 4, 5] ∧ s.noStore (spotHeld s i).flat = false ∧ s.owes (stHeld i).origin = false ∧ (spotHeld s i).cls ≠ 0
    ∧ (let e := State.entryAt { s with actor := 0 } (stHeld i).part (spotHeld s i).cls (lineOf (spotHeld s i).flat) 0
      verdictOf e = .allow ∧ accessOf e = 1) :=
  ⟨⟨by rfl, by rfl, by rfl, ⟨by rfl, by rfl, by rfl⟩⟩, by rfl, ⟨by rfl, by rfl, by rfl⟩, by decide +kernel, by rfl, by decide +kernel, by decide +kernel, by rfl, by decide +kernel, by decide +kernel⟩
theorem witness_HomeEvents_staged_store : let i : Instr := .sst .always 0 9 14 0
    let s := (s0access 0x0201).setMe (stHeld i)
    Holds s 0 (stHeld i) i .poll ∧ SstRow i .always 0 9 14 0 1 false 0 0 ∧ (let e := State.entryAt { s with actor := 0 } (stHeld i).part (spotHeld s i).cls (lineOf (spotHeld s i).flat) 0
      (spotHeld s i).cls ≠ 0 ∧ verdictOf e = .allow ∧ accessOf e = 2) := ⟨⟨by rfl, by rfl, by rfl, ⟨by rfl, by rfl, by rfl⟩⟩, .sst .., by decide +kernel⟩
theorem test_staged_at_home : (let t := after (exec (.stagedAccessAtHome 0) ((s0access 0x0201).setMe (stHeld (.sst .always 0 9 14 0))))
    (t.lineState 0x3000000, t.bytes 0xC0000000 1, t.me?.map Strand.pc)) = (1, [7], some 0x30004) := by decide +kernel
/-- Two strands wait parked on line 3000000H, whose entry for transition 0 is e; a wake pass is to re-evaluate both. -/
def stParked : Strand := { stHeld (.sld .always 0 10 14 0) with wait := some ⟨.parked, 0⟩ }
def s0passOn (e : BitVec 16) : State :=
  { (s0access e).setMe stParked with
    passes := [⟨0x3000000, [.slot 0, .slot 1], false⟩], parked := [⟨0x3000000, 0, .slot 0, 0, 3⟩, ⟨0x3000000, 0, .slot 1, 0, 3⟩] }
theorem witness_HomeEvents_pass : [0x0101, 0x0010, 0x0020].map (fun e => let s := (s0access e).setMe stParked
    let x := gotSpot (State.locate { s with actor := 0 } stParked .rmw 0 0xC0000000 8)
    (verdictOf (s.entryAt 0 x.cls (lineOf x.flat) 0), accessOf (s.entryAt 0 x.cls (lineOf x.flat) 0), x.cls, decide (x.mt ∈ [3, 4, 5]), lineOf x.flat, s.noStore x.flat || s.owes stParked.origin))
      = [(.allow, 1, 3, false, 0x3000000, false), (.park, 0, 3, false, 0x3000000, false), (.fault, 0, 3, false, 0x3000000, false)] := by decide +kernel
theorem witness_HomeEvents_pass_holds : (s0passOn 0x0101).passes = [⟨0x3000000, [.slot 0, .slot 1], false⟩] ∧ Holds (s0passOn 0x0101) 0 stParked (.sld .always 0 10 14 0) .parked ∧ stParked.allows .always = true ∧ stParked.Settled
    ∧ stParked.cdl = false ∧ (s0passOn 0x0010).parkCount (clusterOf 0) < 256 :=
  ⟨by rfl, ⟨by rfl, by rfl, by rfl, ⟨by rfl, by rfl, by rfl⟩⟩, by rfl, ⟨by rfl, by rfl, by rfl⟩, by rfl, by decide +kernel⟩
/-- A parked access that its line's wake pass comes to is performed, parks again at the tail, or faults. -/
theorem test_pass : ([0x0101, 0x0010, 0x0020].map fun e => let t := after (exec (.parkReevaluation 0x3000000) (s0passOn e))
    (t.me?.map fun u => (u.pc, u.cause), t.parked.map Parked.who)) = [(some (0x30004, 0), [.slot 1]), (some (0x30000, 0), [.slot 1, .slot 0]), (some (0x40000, 0x0008), [.slot 1])] := by decide +kernel

/-- Two bytes of a line stand in a combining buffer, and one in no buffer. -/
def buf0 : WcBuf := ⟨0x1400, 0x50000, [(3, 0x77), (5, 0x88)], 0⟩
theorem witness_MemoryBytes : OffStacks (s0resv false) 0x50000 2 ∧ 0x4FFFF < 0x50000 ∧ (⟨0, 0, 0, 0, 0x1400, 0x50000, 8, 0, true, 0⟩ : Reservation) ∈ ((s0resv false).storeHome 0x50000 [1, 2]).resv ∧ 0x1400 ∈ linesOf 0x50000 2
    ∧ (1 : Nat) ≠ 0 ∧ (∀ line ∈ linesOf 0x50000 8, NMap.get? (s0.cluster 0).copies line = none) ∧ buf0.line = 0x50003 / 64 ∧ NMap.get? buf0.bytes (0x50003 % 64) = some 0x77
    ∧ heldByte (some buf0) 0x50004 = none ∧ NMap.get? ((s0.setCluster 0 { s0.cluster 0 with copies := [(0x1400, 5)] }).cluster 0).copies (0x50004 / 64) = some 5 :=
  ⟨show ∀ i, i < 2 → _ by decide +kernel, by decide, by decide +kernel, by decide +kernel, by decide, by decide +kernel, by decide, by decide, by decide, by decide +kernel⟩
theorem test_load_byte : [0x50003, 0x50004].map (fun a => (s0.setCluster 0 { s0.cluster 0 with copies := [(0x1400, 0x99 * 2 ^ 32)] }).loadByte (some buf0) 0 1 a) = [0x77, 0x99] := by decide +kernel
/-- GiB 5 is read-mostly; the cluster's cache holds copies of other lines, none or as many as it can. -/
def s0mostly (n : Nat) : State := ((s0.setBytes 0x20028 (leBytes 0x14000003F 8)).setByte 0x140000000 9).setCluster 0 { s0.cluster 0 with copies := (List.range n).map fun i => (i, 0) }
theorem witness_MemoryEvents_fill : (s0mostly 0).mostlyLine 0 0x5000000 = some 0x5000000 ∧ NMap.get? ((s0mostly 0).cluster 0).copies 0x5000000 = none ∧ (s0mostly 0).isPoisoned 0x5000000 = false
    ∧ ((s0mostly 0).cluster 0).copies.length < 8192 ∧ s0.mostlyLine 0 0x1400 = none := ⟨by decide +kernel, by decide +kernel, by rfl, by decide +kernel, by decide +kernel⟩
theorem copies_mostly (n : Nat) : ((s0mostly n).cluster 0).copies = (List.range n).map fun i => (i, 0) := by rfl
theorem witness_MemoryEvents_fill_full : 8192 ≤ ((s0mostly 8192).cluster 0).copies.length := by rw [copies_mostly, List.length_map, List.length_range]
theorem test_read_mostly : (let t := after (exec (.readMostlyFill 0 0x5000000) (s0mostly 0))
    (NMap.get? (t.cluster 0).copies 0x5000000, NMap.get? ((after (exec (.readMostlyDrop 0 0x5000000) t)).cluster 0).copies 0x5000000)) = (some 9, none) := by decide +kernel
/-- One byte waits in the combining buffer. -/
def stWc : Strand := { st0 with wcbuf := some ⟨0x1400, 0x50000, [(3, 0x77)], 0⟩ }
theorem witness_MemoryEvents_drain : (s0.setMe stWc).strand? 0 = some stWc ∧ stWc.wcbuf = some ⟨0x1400, 0x50000, [(3, 0x77)], 0⟩ ∧ (s0.setMe stWc).noStore (0x1400 * 64) = false
    ∧ ([((3 : Nat), (0x77 : BitVec 8))].map Prod.fst).Nodup ∧ (∀ ob ∈ [((3 : Nat), (0x77 : BitVec 8))], (s0.setMe stWc).underStack (0x1400 * 64 + ob.1) = false)
    ∧ State.noStore { s0.setMe stWc with poisoned := [(0x1400, 1)] } (0x1400 * 64) = true := ⟨by rfl, by rfl, by rfl, by decide, by decide +kernel, by decide +kernel⟩
theorem test_drain : (let t := after (exec (.writeCombiningDrain 0) (s0.setMe stWc))
    (t.bytes 0x50002 3, t.me?.map Strand.wcbuf)) = ([0, 0x77, 0], some none) := by decide +kernel
theorem witness_MemoryEvents_walk : (s0.cluster 0).owner = some (0, 0) ∧ tlbHit (s0.cluster 0).tlb 0 0x50000 = none ∧ (0x50000 : Nat) / 2 ^ 48 ≠ 0xFF ∧ s0.walk 0 0x50000 = .leaf 2 0x1F
    ∧ (s0.cluster 0).tlb.length < 2048 := ⟨by rfl, by rfl, by decide, by decide +kernel, by decide +kernel⟩
theorem test_walk : ((after (exec (.pageWalk 0 0x50000) s0)).cluster 0).tlb = [⟨0, 2, 0, 0x1F⟩] := by decide +kernel
/-- Records wait for room in the partition's queues at 70000H and 90000H. -/
def s0records (cons : Nat) : State :=
  s0.modPart 0 fun x => { x with fq := 0x70000, eq := 0x90000, fvec := 5, evec := 6, fprod := 1025, fcons := BitVec.ofNat 32 cons, eprod := 1025, econs := BitVec.ofNat 32 cons
                                 faults := [⟨1, 9, List.replicate 32 0xAA, false, []⟩], errs := [List.replicate 32 0xBB] }
theorem witness_MemoryEvents_records : ((s0records 2).part? 0).map (fun x => decide (x.faults.length = 1 ∧ x.errs.length = 1 ∧ (x.fprod - x.fcons).toNat < 1024 ∧ (x.eprod - x.econs).toNat < 1024)) = some true
    ∧ ((s0records 1).part? 0).map (fun x => decide (1024 ≤ (x.fprod - x.fcons).toNat ∧ 1024 ≤ (x.eprod - x.econs).toNat)) = some true ∧ (List.replicate 32 (0xAA : BitVec 8)).length = 32
    ∧ (s0records 2).masked 5 = false ∧ State.masked { s0 with msixTable := putBytes s0.msixTable (16 * 5 + 12) [1] } 5 = true := by decide +kernel
theorem test_fault_record : (let t := after (exec (.faultRecordAppend 0) (s0records 2))
    (t.bytes 0x70020 1, t.irqs, (t.part? 0).map Partition.fprod)) = ([0xAA], [5], some 1026) := by decide +kernel
theorem test_error_record : (let t := after (exec (.errorRecordAppend 0) (s0records 2))
    (t.bytes 0x90020 1, t.irqs, (t.part? 0).map Partition.errs)) = ([0xBB], [6], some []) := by decide +kernel
theorem witness_MemoryEvents_errors : lineCluster (lineOf (lmemBase 9)) = some 1 ∧ (0x1400 * 64 < hostBase) ∧ lineCluster 0x1400 = none
    ∧ hostBase ≤ (hostBase / 64) * 64 ∧ (s0.setCluster 0 { s0.cluster 0 with copies := [(hostBase / 64, 9)] }).copyHolders (hostBase / 64) = [0] := by decide +kernel
theorem test_memory_error : ((after (exec (.memoryError (lineOf (lmemBase 9)) false) s0)).isPoisoned (lineOf (lmemBase 9)),
    ((after (exec (.memoryError (lineOf (lmemBase 9)) true) s0)).cluster 1).corr) = (true, 1) := by decide +kernel


/-! ### From launch to issue slot -/

/-- A packet on its way to cluster 0, behind one that has arrived. -/
def stPacket : Strand := { Strand.zero with pc := 0x30040, uid := 77 }
def s0packets (arrived : Bool) : State := s0.setCluster 0 { s0.cluster 0 with migrants := [(true, { stPacket with uid := 76 }), (arrived, stPacket)] }
theorem witness_Scheduling_arrival : ((s0packets false).cluster 0).migrants = [(true, { stPacket with uid := 76 })] ++ [(false, stPacket)] ∧ ∀ x ∈ [(true, { stPacket with uid := 76 })], x.1 = true :=
  ⟨by rfl, by decide⟩

/-- Slot 0 is free, in the window of a started crew. -/
def s0free : State := { s0 with slots := [] }
/-- The window, and the candidates that qualify for the slot. -/
def winAt (s : State) : Option Window := (s.dropOrphans (cellOf 0)).windowAt 0
def candsAt (s : State) : List Cand :=
  match winAt s with
  | some w => let s1 := (s.dropOrphans (cellOf 0)).endPreempts w.part
    (s1.candidates w (cellOf 0)).filter (s1.qualifies w 0)
  | none => []
/-- The slot is free, its window's crew has started, and nothing has been passed over. -/
def opensAt (s : State) : Bool := (s.strand? 0).isNone && ((winAt s).bind fun w => (NMap.get? w.launch.crews w.crew).map Crew.started) == some true && (s.cell (cellOf 0)).passed.isEmpty
def s0spawned : State := s0free.setCell 0 { s0free.cell 0 with runq := [(4, recordBytes)] }
def s0ring : State := (s0free.setBytes (lmemBase 0 + 256) (leBytes 0x30020 8)).setCell 0 { s0free.cell 0 with ring := [⟨5, 0, 256, 0, 0⟩] }
def s0packet : State := { s0packets true with slots := [] }
/-- A saved context in the cache that waits on nothing. -/
def ctxFree : Ctx := { ctx0 with slot := 0, pcn := 0, source := 2 }
def s0saved : State := s0free.setCluster 0 { s0free.cluster 0 with ctxs := [(2, ctxFree)] }
theorem witness_Scheduling_fill : opensAt s0free = true ∧ candsAt s0free = [] := by decide +kernel
theorem witness_Scheduling_fill_spawned : opensAt s0spawned = true ∧ (candsAt s0spawned).map Cand.work = [.spawned 4 recordBytes] := by decide +kernel
theorem witness_Scheduling_fill_ring : opensAt s0ring = true ∧ (candsAt s0ring).map Cand.work = [.ring ⟨5, 0, 256, 0, 0⟩] := by decide +kernel
theorem witness_Scheduling_fill_packet : opensAt s0packet = true ∧ (candsAt s0packet).map Cand.work = [.packet { stPacket with uid := 76 }, .packet stPacket]
    ∧ (winAt s0packet).bind (fun w => (s0packet.part? w.part).map fun x => x.preempting.length) = some 0 := by decide +kernel
theorem witness_Scheduling_fill_context : opensAt s0saved = true ∧ (candsAt s0saved).map Cand.work = [.context ctxFree] ∧ ctxFree.strand.paused = [] ∧ ctxFree.strand.tcount = 0 := by decide +kernel
theorem test_fill_spawned : (after (exec (.hingeFill 0) s0spawned)).me?.map (fun u => (u.pc, u.cdl)) = some (0x30010, false) := by decide +kernel
theorem test_fill_ring : (after (exec (.hingeFill 0) s0ring)).me?.map (fun u => (u.pc, u.cdl)) = some (0x30020, true) := by decide +kernel

/-- The launch has a second crew, which is not placed, and the partition a second cluster. -/
def s0place : State :=
  (s0launch fun l => { l with crews := l.crews ++ [(1, Crew.fresh)] }).modPart 0 fun x => { x with clusters := [0, 1] }
theorem witness_Scheduling_placement : (s0place.launch? 0 0).bind Launch.nextCrew = some 1 ∧ (s0place.launch? 0 0).map (fun l => s0place.clustersFor 0 l) = some [1]
    ∧ (s0place.part? 0).map (fun x => x.launches.any fun y => decide (y.2.order < 0) && s0place.placeable 0 y.2) = some false := by decide +kernel
/-- A crew on two cells whose second image has yet to come from the first; the container's boot tree says so. -/
def s0boot : State :=
  ((((s0launch fun l => { l with desc := l.desc.set 1 2, crews := [(0, { Crew.fresh with cluster := some 0, cells := [(0, 0, 0), (1, 0, 0)], boot := [1] })] }).modPart 0 fun x =>
    { x with klis := [(0, ⟨0xA0000, 136, []⟩)] }).setByte 0xA0006 1).setBytes 0xA0040 (leBytes 12 8 ++ leBytes 128 4 ++ leBytes 8 4)).setBytes 0xA0080 (leBytes 0xFFFF 8)
theorem witness_Scheduling_forward : (s0boot.launch? 0 0).map (fun l => (l.nCells, (kliParents ((s0boot.container 0 l.kslot).getD [])))) = some (2, [0xFFFF, 0])
    ∧ (s0boot.crew? 0 0 0).map (fun c => (c.cluster, c.boot)) = some (some 0, [1]) := by decide +kernel
/-- The same while a pre-emption holds the slot it is to fill. -/
def s0bootHeld : State := s0boot.modPart 0 fun x => { x with preempting := [⟨1, [16], [], none⟩] }
theorem witness_Scheduling_forward_blocked : [s0boot, s0bootHeld].map (fun s => (s.launch? 0 0).bind fun l => (s.crew? 0 0 0).map fun c => s.crewBlocked 0 l c) = [some false, some true]
    ∧ (s0bootHeld.crew? 0 0 0).map (fun c => (c.cluster, c.boot)) = some (some 0, [1]) := by decide +kernel
theorem test_boot_forward : (let t := after (exec (.bootForward 0 0) s0boot)
    ((t.crew? 0 0 0).map fun c => (c.boot, c.m), (t.strand? 16).map Strand.index)) = (some ([], 2), some 1) := by decide +kernel

/-- A command of queue 1 that a launch came from. -/
def cmdOf (bs : List (BitVec 8)) : HostCmd := ⟨0, bs ++ zeros (64 - bs.length), 0, 0, true, false, 0, []⟩
/-- The launch has ended but for its command, whose completion goes to host address 1000H. -/
def s0ended : State :=
  State.setHq { s0launch (fun l => { l with crews := l.crews.map fun c => (c.1, { c.2 with m := 0 }) }) with slots := [] } 1
    { HostQueue.fresh with cring := 0x1000, vector := 9, ctrl := 1, cmds := [cmdOf (zeros 4 ++ [1, 3])] }
theorem witness_Scheduling_end : (s0ended.launch? 0 0).map (fun l => decide (s0ended.launchBusy 0 (0, l) = false ∧ s0ended.launchOwes 0 0 = false ∧ l.node = none ∧ l.cmd = 0 ∧ l.queue = 1)) = some true
    ∧ (s0ended.hq 1).cmds = [] ++ cmdOf (zeros 4 ++ [1, 3]) :: [] ∧ (s0.launch? 0 0).map (fun l => s0.launchBusy 0 (0, l)) = some true
    ∧ State.launchOwes { s0ended with outbound := [⟨[hostBase], .hart 0 0 1⟩] } 0 0 = true := by decide +kernel
/-- A store of the launch on its way to host memory holds its end back. -/
theorem test_launch_end_waits : ((after (exec (.launchEnd 0) { s0ended with outbound := [⟨[hostBase], .strand 0 0 1⟩] })).launch? 0 0).isSome = true := by decide +kernel
theorem test_launch_end : (let t := after (exec (.launchEnd 0) s0ended)
    ((t.launch? 0 0).isNone, (t.hq 1).cmds.length, t.irqs)) = (true, 0, [9]) := by decide +kernel

/-- The strand is to be pre-empted by its host queue. -/
def stSave : Strand := { st0 with preReq := some ⟨1, 0, none, false⟩ }
theorem witness_Scheduling_save : (s0.setMe stSave).strand? 0 = some stSave ∧ stSave.preReq = some ⟨1, 0, none, false⟩ ∧ stSave.window = [] ∧ stSave.wcbuf = none ∧ stSave.mma = none ∧ stSave.trapPend = none
    ∧ (∀ since, stSave.wait ≠ some ⟨.xreq, since⟩) ∧ (∀ since, stSave.wait ≠ some ⟨.late, since⟩) ∧ ((s0.setMe stSave).cell (cellOf 0)).outstanding (slotOf 0) = [] ∧ freeEntry ((s0.setMe stSave).cluster (clusterOf 0)).ctxs ≠ none :=
  ⟨by rfl, by rfl, by rfl, by rfl, by rfl, by rfl, fun _ => nofun, fun _ => nofun, by decide +kernel, by decide +kernel⟩
theorem test_context_save : (let t := after (exec (.contextSave 0) (s0.setMe stSave))
    (t.me?.isNone, (t.cluster 0).ctxs.map fun x => (x.1, x.2.reason, x.2.strand.pc))) = (true, [(0, 1, 0x30000)]) := by decide +kernel
/-- The cache is full. -/
def s0full : State := s0.setCluster 0 { s0.cluster 0 with ctxs := (List.range 256).map fun i => (i, { ctx0 with order := 300 - i }) }
theorem witness_Scheduling_spill : freeEntry (s0full.cluster 0).ctxs = none ∧ (oldestCtx (s0full.cluster 0).ctxs).map (fun x => (x.1, x.2.order)) = some (255, 45) ∧ s0full.part? ctx0.strand.part ≠ none
    ∧ (s0full.part? 0).map (fun p => decide (p.ctxArea + freePlace p.area * 2 ^ 17 + 2 ^ 17 ≤ deviceEnd)) = some true := by decide +kernel
theorem witness_Scheduling_spill_bytes : Unspilled s0full := fun x hx => by
  have h : s0full.slots = [(0, st0)] := by rfl
  rw [h] at hx; cases List.mem_singleton.mp hx; rfl
/-- The context area lies above device memory, so that only the place is noted. -/
theorem test_cache_spill : (let t := after (exec (.contextCacheSpill 0) (s0full.modPart 0 fun x => { x with ctxArea := 2 ^ 50 }))
    (freeEntry (t.cluster 0).ctxs, ((t.part? 0).map fun x => x.area.map Prod.fst))) = (some 255, some [0]) := by decide +kernel

/-- Queue 1 has made no progress for 3,800 cycles, with T1 and T2 of two microseconds. -/
def s0stalled : State := { s0.setHq 1 { HostQueue.fresh with ctrl := 1, state := 1, t1 := 2, t2 := 2 } with clock := 3800 }
theorem witness_Scheduling_watchdog : (s0stalled.hq 1).t1 ≠ 0 ∧ (s0stalled.hq 1).t1Done = false ∧ (s0stalled.hq 1).t1.toNat * 1900 ≤ s0stalled.stalledFor 1 ∧ (s0stalled.hq 1).t2.toNat * 1900 ≤ s0stalled.stalledFor 1
    ∧ s0stalled.strand? 0 = some st0 ∧ st0.part = (s0stalled.hq 1).part ∧ st0.launch ∈ s0stalled.launchesOf (s0stalled.hq 1).part 1 ∧ st0.preReq = none :=
  ⟨by decide, by decide, by decide +kernel, by decide +kernel, by rfl, by decide, by decide +kernel, by rfl⟩
theorem test_watchdog : (((after (exec (.watchdogT1 1) s0stalled)).me?.bind Strand.preReq).map PreReq.reason, ((after (exec (.watchdogT2 1) s0stalled)).hq 1).state) = (some 2, 3) := by decide +kernel


/-! ### View engines, links and the host's side -/

/-- A temporal unit of one key frame, 16 by 2, of 8 bits and one tile: temporal delimiter, sequence header, and a frame at quantiser 100 with one byte of tile
data, their bits written out from AV1's syntax. -/
def unit0 : List (BitVec 8) := [0x12, 0x00, 0x0A, 0x08, 0x18, 0x10, 0x1F, 0x00, 0x80, 0x80, 0x80, 0x82, 0x32, 0x03, 0x16, 0x40, 0x77]
/-- A view engine of partition 0 on frames of two lines at C0000000H (class 3), which takes by transition 3 and releases by 4; its ring holds 65,536 bytes. -/
def viewBlock (buf : Nat) : List (BitVec 8) :=
  [3, 3, 4, 2] ++ leBytes 16 2 ++ leBytes 2 2 ++ [0, 8, 1, 0] ++ zeros 4 ++ leBytes 4096 4 ++ zeros 4 ++ leBytes buf 8 ++ leBytes 0x5000 8 ++ leBytes 0x10000 4 ++ zeros 20
def view0 (phase lines buf : Nat) : ViewEngine := { ViewEngine.fresh with part := some 0, block := viewBlock buf, phase := phase, lines := lines, vector := 8 }
/-- The class 3 table allows or faults transition 3 in state 0, and allows 4. -/
def s0view (phase lines buf entry : Nat) : State :=
  (s0.modPart 0 fun x => { x with tables := [(3, (List.range 256).map fun i => if i % 16 = 3 then BitVec.ofNat 16 entry else 0x300)] }).setView 2 (view0 phase lines buf)
theorem witness_ViewsAndLinks_take : ViewAt (s0view 0 1 0xC0000000 0x305) 2 (view0 0 1 0xC0000000) 0 0 1 := ⟨by rfl, by rfl, by rfl, by rfl, by rfl⟩
theorem witness_ViewsAndLinks_reach : let s := s0view 0 1 0xC0000000 0x305
    let va := (view0 0 1 0xC0000000).lineVa 1
    ViewReach s 0 .rmw va (gotSpot (s.translate 0 0 true .rmw va)) ∧ (gotSpot (s.translate 0 0 true .rmw va)).cls = 3 ∧ s.owes (.view 2) = false :=
  ⟨⟨by rfl, by decide +kernel, by rfl⟩, by decide +kernel, by rfl⟩
theorem witness_ViewsAndLinks_release : ViewAt (s0view 3 1 0xC0000000 0x305) 2 (view0 3 1 0xC0000000) 0 3 1
    ∧ (let s := s0view 3 1 0xC0000000 0x305
      let va := (view0 3 1 0xC0000000).lineVa 1
      ViewReach s 0 .rmw va (gotSpot (s.translate 0 0 true .rmw va))) := ⟨⟨by rfl, by rfl, by rfl, by rfl, by rfl⟩, ⟨by rfl, by decide +kernel, by rfl⟩⟩
/-- The engine with some lines of its frame read. -/
def viewSeen (l : List Nat) : ViewEngine := { view0 1 0 0x50000 with picture := l.map fun i => (i, zeros 64) }
def s0seen (l : List Nat) : State := s0.setView 2 (viewSeen l)
theorem witness_ViewsAndLinks_read : ViewAt (s0seen []) 2 (viewSeen []) 0 1 0 ∧ 1 < (viewSeen []).frameLines ∧ (viewSeen []).hasLine 1 = false ∧ (s0seen []).viewBack (viewSeen []) 1 = false
    ∧ (let spot := gotSpot ((s0seen []).translate 0 0 true .read ((viewSeen []).lineVa 1))
      ViewReach (s0seen []) 0 .read ((viewSeen []).lineVa 1) spot ∧ spot.cls = 0) := ⟨⟨by rfl, by rfl, by rfl, by rfl, by rfl⟩, by decide +kernel, by decide, by decide +kernel, ⟨by rfl, by decide +kernel, by rfl⟩, by decide +kernel⟩
theorem witness_ViewsAndLinks_encode : ViewAt (s0seen [0, 1]) 2 (viewSeen [0, 1]) 0 1 0 ∧ ((viewSeen [0, 1]).unitHeads unit0).isSome = true ∧ (∀ i, i < (viewSeen [0, 1]).frameLines → (viewSeen [0, 1]).hasLine i = true)
    ∧ ViewEngine.unitHeads { viewSeen [0, 1] with block := (viewBlock 0x50000).set 9 10 } unit0 = none ∧ ViewEngine.unitHeads { viewSeen [0, 1] with block := (viewBlock 0x50000).set 12 101 } unit0 = none
    ∧ (viewSeen [0, 1]).unitHeads [7] = none ∧ ViewAt (s0seen [1]) 2 (viewSeen [1]) 0 1 0 ∧ 0 < (viewSeen [1]).frameLines ∧ (viewSeen [1]).hasLine 0 = false :=
  ⟨⟨by rfl, by rfl, by rfl, by rfl, by rfl⟩, by decide +kernel, by decide +kernel, by decide +kernel, by decide +kernel, by decide +kernel, ⟨by rfl, by rfl, by rfl, by rfl, by rfl⟩, by decide +kernel, by decide⟩
theorem unspilled0 : Unspilled s0 := fun x hx => by
  have h : s0.slots = [(0, st0)] := by rfl
  rw [h] at hx; cases List.mem_singleton.mp hx; rfl
theorem witness_ViewsAndLinks_write_apart : Unspilled (s0.setView 2 { view0 2 0 0x50000 with unit := [1, 2] }) ∧ (view0 2 0 0x50000).ringBase + (view0 2 0 0x50000).rsize ≤ 2 ^ 52 := ⟨fun x (hx : x ∈ s0.slots) => unspilled0 x hx, by decide +kernel⟩
theorem witness_ViewsAndLinks_write : let v := { view0 2 0 0x50000 with unit := [1, 2] }
    ViewAt (s0.setView 2 v) 2 v 0 2 0 ∧ (v.prod - v.cons).toNat + v.record.length ≤ v.rsize ∧ ({ v with prod := 0xFFF1 } : ViewEngine).rsize < ((0xFFF1 : BitVec 32) - v.cons).toNat + v.record.length :=
  ⟨⟨by rfl, by rfl, by rfl, by rfl, by rfl⟩, by decide +kernel, by decide +kernel⟩
theorem test_view_take : (let t := after (exec (.viewTake 2 1) (s0view 0 1 0xC0000000 0x305))
    (t.lineState 0x3000001, (t.view 2).phase, (t.view 2).lines)) = (5, 1, 0) := by decide +kernel
theorem test_view_take_fault : (let t := after (exec (.viewTake 2 0) (s0view 0 0 0xC0000000 0x120))
    ((t.view 2).fault, (t.view 2).fcause, (t.view 2).frame, t.irqs)) = (true, 8, 1, [8]) := by decide +kernel
theorem test_view_read : ((after (exec (.loadPerformed (.view 2) 1) (s0.setBytes 0x50040 [9] |>.setView 2 (viewSeen [])))).view 2).picture = [(1, 9 :: zeros 63)] := by decide +kernel
/-- The headers are those offered; the byte behind them codes the picture. -/
theorem test_view_encode : (let t := after (exec (.viewFrameEncode 2 unit0) (s0seen [0, 1]))
    ((t.view 2).phase, (t.view 2).unit.take 16, (t.view 2).unit.length)) = (2, unit0.take 16, 17) := by decide +kernel
/-- BT.709 at limited range: white is luma 235 without colour, and red luma 63, Cb 102, Cr 240. -/
theorem test_view_samples : pictureSamples false 0 2 2 8 (List.replicate 16 255) = [235, 235, 235, 235, 128, 128]
    ∧ pictureSamples false 0 2 2 8 ([255, 0, 0, 0] ++ [255, 0, 0, 0] ++ [255, 0, 0, 0] ++ [255, 0, 0, 0]) = [63, 63, 63, 63, 102, 240] := by decide +kernel
theorem test_view_write : (let t := after (exec (.viewRecordWrite 2) (s0.setView 2 { view0 2 0 0x50000 with unit := [9] }))
    (t.bytes (hostBase + 0x5008) 12, (t.view 2).prod, (t.view 2).phase)) = ([1, 0, 0, 0, 1, 0, 0, 0, 9, 0, 0, 0], 32, 3) := by decide +kernel
theorem test_view_release : (let t := after (exec (.viewRelease 2 1) (s0view 3 1 0xC0000000 0x305))
    ((t.view 2).phase, (t.view 2).frame)) = (0, 1) := by decide +kernel
def link0 (fails : Nat) : Link := { Link.fresh with up := true, fails := fails, vector := 4 }
theorem witness_ViewsAndLinks_links : (s0.setLink 3 (link0 17)).link 3 = link0 17 ∧ (link0 17).up = true ∧ (link0 17).replays ≠ BitVec.allOnes 64 ∧ 17 ≤ (link0 17).fails ∧ (link0 16).fails < 17 ∧ (link0 15).fails < 16 ∧ (link0 15).replays ≠ BitVec.allOnes 64 := ⟨by rfl, by decide⟩
theorem test_flit : ((after (exec (.haspFlitReceive 3 false) (s0.setLink 3 (link0 16)))).link 3).fails = 17 := by decide +kernel
theorem test_flit_replays : [15, 16].map (fun n => ((after (exec (.haspFlitReceive 3 false) (s0.setLink 3 (link0 n)))).link 3).replays) = [1, 0] := by decide +kernel
theorem test_link_down : (let t := after (exec (.haspLinkDown 3) (s0.setLink 3 (link0 17)))
    ((t.link 3).up, (t.link 3).downs, t.irqs)) = (false, 1, [4]) := by decide +kernel

/-- The module is READY; queue 1 of partition 0 runs on a ring of 64 entries at host address 10000H, with its completions at 20000H. -/
def queue1 : HostQueue := { HostQueue.fresh with ring := 0x10000, cring := 0x20000, ctrl := 1, vector := 9, state := 1 }
def s0ready : State := { s0 with ready := true }
def s0queue (x : HostQueue) : State := s0ready.setHq 1 x
theorem witness_HostRegisters_silent : HostWrite (.doorbell 1 5) ∧ s0.ready = false := ⟨.doorbell .., by rfl⟩
theorem witness_HostRegisters_doorbell : (s0queue queue1).ready = true ∧ ((s0queue queue1).hq 1).enabled = true ∧ ((5 : BitVec 32) - ((s0queue queue1).hq 1).prod).toNat < 2 ^ 31
    ∧ 2 ^ 31 ≤ ((0x80000000 : BitVec 32) - ((s0queue queue1).hq 1).prod).toNat := by decide +kernel
theorem test_doorbell : (let t := after (exec (.doorbell 1 5) (s0queue queue1))
    ((t.hq 1).prod, (t.hq 1).state)) = (5, 1) := by decide +kernel
theorem test_doorbell_overrun : ((after (exec (.doorbell 1 65) (s0queue queue1))).hq 1).state = 2 := by decide +kernel
/-- Command 3 is due; the ring's slot holds it, or another. -/
def s0fetch (seq : Nat) (r : Option (Nat × Nat)) : State :=
  { (s0queue { queue1 with prod := 4, cons := 3, refetch := r }).setBytes (hostBase + 0x10000 + 192) (leBytes seq 4 ++ [1, 1]) with clock := 1900 }
theorem witness_HostRegisters_fetch : ((s0fetch 0x80000003 none).hq 1).mayFetch = true ∧ ((s0fetch 0x80000003 none).readSlot ((s0fetch 0x80000003 none).hq 1)).map (fun b => field b 0 4) = some (seqWord 3)
    ∧ ((s0fetch 3 none).readSlot ((s0fetch 3 none).hq 1)).map (fun b => decide (field b 0 4 ≠ seqWord 3)) = some true ∧ ((s0fetch 3 (some (3, 0))).hq 1).mayFetch = true ∧ 0 + 1900 ≤ (s0fetch 3 (some (3, 0))).clock := by decide +kernel
theorem test_fetch : (let t := after (exec (.commandFetch 1) (s0fetch 0x80000003 none))
    ((t.hq 1).cmds.map fun c => (c.n, c.opc), (t.hq 1).cons)) = ([(3, 1)], 4) := by decide +kernel
theorem test_refetch : (((after (exec (.commandFetch 1) (s0fetch 3 none))).hq 1).refetch, ((after (exec (.seqRefetch 1) (s0fetch 3 (some (2, 0))))).hq 1).refetch) = (some (0, 1900), some (3, 1900)) := by decide +kernel
theorem witness_HostRegisters_fetch_apart : ((s0fetch 3 (some (3, 0))).hq 1).ctrl.getLsbD 2 = false ∧ Unspilled (s0fetch 3 (some (3, 0))) := ⟨by decide +kernel, unspilled0⟩
theorem test_queue_fault : (let t := after (exec (.seqRefetch 1) (s0fetch 3 (some (3, 0))))
    ((t.hq 1).state, t.bytes (hostBase + 0x20000 + 48) 8)) = (2, [3, 0, 0, 0x80, 4, 0, 0, 0]) := by decide +kernel
theorem witness_HostRegisters_enable : ((s0queue { queue1 with ctrl := 0 }).hq 1).enabled = false ∧ (s0queue { queue1 with ctrl := 0 }).queueValid 1 { queue1 with ctrl := 0 } = true := by decide +kernel
theorem test_queue_enable : (((after (exec (.queueEnable 1) (s0queue { queue1 with ctrl := 0, state := 0 }))).hq 1).ctrl, ((after (exec (.queueEnable 1) (s0queue { queue1 with ctrl := 0, state := 0, ring := 1 }))).hq 1).ctrl) = (1, 0) := by decide +kernel
theorem witness_HostRegisters_registers : RegisterField 7 s0ready (0x100000 + 64 * 2) (s0ready.setHq 2 { s0ready.hq 2 with ring := 7 }) := .ring 2 (by decide) (by decide +kernel)
theorem witness_HostRegisters_kept : RegisterField 7 (s0queue queue1) (0x100000 + 64 * 1) (s0queue queue1) ∧ RegisterField 7 s0ready 0x700000 { s0ready with fwCmd := 7, fwStatus := 1 } := ⟨.kept 1 (by decide) (by decide +kernel), .mailboxCmd (by decide)⟩
theorem witness_HostRegisters_msix : RegisterField 1 s0ready 0x1005C (State.unmask { s0ready with msixTable := putBytes s0ready.msixTable 0x5C (leBytes 1 4) }) := .msix 0x1005C (by decide) (by decide)
/-- A vector that is masked waits in the pending-bit array and is raised once it is unmasked. -/
theorem test_msix : (let s := after (exec (.registerWrite 0x1005C 1) s0ready)
    let t := s.raise 5
    let u := after (exec (.registerWrite 0x1005C 0) t)
    ((t.irqs, t.msixPending), (u.irqs, u.msixPending))) = (([], [5]), ([5], [])) := by decide +kernel
theorem test_register_write : ((after (exec (.registerWrite 0x100024 5) s0ready)).hq 0).t2 = 5 ∧ ((after (exec (.registerWrite 0x100040 5) (s0queue queue1))).hq 1).ring = 0x10000 := by decide +kernel
theorem witness_HostRegisters_writes : s0ready.ready = true ∧ (s0ready.part? 0).isSome = true ∧ (2 : BitVec 32).getLsbD 1 = true := by decide +kernel
theorem test_consumer : ((after (exec (.completionConsumerWrite 1 9) (s0queue queue1))).hq 1).ccons = 9 ∧ ((after (exec (.viewConsumerWrite 2 9) s0ready)).view 2).cons = 9
    ∧ ((after (exec (.queueConsumerIndexWrite 0 true 9) s0ready)).part? 0).map Partition.econs = some 9 := by decide +kernel
theorem test_clears : ((after (exec (.viewFaultClear 2 2) (s0ready.setView 2 { view0 0 0 0 with fault := true }))).view 2).fault = false ∧ ((after (exec (.haspReplaysClear 3 0) (s0ready.setLink 3 { link0 0 with replays := 6 }))).link 3).replays = 0
    ∧ (after (exec (.haspModuleWrite 3 0x2005) s0ready)).moduleNo = 5 ∧ ((after (exec (.errorCounterClear 3 true 0x12345) s0ready)).cluster 3).refetch = 0x2345 := by decide +kernel
theorem witness_HostRegisters_window : s0ready.ready = true ∧ 8 + 8 ≤ s0ready.bar4Size ∧ s0ready.wbase.toNat + 8 + 8 ≤ deviceEnd ∧ s0ready.poisonedRange (s0ready.wbase.toNat + 8) 8 = false :=
  ⟨by rfl, by decide +kernel, by decide +kernel, by decide +kernel⟩
theorem witness_HostRegisters_window_apart : OffStacks s0ready (s0ready.wbase.toNat + 8) 8 := show ∀ i, i < 8 → _ by decide +kernel

theorem witness_BringUp_stage : let s := { s0ready with fwCmd := 1, fwStatus := 1, fwAddr := 0x50000, fwLen := 64 }
    s.mailboxAt 1 = true ∧ (s.deviceBytes s.fwAddr.toNat s.fwLen.toNat).isSome = true := by decide +kernel
/-- The mailbox is at work on a command over key slot 2 of partition 0. -/
def s0mail (cmd : BitVec 32) : State := { s0ready.modPart 0 (fun x => { x with keys := [(2, [1])] }) with fwCmd := cmd, fwStatus := 1, fwKeySlot := 2, fwVector := 3, fwAddr := 0x50000 }
theorem witness_BringUp_keys : (s0mail 2).mailboxAt 2 = true ∧ (s0mail 2).fwKeySlot.toNat < 8 ∧ ((s0mail 2).part? (s0mail 2).fwPart.toNat).isSome = true ∧ ((s0mail 2).deviceBytes (s0mail 2).fwAddr.toNat 2592).isSome = true
    ∧ (s0mail 3).mailboxAt 3 = true ∧ (s0mail 9).ready = true ∧ (s0mail 9).fwStatus = 1 ∧ (s0mail 9).fwCmd ≠ 1 ∧ (s0mail 9).fwCmd ≠ 2 ∧ (s0mail 9).fwCmd ≠ 3 := by decide +kernel
theorem witness_BringUp_report : s0ready.ready = true ∧ s0ready.nonce.length = 64 ∧ ({ s0ready with astat := 1, asked := s0ready.nonce } : State).asked.length = 64 := by decide +kernel
theorem test_reset : (let t := after (exec (.moduleReset true 0xFF 1 [7]) s0ready)
    (t.ready, t.slots.length, t.byte 0x30000, (t.link 0).up, (t.link 0).peer, (t.link 1).up)) = (true, 0, 0, true, 7, false) := by decide +kernel
theorem test_remove_key : (let t := after (exec .removeImageKey (s0mail 3))
    ((t.part? 0).map fun x => x.keys.length, t.fwStatus, t.irqs)) = (some 0, 2, [3]) := by decide +kernel
theorem test_bad_command : (after (exec .firmwareBadCommand (s0mail 9))).fwStatus = 4 := by decide +kernel
theorem test_attestation : (let t := after (exec (.attestationRequest 0x55) s0ready)
    (t.asked.getD 56 0, t.asked.length, t.astat)) = (0x55, 64, 1) := by decide +kernel


/-! ### Host commands -/

/-- A command of an OPC with operand bytes from byte 16 on, which asks for a completion and an interrupt. -/
def hostCmd (opc : BitVec 8) (ops : List (BitVec 8)) : HostCmd := ⟨0, zeros 4 ++ [opc, 3] ++ zeros 10 ++ ops ++ zeros (48 - ops.length), 0, 0, false, false, 0, []⟩
/-- The small state with a command at the head of partition 0's privileged queue. -/
def s0host (s : State) (c : HostCmd) : State := (s.modPart 0 fun x => { x with privq := 1, age := 1 }).setHq 1 { queue1 with ctrl := 0x1001, cmds := [c] }
/-- The same with a command on the module's queue. -/
def s0module (s : State) (c : HostCmd) : State := s.setHq 0 { queue1 with cmds := [c] }
def dueOk (s : State) (q opc : Nat) (c : HostCmd) : Bool :=
  decide ((s.hq q).cmds = [c] ∧ c.dispatched = false ∧ c.waiting = false ∧ c.opc = opc ∧ c.flags ≤ 3 ∧ field c.bytes 6 2 = 0 ∧ s.eligible q = true ∧ (q ≠ 0 → (s.pickQueue (s.hq q).part).map Prod.fst = some q))
    && (match queueCode opc with
      | some code => s.acceptsOn q code
      | none => false)
theorem due_of {s : State} {q opc : Nat} {c : HostCmd} (h : dueOk s q opc c = true) : Due s q opc c [] [] := by
  simp only [dueOk, Bool.and_eq_true, decide_eq_true_eq] at h
  obtain ⟨⟨h1, h2, h3, h4, h5, h6, h7, h8⟩, h9⟩ := h
  refine ⟨⟨h1, nofun, nofun⟩, ⟨h2, h3⟩, h4, ⟨h5, h6⟩, h7, h8, ?_⟩
  revert h9
  cases queueCode opc with
  | none => nofun
  | some code => exact fun h => ⟨code, rfl, h⟩
def goesOn (c : HostCmd) : HostCmd := { c with dispatched := true, waiting := true }
theorem waits_of {s : State} {q opc : Nat} {c : HostCmd} (h : ((s.hq q).cmds = [c]) ∧ c.waiting = true ∧ c.opc = opc) : Waits s q opc c [] [] := ⟨⟨h.1, nofun, nofun⟩, h.2.1, h.2.2⟩

theorem bytes_host (s : State) (c : HostCmd) (a n : Nat) : (s0host s c).bytes a n = s.bytes a n := 
  let f : Partition → Partition := fun x => { x with privq := 1, age := 1 }
  bytes_same (s0host s c) s (modPart_same s 0 f).1 (modPart_same s 0 f).2 n a
theorem witness_ArbiterDispatch : let s := s0host s0 (hostCmd 0x30 [])
    Stands s 1 (hostCmd 0x30 []) [] [] ∧ s.eligible 1 = true ∧ (s.pickQueue (s.hq 1).part).map Prod.fst = some 1 ∧ queueCode (hostCmd 0x30 []).opc = none := ⟨⟨by rfl, nofun, nofun⟩, by decide +kernel, by decide +kernel, by decide +kernel⟩
theorem witness_ArbiterDispatch_wrong : let s := s0host s0 (hostCmd 0x20 [])
    Stands s 1 (hostCmd 0x20 []) [] [] ∧ s.eligible 1 = true ∧ (s.pickQueue (s.hq 1).part).map Prod.fst = some 1 ∧ queueCode (hostCmd 0x20 []).opc = some .module ∧ s.acceptsOn 1 .module = false := ⟨⟨by rfl, nofun, nofun⟩, by decide +kernel, by decide +kernel, by decide +kernel, by decide +kernel⟩
theorem witness_ArbiterDispatch_idle : s0.pickQueue 0 = none := by decide +kernel
theorem test_bad_opc : (let t := after (exec (.arbiterDispatch 0) (s0host s0 (hostCmd 0x30 [])))
    ((t.hq 1).cmds.length, t.bytes (hostBase + 0x20000) 8, t.irqs)) = (0, [0, 0, 0, 0x80, 3, 0, 0, 0], [9]) := by decide +kernel
theorem test_wrong_queue : (after (exec (.arbiterDispatch 0) (s0host s0 (hostCmd 0x20 [])))).bytes (hostBase + 0x20004) 1 = [5] := by decide +kernel

/-- KLI slot 0 holds an image whose text covers 30000H to 3003FH; a launch descriptor of one cell and slot that enters there lies at 50000H, a graph of one node at
60000H, and a patch list of one pair at 64000H. -/
def kliBytes : List (BitVec 8) := leBytes 0x00494C4B 4 ++ leBytes 1 2 ++ leBytes 1 2 ++ leBytes 1 8 ++ zeros 8 ++ leBytes 0x30000 8 ++ zeros 32 ++ leBytes 1 8 ++ leBytes 128 4 ++ leBytes 64 4
def descBytes (entry : Nat) : List (BitVec 8) :=
  [0, 1, 1, 8, 0, 0, 0, 0, 0, 0, 0, 0, 0, 0, 0, 0, 0, 0, 0, 1] ++ zeros 60 ++ leBytes entry 8 ++ zeros 48 ++ [1, 0, 0, 0] ++ zeros 52
def s0image1 (entry : Nat) : State :=
  (((((s0.setBytes 0xA0000 kliBytes).setBytes 0x50000 (descBytes entry)).setBytes 0x60000 (leBytes 1 4 ++ leBytes 40 4 ++ leBytes 0x61000 8 ++ leBytes 0x62000 8 ++ leBytes 0x63000 8 ++ zeros 32)).setBytes 0x63000
    (leBytes 0x50000 8)).setBytes 0x64000 (leBytes 8 8 ++ leBytes 0x77 8)).modPart 0 fun x => { x with klis := [(0, ⟨0xA0000, 192, []⟩)] }
def launchCmd : HostCmd := hostCmd 0x01 (leBytes 0x50000 8)
theorem witness_LaunchCommands_launch : let s := s0host (s0image1 0x30000) launchCmd
    Due s 1 0x01 launchCmd [] [] ∧ launchCmd.unused [(16, 8), (24, 2)] = true ∧ s.descAt (s.hq 1).part (launchCmd.op 16 8) = some (descBytes 0x30000) ∧ descBad (descBytes 0x30000) = false
    ∧ s.launchBad (s.hq 1).part 1 (launchCmd.op 24 2) (descBytes 0x30000) = false ∧ ∀ e ∈ descPreds (descBytes 0x30000), s.predBad (s.hq 1).part e = false :=
  ⟨due_of (by decide +kernel), by decide +kernel, by decide +kernel, by decide +kernel, by decide +kernel, by decide +kernel⟩
theorem witness_LaunchCommands_bad : let s := s0host (s0image1 0x40000) launchCmd
    Due s 1 0x01 launchCmd [] [] ∧ s.descAt (s.hq 1).part (launchCmd.op 16 8) = some (descBytes 0x40000) ∧ s.launchBad (s.hq 1).part 1 (launchCmd.op 24 2) (descBytes 0x40000) = true :=
  ⟨due_of (by decide +kernel), by decide +kernel, by decide +kernel⟩
theorem test_launch_bad : (after (exec (.launch 1) (s0host (s0image1 0x40000) launchCmd))).bytes (hostBase + 0x20004) 1 = [1] := by decide +kernel
def replayCmd : HostCmd := hostCmd 0x02 (leBytes 0x60000 8)
/-- Replays of the graph are in flight. -/
def s0graph (rs : List (Nat × Nat × Nat)) (c : HostCmd) : State := s0host ((s0image1 0x30000).modPart 0 fun x => { x with graphs := [(0x60000, ⟨0, rs⟩)] }) c
def headBytes : List (BitVec 8) := (s0image1 0x30000).bytes 0x60000 64
theorem witness_LaunchCommands_replay : let s := s0graph [(1, 8, 0)] replayCmd
    Due s 1 0x02 replayCmd [] [] ∧ replayCmd.unused [(16, 8)] = true ∧ s.graphHeader (replayCmd.op 16 8) = some headBytes ∧ s.graphNodes (s.hq 1).part headBytes = some [descBytes 0x30000]
    ∧ nodesBad headBytes [descBytes 0x30000] = false ∧ s.launchBad (s.hq 1).part 1 (field headBytes 32 2) (descBytes 0x30000) = false ∧ (s.graph 0 0x60000).replays.length < 2
    ∧ (s.part? 0).map (fun x => x.idsFor 1) = some true :=
  ⟨due_of (by decide +kernel), by decide +kernel, by decide +kernel, by decide +kernel, by decide +kernel, by decide +kernel, by decide +kernel, by decide +kernel⟩
theorem witness_LaunchCommands_replay_waits : Due (s0graph [(1, 8, 0), (1, 9, 0)] replayCmd) 1 0x02 replayCmd [] [] ∧ 2 ≤ ((s0graph [(1, 8, 0), (1, 9, 0)] replayCmd).graph 0 0x60000).replays.length := ⟨due_of (by decide +kernel), by decide +kernel⟩
theorem test_replay_waits : ((after (exec (.replay 1) (s0graph [(1, 8, 0), (1, 9, 0)] replayCmd))).hq 1).cmds.map HostCmd.waiting = [true] := by decide +kernel
def patchCmd : HostCmd := hostCmd 0x03 (leBytes 0x60000 8 ++ leBytes 0x64000 8 ++ leBytes 1 4)
theorem witness_LaunchCommands_patch : PatchOk (s0graph [] patchCmd) patchCmd headBytes (leBytes 8 8 ++ leBytes 0x77 8) ∧ Due (s0graph [] patchCmd) 1 0x03 patchCmd [] [] :=
  ⟨⟨by decide +kernel, by decide +kernel, by decide +kernel, by decide +kernel, by decide +kernel⟩, due_of (by decide +kernel)⟩
theorem witness_LaunchCommands_patch_waits : Due (s0graph [(1, 8, 1)] patchCmd) 1 0x03 patchCmd [] [] ∧ (∃ r ∈ ((s0graph [(1, 8, 1)] patchCmd).graph 0 0x60000).replays, r.2.2 = 1 - ((s0graph [(1, 8, 1)] patchCmd).graph 0 0x60000).cur)
    ∧ Waits (s0graph [] (goesOn patchCmd)) 1 0x03 (goesOn patchCmd) [] [] := ⟨due_of (by decide +kernel), ⟨(1, 8, 1), by decide +kernel⟩, waits_of (by decide +kernel)⟩
theorem test_patch : (let t := after (exec (.patch 1) (s0graph [] patchCmd))
    (t.bytes 0x62008 1, (t.graph 0 0x60000).cur)) = ([0x77], 1) := by decide +kernel
theorem test_patch_apply : ((after (exec (.patchApply 1) (s0graph [] (goesOn patchCmd)))).graph 0 0x60000).cur = 1 := by decide +kernel

def qcreateCmd : HostCmd := hostCmd 0x04 (leBytes 7 4 ++ leBytes 2 4 ++ leBytes 3 8 ++ leBytes 0x70000 8)
theorem witness_PartitionCommands_qcreate : let s := s0host s0 qcreateCmd
    Due s 1 0x04 qcreateCmd [] [] ∧ decide (qcreateCmd.unused [(16, 2), (20, 4), (24, 2), (32, 8)] = true ∧ qcreateCmd.op 16 2 ≤ 4095 ∧ 0 < qcreateCmd.op 20 4 ∧ qcreateCmd.op 20 4 ≤ 65536) = true
    ∧ (s.cellAt (s.hq 1).part (qcreateCmd.op 24 2)).isSome = true ∧ inDevice (qcreateCmd.op 32 8) (8 * qcreateCmd.op 20 4) = true ∧ (s.devq (s.hq 1).part (qcreateCmd.op 16 2)).live = false :=
  ⟨due_of (by decide +kernel), by decide +kernel, by decide +kernel, by decide +kernel, by decide +kernel⟩
theorem test_qcreate : (let t := after (exec (.qcreate 1) (s0host s0 qcreateCmd))
    ((t.devq 0 7).gen, (t.devq 0 7).live, (t.devq 0 7).cap, (t.hq 1).cmds.length)) = (1, true, 2, 0) := by decide +kernel
def qdestroyCmd : HostCmd := hostCmd 0x05 (leBytes 7 2)
theorem witness_PartitionCommands_qdestroy : Due (s0host (s0dev true []) qdestroyCmd) 1 0x05 qdestroyCmd [] [] ∧ qdestroyCmd.unused [(16, 2)] = true ∧ qdestroyCmd.op 16 2 = 7 ∧ ((s0host (s0dev true []) qdestroyCmd).devq 0 7).live = true :=
  ⟨due_of (by decide +kernel), by decide +kernel, by decide +kernel, by decide +kernel⟩
theorem test_qdestroy : ((after (exec (.qdestroy 1) (s0host (s0dev true []) qdestroyCmd))).devq 0 7).gen = 4 := by decide +kernel
/-- The strand waits for the answer to fault record 5. -/
def fanswerCmd (refuse : Nat) : HostCmd := hostCmd 0x06 (leBytes 5 2 ++ leBytes refuse 1)
def stMissing : Strand := { st0 with wait := some ⟨.faultPending 5 0x7000000000, 0⟩ }
def s0missing (refuse : Nat) : State := s0host ((s0.modPart 0 fun x => { x with faults := [⟨5, 0x70000, [], true, [.slot 0]⟩] }).setMe stMissing) (fanswerCmd refuse)
theorem witness_PartitionCommands_fanswer : Due (s0missing 0) 1 0x06 (fanswerCmd 0) [] [] ∧ Due (s0missing 1) 1 0x06 (fanswerCmd 1) [] [] ∧ (fanswerCmd 1).unused [(16, 2), (18, 1)] = true ∧ (fanswerCmd 0).op 18 1 = 0 ∧ (fanswerCmd 1).op 18 1 = 1
    ∧ ((s0missing 0).part? 0).bind (fun x => x.faults.find? (fun g => g.seq == (fanswerCmd 0).op 16 2)) = some ⟨5, 0x70000, [], true, [.slot 0]⟩ ∧ (s0missing 0).strand? 0 = some stMissing :=
  ⟨due_of (by decide +kernel), due_of (by decide +kernel), by decide +kernel, by decide +kernel, by decide +kernel, by decide +kernel, by rfl⟩
theorem test_fanswer_refuse : (after (exec (.fanswer 1) (s0missing 1))).me?.map (fun u => (u.cause, u.faddr)) = some (0x0006, 0x7000000000) := by decide +kernel
def sresetCmd : HostCmd := hostCmd 0x07 (leBytes 0x50000 8 ++ leBytes 0x10000 8 ++ leBytes 1 1)
theorem witness_PartitionCommands_sreset : let s := s0host s0 sresetCmd
    Due s 1 0x07 sresetCmd [] [] ∧ decide (sresetCmd.unused [(16, 8), (24, 8), (32, 1)] = true ∧ sresetCmd.op 16 8 % 2 ^ 16 = 0 ∧ sresetCmd.op 24 8 % 2 ^ 16 = 0 ∧ 0 < sresetCmd.op 24 8 ∧ sresetCmd.op 16 8 + sresetCmd.op 24 8 ≤ 2 ^ 56 ∧ sresetCmd.op 32 1 ≤ 1) = true
    ∧ ∀ i, i < 1 → s.mappedHere (s.hq 1).part (sresetCmd.op 16 8 + 2 ^ 16 * i) = true := ⟨due_of (by decide +kernel), by decide +kernel, by decide +kernel⟩
def resetLine0 (n : Nat) : HostCmd := { goesOn sresetCmd with progress := n }
theorem witness_PartitionCommands_sreset_line : Waits (s0host s0 (resetLine0 2)) 1 0x07 (resetLine0 2) [] [] ∧ (s0host s0 (resetLine0 2)).walk 0 (0x50000 + 64 * 2) = .leaf 2 0x1F ∧ 64 * ((resetLine0 2).progress + 1) < (resetLine0 2).op 24 8
    ∧ Waits (s0host s0 (resetLine0 1023)) 1 0x07 (resetLine0 1023) [] [] ∧ (resetLine0 1023).op 24 8 ≤ 64 * ((resetLine0 1023).progress + 1) := ⟨waits_of (by decide +kernel), by decide +kernel, by decide +kernel, waits_of (by decide +kernel), by decide +kernel⟩
theorem test_sreset : (let t := after (exec (.sreset 1) (s0host (({ s0 with lines := [(0x1402, 9)] } : State).setBytes 0x50080 [5]) (resetLine0 2)))
    (t.lineState 0x1402, t.byte 0x50080, (t.hq 1).cmds.map HostCmd.progress)) = (0, 0, [3]) := by decide +kernel
def vbindCmd (block : Nat) : HostCmd := hostCmd 0x08 ([2] ++ zeros 7 ++ leBytes block 8)
theorem witness_PartitionCommands_vbind : let s := s0host s0 (vbindCmd 0x50000)
    Due s 1 0x08 (vbindCmd 0x50000) [] [] ∧ (vbindCmd 0x50000).unused [(16, 1), (24, 8)] = true ∧ (vbindCmd 0x50000).op 16 1 = 2 ∧ (s.view 2).part = none ∧ (vbindCmd 0x50000).op 24 8 = 0x50000
    ∧ (s.deviceBytes 0x50000 64).isSome = true ∧ Due (s0host s0 (vbindCmd 0)) 1 0x08 (vbindCmd 0) [] [] :=
  ⟨due_of (by decide +kernel), by decide +kernel, by decide +kernel, by rfl, by decide +kernel, by decide +kernel, due_of (by decide +kernel)⟩
/-- A block that keeps to Table 18-8: frames of 16 by 16. -/
def goodBlock : List (BitVec 8) := (viewBlock 0xC0000000).set 6 16
theorem witness_PartitionCommands_vbind_block : bindBad goodBlock = false ∧ (s0host (s0.setBytes 0x50000 goodBlock) (vbindCmd 0x50000)).deviceBytes 0x50000 64 = some goodBlock := by decide +kernel
theorem test_vbind : ((after (exec (.vbind 1) (s0host (s0.setBytes 0x50000 goodBlock) (vbindCmd 0x50000)))).view 2).part = some 0 := by decide +kernel
def groupCmd : HostCmd := hostCmd 0x09 (leBytes 4 8 ++ leBytes 0x50000 8)
theorem witness_PartitionCommands_group : let s := s0host (s0.setBytes 0x50000 farGroup) groupCmd
    Due s 1 0x09 groupCmd [] [] ∧ groupCmd.unused [(16, 4), (24, 8)] = true ∧ groupCmd.op 24 8 = 0x50000 ∧ s.deviceBytes 0x50000 16 = some (farGroup.take 16) ∧ field (farGroup.take 16) 0 4 = 2
    ∧ s.deviceBytes 0x50000 (16 + 32 * 2) = some farGroup ∧ groupBad s.moduleNo.toNat 0 farGroup = false := ⟨due_of (by decide +kernel), by decide +kernel, by decide +kernel, by decide +kernel, by decide +kernel, by decide +kernel, by decide +kernel⟩
theorem test_group : ((after (exec (.group 1) (s0host (s0.setBytes 0x50000 farGroup) groupCmd))).part? 0).bind (fun x => NMap.get? x.groups 4) = some farGroup := by decide +kernel
def hwinCmd : HostCmd := hostCmd 0x0A ([6, 0] ++ leBytes 9 2 ++ [1, 0, 0, 0] ++ leBytes 0x1000 8)
theorem witness_PartitionCommands_hwin : Due (s0host s0 hwinCmd) 1 0x0A hwinCmd [] [] ∧ hwinCmd.unused [(16, 1), (18, 2), (20, 1), (24, 8)] = true ∧ hwinCmd.op 16 1 = 6 ∧ hwinCmd.op 18 2 = 9 ∧ hwinCmd.op 20 1 = 1 :=
  ⟨due_of (by decide +kernel), by decide +kernel, by decide +kernel, by decide +kernel, by decide +kernel⟩
theorem test_hwin : ((after (exec (.hwin 1) (s0host s0 hwinCmd))).part? 0).bind (fun x => NMap.get? x.hwins 6) = some (9, 1, 0x1000) := by decide +kernel
def logsetCmd : HostCmd := hostCmd 0x0B ([2] ++ zeros 7 ++ leBytes 0x70000 8 ++ leBytes 0x10000 8)
theorem witness_PartitionCommands_logset : Due (s0host s0 logsetCmd) 1 0x0B logsetCmd [] [] ∧ decide (logsetCmd.unused [(16, 1), (24, 8), (32, 8)] = true ∧ logsetCmd.op 16 1 ≤ 63 ∧ logsetCmd.op 32 8 % 2 ^ 16 = 0 ∧ logsetCmd.op 24 8 % 64 = 0
    ∧ inDevice (logsetCmd.op 24 8) (logsetCmd.op 32 8) = true) = true := ⟨due_of (by decide +kernel), by decide +kernel⟩
theorem test_logset : ((after (exec (.logset 1) (s0host s0 logsetCmd))).part? 0).bind (fun x => NMap.get? x.logs 2) = some ⟨0x70000, 0x10000, 0x70000, [], none, false⟩ := by decide +kernel
def ppreemptCmd : HostCmd := hostCmd 0x0C (leBytes 0x50000 8)
/-- A pre-emption of slot 0 for the command. -/
def s0preempting (st : Strand) : State := s0host ((s0.setMe st).modPart 0 fun x => { x with preempting := [⟨1, [0], [], some (1, 0)⟩] }) (goesOn ppreemptCmd)
theorem witness_PartitionCommands_ppreempt_done : Waits (s0preempting st0) 1 0x0C (goesOn ppreemptCmd) [] [] ∧ (s0preempting st0).preemptDone ⟨1, [0], [], some (1, 0)⟩ = true ∧ (s0preempting stSave).preemptDone ⟨1, [0], [], some (1, 0)⟩ = false
    ∧ ((s0preempting st0).part? 0).bind (fun x => x.preempting.find? (fun f => f.report == some (1, 0))) = some ⟨1, [0], [], some (1, 0)⟩ := ⟨waits_of (by decide +kernel), by decide +kernel, by decide +kernel, by decide +kernel⟩
theorem test_ppreempt_done : (((after (exec (.ppreempt 1) (s0preempting st0))).hq 1).cmds.length, ((after (exec (.ppreempt 1) (s0preempting stSave))).hq 1).cmds.length) = (0, 1) := by decide +kernel
/-- The mask at 400000000H names queue 1. -/
def maskCmd : HostCmd := hostCmd 0x0C (leBytes 0x400000000 8)
def s0mask : State := s0.setByte 0x400000000 2
def maskBytes : List (BitVec 8) := 2#8 :: List.replicate 2047 0#8
theorem bytes_above (s : State) (a : Nat) (hu : s.unk = []) (hm : ∀ p ∈ s.mem, p.1 < a) (n : Nat) : s.bytes a n = List.replicate n 0#8 := by
  induction n generalizing a with
  | zero => rfl
  | succ n ih =>
    rw [State.bytes, List.replicate_succ, ih (a + 1) fun p hp => Nat.lt_succ_of_lt (hm p hp), State.byte, hu]
    exact congrArg (· :: _) (Mem.get_above _ _ hm)
theorem mask_bytes (s : State) (hu : s.unk = []) (hb : s.byte 0x400000000 = 2) (hm : ∀ p ∈ s.mem, p.1 < 0x400000001) : s.bytes 0x400000000 2048 = maskBytes := by
  rw [State.bytes, hb, bytes_above s 0x400000001 hu hm]; rfl
theorem mask_bit (n k j : Nat) (h : ((2#8 :: List.replicate n 0#8).getD k 0).getLsbD j = true) : k = 0 := by
  cases k with
  | zero => rfl
  | succ k =>
    rw [List.getD_eq_getElem?_getD, List.getElem?_cons_succ, List.getElem?_replicate] at h
    split at h <;> simp at h
theorem mask_queues (r : Nat) (h : r ∈ maskQueues maskBytes) : r = 1 := by
  have h1 := (List.mem_filter.mp h).2
  have hk := mask_bit _ _ _ h1
  rw [hk] at h1
  have h8 : r < 8 := by omega
  have hm : r % 8 = r := Nat.mod_eq_of_lt h8
  rw [hm] at h1
  have : ∀ i : Fin 8, (2#8).getLsbD i.val = true → i.val = 1 := by decide
  exact this ⟨r, h8⟩ h1
theorem witness_PartitionCommands_ppreempt : let s := s0host s0mask maskCmd
    Due s 1 0x0C maskCmd [] [] ∧ maskCmd.unused [(16, 8)] = true ∧ maskCmd.op 16 8 = 0x400000000 ∧ (∀ line, s.isPoisoned line = false) ∧ s.bytes 0x400000000 2048 = maskBytes
    ∧ (∀ r ∈ maskQueues maskBytes, r ≠ 0 ∧ (s.hq r).part = (s.hq 1).part) ∧ s.strand? 0 = some st0 ∧ st0.launch ∈ s.launchesOf (s.hq 1).part 1 :=
  ⟨due_of (by decide +kernel), by decide +kernel, by decide +kernel, fun _ => by rfl, mask_bytes _ (by rfl) (by decide +kernel) (by decide +kernel),
    fun r hr => by rw [mask_queues r hr]; decide +kernel, by rfl, by decide +kernel⟩
def restartCmd : HostCmd := hostCmd 0x0D (leBytes 2 2)
def s0stopped : State := s0host (s0.setHq 2 { queue1 with state := 2, cons := 6 }) restartCmd
theorem witness_PartitionCommands_restart : Due s0stopped 1 0x0D restartCmd [] [] ∧ restartCmd.unused [(16, 2)] = true ∧ restartCmd.op 16 2 = 2 ∧ (s0stopped.hq 2).part = (s0stopped.hq 1).part ∧ (s0stopped.hq 2).state = 2 :=
  ⟨due_of (by decide +kernel), by decide +kernel, by decide +kernel, by decide +kernel, by decide +kernel⟩
theorem test_restart : (let t := after (exec (.restart 1) s0stopped)
    ((t.hq 2).state, (t.hq 2).cons)) = (1, 6) := by decide +kernel
def kloadCmd : HostCmd := hostCmd 0x0E (leBytes 3 8 ++ leBytes 0xA0000 8 ++ leBytes 64 8)
theorem witness_PartitionCommands_kload : let s := s0host s0 kloadCmd
    Due s 1 0x0E kloadCmd [] [] ∧ kloadCmd.unused [(16, 2), (24, 8), (32, 8)] = true ∧ kloadCmd.op 16 2 = 3 ∧ kloadCmd.op 24 8 = 0xA0000 ∧ (s.part? 0).map (fun x => (NMap.get? x.klis 3).isNone) = some true
    ∧ s.deviceBytes 0xA0000 (kloadCmd.op 32 8) = some (zeros 64) ∧ kliBad (zeros 64) = true :=
  ⟨due_of (by decide +kernel), by decide +kernel, by decide +kernel, by decide +kernel, by decide +kernel, by decide +kernel, by decide +kernel⟩
theorem test_kload_bad : (after (exec (.kload 1) (s0host s0 kloadCmd))).bytes (hostBase + 0x20004) 1 = [6] := by decide +kernel
/-- Every coefficient is zero. -/
def AllZero (p : Poly) : Prop := ∀ v ∈ p, v = 0
theorem allZero_zipWith (f : Nat → Nat → Nat) (p r : Poly) (h : ∀ a ∈ p, ∀ b ∈ r, f a b = 0) : AllZero (List.zipWith f p r) := by
  intro v hv
  obtain ⟨i, hi, rfl⟩ := List.mem_iff_getElem.mp hv
  rw [List.getElem_zipWith]
  exact h _ (List.getElem_mem _) _ (List.getElem_mem _)
theorem evalAt_zero (p : Poly) (x : Nat) (h : AllZero p) : evalAt p x = 0 := by
  induction p with
  | nil => rfl
  | cons v p ih =>
    have := ih fun w hw => h w (List.mem_cons_of_mem _ hw)
    simp only [evalAt] at this ⊢
    rw [List.foldr_cons, this, h v (List.mem_cons_self ..)]
    rfl
theorem transform_zero (p : Poly) (h : AllZero p) : AllZero (transform p) := by
  intro v hv
  obtain ⟨i, _, rfl⟩ := List.mem_map.mp hv
  exact evalAt_zero p _ h
theorem sum_zero (l : List (Nat × Nat)) (g : Nat → Nat) (h : ∀ x ∈ l, x.1 = 0) (m : Nat) : l.foldl (fun m x => m + x.1 * g x.2) m = m := by
  induction l generalizing m with
  | nil => rfl
  | cons x l ih =>
    rw [List.foldl_cons, h x (List.mem_cons_self ..), Nat.zero_mul, Nat.add_zero]
    exact ih (fun y hy => h y (List.mem_cons_of_mem _ hy)) m
theorem transformBack_zero (v : Poly) (h : AllZero v) : transformBack v = List.replicate 256 0 := by
  simp only [transformBack]
  rw [List.map_congr_left (g := fun _ => 0) fun j _ => by
    rw [sum_zero _ (fun y => powQ y j 8) fun x hx => h _ (List.of_mem_zip hx).1]; rfl]
  simp [List.map_const']
theorem addAll_zero (l : List Poly) (h : ∀ p ∈ l, AllZero p) (a : Poly) (ha : AllZero a) : AllZero (l.foldl addQ a) := by
  induction l generalizing a with
  | nil => exact ha
  | cons p l ih =>
    refine ih (fun r hr => h r (List.mem_cons_of_mem _ hr)) _ (allZero_zipWith _ _ _ fun x hx y hy => ?_)
    rw [ha x hx, h p (List.mem_cons_self ..) y hy]; rfl

/-- A signature with z and the hint zero, behind its challenge. -/
def zeroSig (tilde : List (BitVec 8)) : List (BitVec 8) := tilde ++ ((List.replicate 896 [0x00, 0x00, 0x08, 0x00, 0x80]).flatten ++ zeros 83)
/-- A key whose t is zero. -/
def zeroKey : List (BitVec 8) := zeros 2592
/-- The challenge that a message's signature of zeros needs. -/
def zeroTilde (m : List (BitVec 8)) : List (BitVec 8) := shake256 (shake256 (shake256 zeroKey 64 ++ [0, 0] ++ m) 64 ++ zeros 1024) 64
theorem drop_sig (t : List (BitVec 8)) (h : t.length = 64) (k : Nat) : (zeroSig t).drop (64 + k) = ((List.replicate 896 [0x00, 0x00, 0x08, 0x00, 0x80]).flatten ++ zeros 83 : List (BitVec 8)).drop k := by
  rw [zeroSig, ← List.drop_drop, List.drop_left' h]

theorem length_leBytes (v n : Nat) : (leBytes v n).length = n := by
  induction n generalizing v with
  | zero => rfl
  | succ n ih => simp [leBytes, ih]
theorem length_lanes (f : Nat → Nat → BitVec 64) (n : Nat) (h : n ≤ 200) : (lanesBytes (lanesBy f) n).length = n := by
  have : ((lanesBy f).flatten.flatMap fun w => leBytes w.toNat 8).length = 200 := by
    simp [lanesBy, List.range_succ, length_leBytes]
  rw [lanesBytes, List.length_take, this, Nat.min_eq_left h]
theorem keccakRun_lanes (n v : Nat) (f : Nat → Nat → BitVec 64) : ∃ g, keccakRun (lanesBy f) v n = lanesBy g := by
  induction n generalizing v f with
  | zero => exact ⟨f, rfl⟩
  | succ n ih => exact ih ..
theorem absorb_lanes (rate n : Nat) (bs : List (BitVec 8)) (f : Nat → Nat → BitVec 64) : ∃ g, absorbFrom rate (lanesBy f) bs n = lanesBy g := by
  induction n generalizing bs f with
  | zero => exact ⟨f, rfl⟩
  | succ n ih =>
    obtain ⟨g, hg⟩ := keccakRun_lanes 24 1 fun x y => laneAt (lanesBy f) x y ^^^ BitVec.ofNat 64 (field (bs.take rate) (8 * (x + 5 * y)) 8)
    rw [absorbFrom, absorbBlock, keccakF, hg]
    exact ih ..
theorem length_shake64 (m : List (BitVec 8)) : (shake256 m 64).length = 64 := by
  obtain ⟨g, hg⟩ := absorb_lanes 136 (m.length / 136 + 1) (m ++ padFor 136 0x1F m.length) fun _ _ => 0
  show (List.take 64 (lanesBytes (sponge 136 0x1F m) 136 ++ [])).length = 64
  rw [sponge, hg, List.append_nil, List.length_take, length_lanes _ _ (by decide)]
  rfl
theorem length_keyId (key : List (BitVec 8)) : (keyId key).length = 8 := by
  obtain ⟨g, hg⟩ := absorb_lanes 72 (key.length / 72 + 1) (key ++ padFor 72 6 key.length) fun _ _ => 0
  rw [keyId, sha3, sponge, hg, List.length_take, length_lanes _ _ (by decide)]
  rfl

/-- The parts of a signature of zeros. -/
def zeroZ : Poly := List.replicate 256 0
theorem leNat_zero (l : List (BitVec 8)) (h : ∀ b ∈ l, b = 0) : leNat l = 0 := by
  induction l with
  | nil => rfl
  | cons b l ih => rw [leNat, ih fun c hc => h c (List.mem_cons_of_mem _ hc), h b (List.mem_cons_self ..)]; rfl
theorem parts_key : ((List.range 8).map fun i => (List.range 256).map fun j => bitGroup (zeroKey.drop (32 + 320 * i)) 10 j * 2 ^ 13 % dsaQ) = List.replicate 8 zeroZ := by
  have h (i j : Nat) : bitGroup (zeroKey.drop (32 + 320 * i)) 10 j * 2 ^ 13 % dsaQ = 0 := by
    rw [bitGroup, field, zeroKey, zeros, leNat_zero _ fun b hb => List.eq_of_mem_replicate (List.mem_of_mem_drop (List.mem_of_mem_drop (List.mem_of_mem_take hb)))]
    simp
  simp only [h, List.map_const', List.length_range]
  rfl
/-- Two coefficients of zero, packed. -/
def zeroPair : List (BitVec 8) := [0x00, 0x00, 0x08, 0x00, 0x80]
theorem drop_pairs (n k : Nat) (t : List (BitVec 8)) : ((List.replicate (k + n) zeroPair).flatten ++ t).drop (5 * k) = (List.replicate n zeroPair).flatten ++ t := by
  induction k with
  | zero => simp
  | succ k ih =>
    rw [show k + 1 + n = (k + n) + 1 by omega, List.replicate_succ, List.flatten_cons, List.append_assoc, show 5 * (k + 1) = 5 + 5 * k by omega, ← List.drop_drop,
      List.drop_left' (by rfl), ih]
theorem pair_even (l : List (BitVec 8)) : leNat ((zeroPair ++ l).take 4) / 2 ^ 0 % 2 ^ 20 = 2 ^ 19 := by
  show leNat [0x00, 0x00, 0x08, 0x00] / 2 ^ 0 % 2 ^ 20 = 2 ^ 19
  decide
theorem pair_odd (l : List (BitVec 8)) : leNat (((zeroPair ++ l).drop 2).take 4) / 2 ^ 4 % 2 ^ 20 = 2 ^ 19 := by
  cases l with
  | nil => rfl
  | cons b l =>
    show (8 + 256 * (0 + 256 * (128 + 256 * (b.toNat + 256 * 0)))) / 2 ^ 4 % 2 ^ 20 = 2 ^ 19
    omega
theorem parts_sig (t : List (BitVec 8)) (h : t.length = 64) :
    ((List.range 7).map fun i => (List.range 256).map fun j => (2 ^ 19 + dsaQ - bitGroup ((zeroSig t).drop (64 + 640 * i)) 20 j) % dsaQ) = List.replicate 7 zeroZ
    ∧ hintRows ((zeroSig t).drop (64 + 640 * 7)) 0 0 8 = some (List.replicate 8 []) := by
  constructor
  · have hb (i j : Nat) (hi : i < 7) (hj : j < 256) : bitGroup ((zeroSig t).drop (64 + 640 * i)) 20 j = 2 ^ 19 := by
      have hd (k c : Nat) (hk : k < 896) : ((zeroSig t).drop 64).drop (5 * k + c) = (zeroPair ++ ((List.replicate (895 - k) zeroPair).flatten ++ zeros 83)).drop c := by
        rw [zeroSig, List.drop_left' h, ← List.drop_drop, show (896 : Nat) = k + ((895 - k) + 1) by omega]
        rw [show ([0x00, 0x00, 0x08, 0x00, 0x80] : List (BitVec 8)) = zeroPair by rfl, drop_pairs, List.replicate_succ, List.flatten_cons, List.append_assoc]
      rw [bitGroup, field, ← List.drop_drop, List.drop_drop]
      rcases Nat.mod_two_eq_zero_or_one j with hp | hp
      · rw [show 640 * i + 20 * j / 8 = 5 * (128 * i + j / 2) + 0 by omega, hd _ _ (by omega), show 20 * j % 8 = 0 by omega]
        exact pair_even _
      · rw [show 640 * i + 20 * j / 8 = 5 * (128 * i + j / 2) + 2 by omega, hd _ _ (by omega), show 20 * j % 8 = 4 by omega]
        exact pair_odd _
    rw [List.map_congr_left (g := fun _ => zeroZ) fun i hi => by
      rw [List.map_congr_left (g := fun _ => 0) fun j hj => by rw [hb i j (List.mem_range.mp hi) (List.mem_range.mp hj)]; rfl]
      rw [List.map_const', List.length_range]; rfl]
    rw [List.map_const', List.length_range]
  · rw [drop_sig t h]
    decide +kernel
/-- The signature of zeros that its challenge fits verifies, whatever the matrix. -/
theorem verify_zero (m : List (BitVec 8)) : mldsaVerify zeroKey m (zeroSig (zeroTilde m)) = true := by
  have ht : (zeroTilde m).length = 64 := length_shake64 _
  have h0 : AllZero zeroZ := fun v hv => List.eq_of_mem_replicate hv
  simp only [mldsaVerify, (parts_sig _ ht).1, (parts_sig _ ht).2, parts_key]
  have hw : ∀ r ∈ List.range 8, (List.zip (List.range 256) (transformBack (subQ
      (((List.range 7).map fun s => mulQ (matrixEntry (zeroKey.take 32) r s) (((List.replicate 7 zeroZ).map transform).getD s [])).foldl addQ (List.replicate 256 0))
      (mulQ (transform (challenge ((zeroSig (zeroTilde m)).take 64))) (transform ((List.replicate 8 zeroZ).getD r [])))))).map
        (fun x => useHint (((List.replicate 8 ([] : List Nat)).getD r []).contains x.1) x.2) = zeroZ := by
    intro r hr
    have hr8 : r < 8 := List.mem_range.mp hr
    rw [transformBack_zero]
    · rw [List.getD_replicate _ hr8]
      decide +kernel
    · refine allZero_zipWith _ _ _ fun a ha b hb => ?_
      have hA := addAll_zero ((List.range 7).map fun s => mulQ (matrixEntry (zeroKey.take 32) r s) (((List.replicate 7 zeroZ).map transform).getD s [])) (fun p hp => by
        obtain ⟨s, hs, rfl⟩ := List.mem_map.mp hp
        refine allZero_zipWith _ _ _ fun x _ y hy => ?_
        rw [List.map_replicate, List.getD_replicate _ (List.mem_range.mp hs)] at hy
        rw [transform_zero _ h0 y hy, Nat.mul_zero]; rfl) (List.replicate 256 0) h0
      have hB : AllZero (mulQ (transform (challenge ((zeroSig (zeroTilde m)).take 64))) (transform ((List.replicate 8 zeroZ).getD r []))) := by
        refine allZero_zipWith _ _ _ fun x _ y hy => ?_
        rw [List.getD_replicate _ hr8] at hy
        rw [transform_zero _ h0 y hy, Nat.mul_zero]; rfl
      rw [hA a ha, hB b hb]; rfl
  rw [List.map_congr_left hw]
  have hp : (List.map (fun _ => zeroZ) (List.range 8)).flatMap (fun w => (List.range 128).map fun i => BitVec.ofNat 8 (w.getD (2 * i) 0 + 16 * w.getD (2 * i + 1) 0)) = zeros 1024 := by decide +kernel
  have hs : (List.replicate 7 zeroZ).all (fun z => z.all fun v => decide (min v (dsaQ - v) < 2 ^ 19 - 120)) = true := by decide +kernel
  have hl : (zeroSig (zeroTilde m)).length = 4627 := by
    rw [zeroSig, List.length_append, ht]
    decide +kernel
  have hk : zeroKey.length = 2592 := by decide +kernel
  have hT : (zeroSig (zeroTilde m)).take 64 = zeroTilde m := by rw [zeroSig, List.take_left' ht]
  rw [hp, hs, hl, hk, hT]
  simp [zeroTilde]

/-- A container of one section, its signature of zeros under the key of zeros. -/
def signedHead : List (BitVec 8) :=
  leBytes 0x00494C4B 4 ++ leBytes 1 2 ++ leBytes 1 2 ++ leBytes 1 8 ++ leBytes 4800 8 ++ zeros 8 ++ leBytes 128 8 ++ zeros 24 ++ leBytes 13 8 ++ leBytes 128 4 ++ leBytes 4672 4 ++ zeros 48
def signedBytes : List (BitVec 8) := signedHead ++ (keyId zeroKey ++ (zeros 37 ++ zeroSig (zeroTilde (sha3 signedHead))))
theorem witness_PartitionCommands_kload_good : kliBad signedBytes = false := by decide +kernel
theorem witness_PartitionCommands_kload_signed : kliSigned [zeroKey] signedBytes = true := by
  have ho : kliSigOff signedBytes = 128 := by decide +kernel
  have hh : signedHead.length = 128 := by decide +kernel
  have hk : signedBytes.drop 128 = keyId zeroKey ++ (zeros 37 ++ zeroSig (zeroTilde (sha3 signedHead))) := by rw [signedBytes, List.drop_left' hh]
  have h1 : signedBytes.take 128 = signedHead := by rw [signedBytes, List.take_left' hh]
  have h2 : (signedBytes.drop 128).take 8 = keyId zeroKey := by rw [hk, List.take_left' (length_keyId _)]
  have h3 : ((signedBytes.drop 128).drop 45).take 4627 = zeroSig (zeroTilde (sha3 signedHead)) := by
    rw [hk, show (45 : Nat) = 8 + 37 by rfl, ← List.drop_drop, List.drop_left' (length_keyId _), List.drop_left' (by rfl), List.take_of_length_le]
    rw [zeroSig, List.length_append, show (zeroTilde (sha3 signedHead)).length = 64 from length_shake64 _]; decide +kernel
  have h4 : zeroRange (signedBytes.drop 128) 8 37 = true := by
    rw [zeroRange, hk, List.drop_left' (length_keyId _), List.take_left' (by rfl)]; decide
  rw [kliSigned, ho]
  simp only [h1, h2, h3, h4, List.any_cons, List.any_nil, beq_self_eq_true, verify_zero, Bool.and_self, Bool.or_false]
/-- The key is installed, and the container lies at A0000H. -/
def kloadSigned : HostCmd := hostCmd 0x0E (leBytes 3 8 ++ leBytes 0xA0000 8 ++ leBytes 4800 8)
def s0kload : State := s0host ((s0.modPart 0 fun x => { x with keys := [(0, zeroKey)] }).setBytes 0xA0000 signedBytes) kloadSigned
theorem witness_PartitionCommands_kload_whole : Due s0kload 1 0x0E kloadSigned [] [] ∧ kloadSigned.unused [(16, 2), (24, 8), (32, 8)] = true ∧ kloadSigned.op 16 2 = 3 ∧ kloadSigned.op 24 8 = 0xA0000 ∧ kloadSigned.op 32 8 = 4800
    ∧ (s0kload.part? 0).map (fun x => (NMap.get? x.klis 3).isNone) = some true ∧ (s0kload.part? 0).map (fun x => x.keys.length) = some 1 := 
  ⟨due_of (by decide +kernel), by decide +kernel, by decide +kernel, by decide +kernel, by decide +kernel, by decide +kernel, by decide +kernel⟩
theorem witness_PartitionCommands_kload_bytes : s0kload.deviceBytes 0xA0000 4800 = some signedBytes := by
  have hl : signedBytes.length = 4800 := by decide +kernel
  have hb : s0kload.bytes 0xA0000 4800 = signedBytes := by
    rw [s0kload, bytes_host, ← hl]
    exact bytes_setBytes ..
  have hp : s0kload.poisonedRange 0xA0000 4800 = false := by decide +kernel
  simp only [State.deviceBytes, hp, hb]
  rfl
def kunloadCmd (k : Nat) : HostCmd := hostCmd 0x0F (leBytes k 2)
def s0kunload (k : Nat) : State := s0host (s0.modPart 0 fun x => { x with klis := [(0, ⟨0xA0000, 64, []⟩), (3, ⟨0xA0000, 64, []⟩)] }) (kunloadCmd k)
theorem witness_PartitionCommands_kunload : Due (s0kunload 3) 1 0x0F (kunloadCmd 3) [] [] ∧ Due (s0kunload 0) 1 0x0F (kunloadCmd 0) [] [] ∧ (kunloadCmd 3).unused [(16, 2)] = true ∧ (kunloadCmd 3).op 16 2 = 3
    ∧ ((s0kunload 3).part? 0).map (fun x => decide ((NMap.get? x.klis 3).isSome = true ∧ ∀ l ∈ x.launches, l.2.kslot ≠ 3)) = some true ∧ ((s0kunload 0).part? 0).map (fun x => decide (∃ l ∈ x.launches, l.2.kslot = 0)) = some true :=
  ⟨due_of (by decide +kernel), due_of (by decide +kernel), by decide +kernel, by decide +kernel, by decide +kernel, by decide +kernel⟩
theorem test_kunload : (((after (exec (.kunload 1) (s0kunload 3))).hq 1).cmds.length, ((after (exec (.kunload 1) (s0kunload 0))).hq 1).cmds.map HostCmd.waiting) = (0, [true]) := by decide +kernel

/-- A create block at 50000H: partition 3 with clusters 1 and 5. -/
def createBlock (part : BitVec 8) : List (BitVec 8) :=
  [0x22] ++ zeros 23 ++ leBytes 0x80000 8 ++ leBytes 0x100000 8 ++ leBytes 0x2000000 8 ++ leBytes 0x70000 8 ++ leBytes 0x90000 8 ++ leBytes 100 4 ++ leBytes 100 4 ++ leBytes 3 2 ++ [part, 0] ++ leBytes 5 2 ++ leBytes 6 2 ++ zeros 48
def pcreateCmd : HostCmd := hostCmd 0x20 (leBytes 0x50000 8)
def s0create (part : BitVec 8) : State := s0module (s0.setBytes 0x50000 (createBlock part)) pcreateCmd
theorem witness_ModuleCommands_pcreate : Due (s0create 3) 0 0x20 pcreateCmd [] [] ∧ pcreateCmd.unused [(16, 8)] = true ∧ (s0create 3).deviceBytes (pcreateCmd.op 16 8) 128 = some (createBlock 3) ∧ createBad (createBlock 3) = false
    ∧ (s0create 3).part? (field (createBlock 3) 74 1) = none ∧ ∀ k ∈ blockClusters (createBlock 3), ((s0create 3).cluster k).owner = none := ⟨due_of (by decide +kernel), by decide +kernel, by decide +kernel, by decide +kernel, by decide +kernel, by decide +kernel⟩
theorem witness_ModuleCommands_pcreate_taken : Due (s0create 0) 0 0x20 pcreateCmd [] [] ∧ (s0create 0).deviceBytes (pcreateCmd.op 16 8) 128 = some (createBlock 0) ∧ (s0create 0).part? (field (createBlock 0) 74 1) ≠ none := ⟨due_of (by decide +kernel), by decide +kernel, by decide +kernel⟩
theorem test_pcreate : (let t := after (exec (.pcreate 0) (s0create 3))
    ((t.cluster 5).owner, (t.part? 3).map Partition.clusters, (t.part? 3).map Partition.privq)) = (some (3, 1), some [1, 5], some 3) := by decide +kernel
/-- A resize map at 50000H: cluster 0 stays or is replaced, and cluster 7 is added. -/
def presizeCmd : HostCmd := hostCmd 0x21 (zeros 8 ++ leBytes 0x50000 8)
def s0resize (k : BitVec 8) (c : HostCmd) : State := s0module ((s0.setBytes 0x50000 ([k, 7] ++ List.replicate 190 0xFF)).modPart 0 fun x => { x with ctxSize := 0x4000000, preempting := [⟨1, [0], [], some (0, 0)⟩] }) c
theorem witness_ModuleCommands_presize : Due (s0resize 0 presizeCmd) 0 0x21 presizeCmd [] [] ∧ presizeCmd.unused [(16, 1), (24, 8)] = true
    ∧ (s0resize 0 presizeCmd).deviceBytes (presizeCmd.op 24 8) 192 = some ([0, 7] ++ List.replicate 190 0xFF) ∧ ((s0resize 0 presizeCmd).part? 0).map (fun x => (s0resize 0 presizeCmd).resizeOk 0 x (resizeMap ([0, 7] ++ List.replicate 190 0xFF))) = some true
    ∧ ((s0resize 0 presizeCmd).part? 0).map (fun x => (replaced x.clusters (resizeMap ([0, 7] ++ List.replicate 190 0xFF)))) = some [] := ⟨due_of (by decide +kernel), by decide +kernel, by decide +kernel, by decide +kernel, by decide +kernel⟩
def presizeGoes : HostCmd := { goesOn presizeCmd with block := [4, 7] ++ List.replicate 190 0xFF }
/-- The map drops cluster 1, which still holds a context. -/
def s0shrink : State := ((s0resize 4 presizeGoes).modPart 0 fun x => { x with clusters := [0, 1, 5] }).setCluster 5 { s0.cluster 5 with ctxs := [(0, ctx0)] }
theorem witness_ModuleCommands_presize_stop : (s0shrink.part? 0).map (fun x => x.clusters.drop (resizeMap presizeGoes.block).length) = some [5] ∧ s0shrink.clusterBusy 0 5 = true
    ∧ ((s0resize 4 presizeGoes).part? 0).map (fun x => x.clusters.drop (resizeMap presizeGoes.block).length) = some []
    ∧ (s0shrink.part? 0).bind (fun x => x.preempting.find? (fun f => f.report == some (0, presizeGoes.n))) = some ⟨1, [0], [], some (0, 0)⟩ := by decide +kernel
theorem witness_ModuleCommands_presize_moves : Due (s0resize 4 presizeCmd) 0 0x21 presizeCmd [] [] ∧ ((s0resize 4 presizeCmd).part? 0).map (fun x => (s0resize 4 presizeCmd).resizeOk 0 x (resizeMap ([4, 7] ++ List.replicate 190 0xFF))) = some true
    ∧ ((s0resize 4 presizeCmd).part? 0).map (fun x => (replaced x.clusters (resizeMap ([4, 7] ++ List.replicate 190 0xFF)))) = some [(0, 0, 4)] ∧ Waits (s0resize 4 presizeGoes) 0 0x21 presizeGoes [] []
    ∧ (s0resize 4 presizeGoes).preemptDone ⟨1, [0], [], some (0, 0)⟩ = true ∧ ((s0resize 4 presizeGoes).setMe stSave).preemptDone ⟨1, [0], [], some (0, 0)⟩ = false :=
  ⟨due_of (by decide +kernel), by decide +kernel, by decide +kernel, waits_of (by decide +kernel), by decide +kernel, by decide +kernel⟩
theorem test_presize : (let t := after (exec (.presize 0) (s0resize 4 presizeGoes))
    ((t.cluster 4).owner, (t.cluster 0).owner, (t.cluster 7).owner, (t.crew? 0 0 0).map Crew.cluster)) = (some (0, 0), none, some (0, 1), some (some 4)) := by decide +kernel
def pdestroyCmd : HostCmd := hostCmd 0x22 []
theorem witness_ModuleCommands_pdestroy : Due (s0module s0 pdestroyCmd) 0 0x22 pdestroyCmd [] [] ∧ pdestroyCmd.unused [(16, 1)] = true ∧ ((s0module s0 pdestroyCmd).part? (pdestroyCmd.op 16 1)).map (fun x => decide (∀ l ∈ x.launches, l.2.queue ≠ 0)) = some true :=
  ⟨due_of (by decide +kernel), by decide +kernel, by decide +kernel⟩
/-- Nothing is left of the partition's launches and error records. -/
def s0bare (c : HostCmd) : State := s0module ((s0.modPart 0 fun x => { x with launches := [] })) c
theorem witness_ModuleCommands_pdestroy_goes : ((s0bare pdestroyCmd).part? 0).map (fun x => (x.launches.length, x.errs.length)) = some (0, 0) ∧ Waits (s0bare (goesOn pdestroyCmd)) 0 0x22 (goesOn pdestroyCmd) [] [] ∧ Due (s0bare pdestroyCmd) 0 0x22 pdestroyCmd [] []
    ∧ ((s0module s0 pdestroyCmd).launch? 0 0).map (fun l => decide (l.crews ≠ [])) = some true := ⟨by decide +kernel, waits_of (by decide +kernel), due_of (by decide +kernel), by decide +kernel⟩
/-- The kill's crew error records wait for room in the host's queue; then the partition goes. -/
theorem test_pdestroy : (let t := after (exec (.pdestroy 0) (s0module s0 pdestroyCmd))
    let u := after (exec (.pdestroy 0) (s0bare (goesOn pdestroyCmd)))
    ((t.part? 0).map (fun x => (x.launches.length, x.errs.length)), (t.hq 0).cmds.length, t.me?.isNone, (u.part? 0).isNone, (u.cluster 0).owner)) = (some (0, 1), 1, true, true, none) := by decide +kernel

end Sys2Proof.Tests
end

section
/-! PROOFS. The scalar and control instructions of R112 and R121: the words of NOP and SEL, the issue of a word that is no instruction, and what an
instruction that reads ports leaves in its cell. -/

namespace Sys2Proof
open Sys2Proof.Machine

/-! ### One-word instructions in the decoder -/

/-- L 00 announces one word (R59). -/
theorem wordCount_packR_base (op : BitVec 7) (d a b : BitVec 5) (g : Guard) (f : BitVec 4) : wordCount (packR 0 op d a b g f) = 1 := by
  simp [wordCount]

/-- The head of an R-form word is judged by its L, OP and F alone (R72). -/
theorem headCheck_packR (l : BitVec 2) (op : BitVec 7) (d a b : BitVec 5) (g : Guard) (f : BitVec 4) :
    headCheck (packR l op d a b g f) = headFields op.toNat l.toNat f.toNat := by
  simp [headCheck]

/-! The fields of an R-form word, as the decoder names them (Table 3-2). -/

section
variable (l : BitVec 2) (op : BitVec 7) (d a b : BitVec 5) (g : Guard) (f : BitVec 4) (w1 w2 w3 w4 : BitVec 32)

@[simp] theorem Words.l_packR : (⟨packR l op d a b g f, w1, w2, w3, w4⟩ : Words).l = l := packR_l ..
@[simp] theorem Words.op_packR : (⟨packR l op d a b g f, w1, w2, w3, w4⟩ : Words).op = op := packR_op ..
@[simp] theorem Words.d_packR : (⟨packR l op d a b g f, w1, w2, w3, w4⟩ : Words).d = d := packR_d ..
@[simp] theorem Words.a_packR : (⟨packR l op d a b g f, w1, w2, w3, w4⟩ : Words).a = a := packR_a ..
@[simp] theorem Words.b_packR : (⟨packR l op d a b g f, w1, w2, w3, w4⟩ : Words).b = b := packR_b ..
@[simp] theorem Words.g_packR : (⟨packR l op d a b g f, w1, w2, w3, w4⟩ : Words).g = g := by
  simp only [Words.g, packR_n, packR_p]
@[simp] theorem Words.f_packR : (⟨packR l op d a b g f, w1, w2, w3, w4⟩ : Words).f = f := packR_f ..

end

/-- A word list that begins with a one-word instruction decodes to it and leaves the rest. -/
theorem decodeList_cons_of_wordCount_one {w0 : BitVec 32} {i : Instr} (rest : List (BitVec 32)) (hn : wordCount w0 = 1)
    (hi : decodeWords ⟨w0, 0, 0, 0, 0⟩ = .ok i) : decodeList (w0 :: rest) = .ok (i, rest) := by
  simp only [decodeList, Words.ofList, hn, hi]

/-- A word whose head is accepted is decoded by its major opcode. -/
theorem decodeWords_of_headCheck {w : Words} (h : headCheck w.w0 = none) : decodeWords w = decodeMajor w := by
  simp [decodeWords, h]

theorem decodeMajor_of_op_00 {w : Words} (h : w.op = 0) : decodeMajor w = decode00 w := by
  rw [decodeMajor, h]; rfl

theorem decodeMajor_of_op_0A {w : Words} (h : w.op = 0x0A) : decodeMajor w = decode0A w := by
  rw [decodeMajor, h]; rfl

/-- NOP and SEL have no check beyond their fields. -/
theorem Instr.check_nop (g : Guard) : (Instr.nop g).check = none := by rfl
theorem Instr.check_sel (g : Guard) (inv : Bool) (sel : BitVec 3) (d a b : BitVec 5) : (Instr.sel g inv sel d a b).check = none := by rfl

/-- OP 0x00 with F 0 is NOP when the fields it does not use are zero, and else a word with a nonzero reserved field (R68, R121). -/
theorem decodeWords_packR_nop (d a b : BitVec 5) (g : Guard) :
    decodeWords ⟨packR 0 0 d a b g 0, 0, 0, 0, 0⟩ = if d = 0 ∧ a = 0 ∧ b = 0 then .ok (.nop g) else .error .reservedField := by
  have hhead : headCheck (packR 0 0 d a b g 0) = none := headCheck_packR ..
  rw [decodeWords_of_headCheck hhead, decodeMajor_of_op_00 (Words.op_packR ..)]
  simp [decode00, Words.accept, Instr.check_nop]

/-- OP 0x00 has no function above 7 (R121). -/
theorem decodeWords_packR_00_unassigned (d a b : BitVec 5) (g : Guard) {f : BitVec 4} (hf : 8 ≤ f.toNat) :
    decodeWords ⟨packR 0 0 d a b g f, 0, 0, 0, 0⟩ = .error .noSuchFunction := by
  have hhead : headCheck (packR 0 0 d a b g f) = some .noSuchFunction := by
    simp [headCheck_packR, headFields, hf]
  simp only [decodeWords, hhead]

/-- OP 0x0A with L 00 is SEL, F[3] its inversion and F[2:0] its predicate (R112). -/
theorem decodeWords_packR_sel (g : Guard) (inv : Bool) (sel : BitVec 3) (d a b : BitVec 5) :
    decodeWords ⟨packR 0 0x0A d a b g (bit inv ++ sel), 0, 0, 0, 0⟩ = .ok (.sel g inv sel d a b) := by
  have hhead : headCheck (packR 0 0x0A d a b g (bit inv ++ sel)) = none := headCheck_packR ..
  have hinv : (bit inv ++ sel).getLsbD 3 = inv := by
    simp only [bit, BitVec.getLsbD_append]; simp
  have hsel : (bit inv ++ sel).extractLsb' 0 3 = sel := BitVec.extractLsb'_append_eq_right
  rw [decodeWords_of_headCheck hhead, decodeMajor_of_op_0A (Words.op_packR ..), decode0A, Words.f_packR, hinv, hsel]
  simp [Words.accept, Instr.check_sel]

end Sys2Proof

namespace Sys2Proof.Machine

/-! ### A fetch leaves the strands as they are -/

theorem Res.bind_eq_ok {α β : Type} {r : Res α} {f : α → Res β} {y : β} : r.bind f = .ok y ↔ ∃ x, r = .ok x ∧ f x = .ok y := by
  cases r <;> simp [Res.bind]

theorem codeWord_slots (s : State) (w since : Nat) : (s.codeWord w since).2.slots = s.slots := by
  unfold State.codeWord
  split <;> rfl

theorem flitsTo_slots (s : State) (flat n : Nat) : (s.flitsTo flat n).slots = s.slots := by
  unfold State.flitsTo
  split
  · rfl
  · split <;> rfl

theorem fetchWord_slots {s t : State} {n : Nat} {st : Strand} {va : BitVec 64} {w : BitVec 32} (h : s.fetchWord n st va = .ok (w, t)) :
    t.slots = s.slots := by
  obtain ⟨spot, -, h⟩ := Res.bind_eq_ok.1 h
  split at h
  · cases h
  · split at h
    · cases h
    · cases h
      rw [flitsTo_slots, codeWord_slots]

theorem fetchMore_slots {n : Nat} {st : Strand} {k : Nat} : ∀ {s t : State} {va : BitVec 64} {ws : List (BitVec 32)},
    s.fetchMore n st va k = .ok (ws, t) → t.slots = s.slots := by
  induction k with
  | zero => intro s t va ws h; cases h; rfl
  | succ k ih =>
    intro s t va ws h
    obtain ⟨⟨w, s1⟩, hw, h⟩ := Res.bind_eq_ok.1 h
    obtain ⟨⟨ws', s2⟩, hws, h⟩ := Res.bind_eq_ok.1 h
    cases h
    rw [ih hws, fetchWord_slots hw]

theorem fetchWords_slots {s t : State} {n : Nat} {st : Strand} {w : Words} (h : s.fetchWords n st = .ok (w, t)) : t.slots = s.slots := by
  obtain ⟨⟨w0, s1⟩, hw, h⟩ := Res.bind_eq_ok.1 h
  split at h
  · cases h
    exact fetchWord_slots hw
  · obtain ⟨⟨ws, s2⟩, hws, h⟩ := Res.bind_eq_ok.1 h
    cases h
    rw [fetchMore_slots hws, fetchWord_slots hw]

/-! ### What the instructions mean -/

theorem exec_nop (g : Guard) (s : State) : exec (.nop g) s = runBody (fun st s => .ok (s.setMe (st.advance 1))) s := by rfl

theorem exec_sel (g : Guard) (inv : Bool) (sel : BitVec 3) (d a b : Reg) (s : State) :
    exec (.sel g inv sel d a b) s = runBody (selBody g inv sel d a b) s := by rfl

theorem exec_illegalInstrIssue (n : Nat) (s : State) : exec (.illegalInstrIssue n) s = .next (s.illegalIssue n) := by rfl

/-- A strand whose fetched words do not decode has ILLEGAL_INSTR delivered to its slot when they issue (R70). -/
theorem issueSlot_of_decode_error {s s1 : State} {n : Nat} {st : Strand} {w : Words} {r : Reject} (late : Bool) (hst : s.strand? n = some st)
    (hft : st.firstTrap = none) (hw : s.fetchWords n st = .ok (w, s1)) (hr : decodeWords w = .error r) :
    s.issueSlot exec late n = .next ((s1.setStrand n { st with wait := none, yielded := none }).deliver n (illegal 0)) := by
  have hst1 : s1.strand? n = some st := by rw [State.strand?, fetchWords_slots hw]; exact hst
  have hissue : s1.illegalIssue n = (s1.setStrand n { st with wait := none, yielded := none }).deliver n (illegal 0) := by
    simp [State.illegalIssue, hst1]
  simp only [State.issueSlot, hst, hft, hw, hr, exec_illegalInstrIssue, hissue]

/-! ### Reading ports -/

/-- A cell with the first word of a receive queue taken. -/
def Cell.popWord (c : Cell) (q : Nat) : Cell := { c with ports := NMap.set c.ports q { c.port q with words := (c.port q).words.drop 1 } }

theorem popWord_port_words (c : Cell) (q : Nat) : ((c.popWord q).port q).words = (c.port q).words.drop 1 := by
  simp [Cell.popWord, Cell.port]

theorem popPorts_cons_of_port (c : Cell) {r : Reg} (rest : List Reg) (h : isPort r = true) :
    popPorts c (r :: rest) = (some ((c.port (r.toNat - 28)).words.headD 0) :: (popPorts (c.popWord (r.toNat - 28)) rest).1,
      (popPorts (c.popWord (r.toNat - 28)) rest).2) := by
  simp [popPorts, h, Cell.popWord]

theorem popPorts_cons_of_reg (c : Cell) {r : Reg} (rest : List Reg) (h : isPort r = false) :
    popPorts c (r :: rest) = (none :: (popPorts c rest).1, (popPorts c rest).2) := by
  simp [popPorts, h]

/-- A destination that is no port leads nowhere. -/
theorem sendTarget_of_reg (s : State) (st : Strand) {d : Reg} (h : isPort d = false) : s.sendTarget st (some d) = none := by
  simp [State.sendTarget, h]

/-- A strand that is no codelet and has nothing outstanding reads at once from the receive queues it owns, where each holds a word for every time it
is named: all pops happen as one step (R15, R101). -/
theorem readSources_pops {st : Strand} {s : State} {srcs : List Reg} {d : Reg} (hset : st.Settled) (hcdl : st.cdl = false) (hd : isPort d = false)
    (hport : srcs.any isPort = true)
    (hown : ∀ r ∈ srcs, isPort r = true → ((s.cell (cellOf s.actor)).port (r.toNat - 28)).owner = some (st.part, st.launch, slotOf s.actor))
    (hwords : ∀ r ∈ srcs, isPort r = true →
      ((srcs.filter isPort).filter (· == r)).length ≤ ((s.cell (cellOf s.actor)).port (r.toNat - 28)).words.length) :
    readSources st s srcs (some d) =
      .ok (List.zipWith (fun r v => v.getD (st.g r)) srcs (popPorts (s.cell (cellOf s.actor)) srcs).1,
        s.setCell (cellOf s.actor) (popPorts (s.cell (cellOf s.actor)) srcs).2) := by
  have hpend : ((srcs ++ (some d).toList).any st.pendingG || [].any st.pendingV) = false := by simp [Strand.pendingG, hset.window]
  have hpoison : st.poisonOf (srcs ++ (some d).toList) [] = none := by simp [Strand.poisonOf, hset.poison]
  have htrap : s.portTrap st srcs (some d) = none := by
    have hall : (srcs.filter isPort).any (fun r =>
        ((s.cell (cellOf s.actor)).port (r.toNat - 28)).owner != some (st.part, st.launch, slotOf s.actor)) = false := by
      simpa using hown
    simp only [State.portTrap, hall, sendTarget_of_reg s st hd, Bool.false_eq_true, if_false]
  have hshort : (srcs.filter isPort).any (fun r => decide (((s.cell (cellOf s.actor)).port (r.toNat - 28)).words.length
      < ((srcs.filter isPort).filter (· == r)).length)) = false := by
    simpa using hwords
  have hreads : (srcs.filter isPort).isEmpty = false := by
    simpa [List.isEmpty_eq_false_iff, List.filter_eq_nil_iff] using hport
  have hnamed : (srcs ++ (some d).toList).any isPort = true := by simp [hport]
  unfold readSources
  simp only [hpend, hpoison, htrap, hshort, hreads, hnamed, hcdl, sendTarget_of_reg s st hd]
  simp

section
variable {st : Strand} {s : State} {d p r : Reg} {x : BitVec 64} {xs : List (BitVec 64)}
variable (hset : st.Settled) (hcdl : st.cdl = false) (hd : isPort d = false) (hr : isPort r = false) (hp : isPort p = true)
variable (hown : ((s.cell (cellOf s.actor)).port (p.toNat - 28)).owner = some (st.part, st.launch, slotOf s.actor))
variable (hwords : ((s.cell (cellOf s.actor)).port (p.toNat - 28)).words = x :: xs)
include hset hcdl hd hr hp hown hwords

/-- A port and a register: the word at the head of the queue and the register's value, and the word is gone. -/
theorem readSources_port_reg : readSources st s [p, r] (some d)
    = .ok ([x, st.g r], s.setCell (cellOf s.actor) ((s.cell (cellOf s.actor)).popWord (p.toNat - 28))) := by
  rw [readSources_pops hset hcdl hd (by simp [hp]) (by simp [hp, hr, hown]) (by simp [hp, hr, hwords]),
    popPorts_cons_of_port _ _ hp, popPorts_cons_of_reg _ _ hr, hwords]
  rfl

/-- The same in the other order of the operands. -/
theorem readSources_reg_port : readSources st s [r, p] (some d)
    = .ok ([st.g r, x], s.setCell (cellOf s.actor) ((s.cell (cellOf s.actor)).popWord (p.toNat - 28))) := by
  rw [readSources_pops hset hcdl hd (by simp [hp]) (by simp [hp, hr, hown]) (by simp [hp, hr, hwords]),
    popPorts_cons_of_reg _ _ hr, popPorts_cons_of_port _ _ hp, hwords]
  rfl

end

/-- A destination that is no port is a register of the strand (R9). -/
theorem writeDest_of_reg (st : Strand) (s : State) {d : Reg} (v : BitVec 64) (h : isPort d = false) : writeDest st s d v = s.setMe (st.setG d v) := by
  simp [writeDest, h]

theorem setG_advance (st : Strand) (w : Nat) (d : Reg) (v : BitVec 64) : (st.advance w).setG d v = (st.setG d v).advance w := by
  simp only [Strand.setG]
  split
  · rfl
  · split <;> rfl

@[simp] theorem setMe_cell (s : State) (st : Strand) (n : Nat) : (s.setMe st).cell n = s.cell n := rfl

@[simp] theorem setCell_cell_self (s : State) (n : Nat) (c : Cell) : (s.setCell n c).cell n = c := by
  simp [State.cell]

/-! ### NOP -/

/-- For a strand that does not wait, to retire one word is to move its PC and to let go of the instruction. -/
theorem advance_one_of_wait_none {st : Strand} (h : st.wait = none) : st.advance 1 = { st with pc := st.pc + 4, held := none } := by
  simp [Strand.advance, h]

/-- Settles O41: the decoder's answer for OP 0x00, NOP's meaning, and the issue of a word that does not decode. -/
theorem nopEncoding : Obligations.NopEncoding := by
  refine ⟨fun g rest => ?_, fun g s st hme hwait _ => ?_, fun d a b g f s s1 n st hbad hst hft hw late => ?_⟩
  · exact decodeList_cons_of_wordCount_one rest (wordCount_packR_base ..) (decodeWords_packR_nop 0 0 0 g)
  · rw [exec_nop, ← advance_one_of_wait_none hwait]
    exact runBody_ok hme rfl
  · obtain ⟨rfl, hfields⟩ | hf := hbad
    · refine issueSlot_of_decode_error late hst hft hw (r := .reservedField) ?_
      rw [decodeWords_packR_nop, if_neg (by tauto)]
    · exact issueSlot_of_decode_error late hst hft hw (decodeWords_packR_00_unassigned d a b g hf)

/-! ### SEL -/

/-- SEL writes the first of the values read where its predicate says so, else the second. -/
theorem exec_sel_of_reads {g : Guard} (inv : Bool) (sel : BitVec 3) {d a b : Reg} {s s1 : State} {st : Strand} {x y : BitVec 64}
    (hrun : Claims.Runs s st g) (hread : readSources st s [a, b] (some d) = .ok ([x, y], s1)) :
    exec (.sel g inv sel d a b) s = .next (writeDest (st.advance 1) s1 d (if ((st.p sel).getLsbD 0 ^^ inv) = true then x else y)) := by
  rw [exec_sel]
  apply runBody_ok hrun.me
  rw [selBody, guarded_of_allows hrun.go, hread]
  rfl

/-- SEL behind a false guard only advances the PC (R73). -/
theorem exec_sel_of_not_allows {g : Guard} (inv : Bool) (sel : BitVec 3) (d a b : Reg) {s : State} {st : Strand} (hme : s.me? = some st)
    (hg : st.allows g = false) : exec (.sel g inv sel d a b) s = .next (s.setMe (st.advance 1)) := by
  rw [exec_sel]
  exact runBody_ok hme (guarded_of_not_allows hg)

/-- SEL whose reads leave the acting strand's cell as `c` ends in a state with that cell, whichever value it chooses. -/
theorem exec_sel_keeps_popped_cell {g : Guard} (inv : Bool) (sel : BitVec 3) {d a b : Reg} {s : State} {st : Strand} {x y : BitVec 64} {n : Nat} {c : Cell}
    (hrun : Claims.Runs s st g) (hd : isPort d = false) (hread : readSources st s [a, b] (some d) = .ok ([x, y], s.setCell n c)) :
    ∃ t : State, exec (.sel g inv sel d a b) s = .next t ∧ t.cell n = c
      ∧ t.me? = some ((st.setG d (if ((st.p sel).getLsbD 0 ^^ inv) = true then x else y)).advance 1) := by
  refine ⟨_, exec_sel_of_reads inv sel hrun hread, ?_⟩
  rw [writeDest_of_reg _ _ _ hd, setG_advance]
  simp

/-- Settles O42: the decoder's answer for OP 0x0A, SEL's value, its false guard, and the queue that a port in A or in B leaves. -/
theorem selChooses : Obligations.SelChooses := by
  refine ⟨fun g inv sel d a b rest => ?_, fun g inv sel d a b s st x y s1 hrun hread => exec_sel_of_reads inv sel hrun hread,
    fun g inv sel d a b s st hme hg => exec_sel_of_not_allows inv sel d a b hme hg,
    fun g inv sel d p r q s st x xs hrun hset hcdl hd hr _ hp hown hwords => ?_⟩
  · exact decodeList_cons_of_wordCount_one rest (wordCount_packR_base ..) (decodeWords_packR_sel g inv sel d a b)
  · have hport : isPort p = true := by simp [isPort, hp]
    obtain rfl : q = p.toNat - 28 := by omega
    have hpopped : (((s.cell (cellOf s.actor)).popWord (p.toNat - 28)).port (p.toNat - 28)).words = xs := by
      rw [popWord_port_words, hwords]; rfl
    obtain ⟨t, ht, htc, htm⟩ := exec_sel_keeps_popped_cell inv sel hrun hd (readSources_port_reg hset hcdl hd hr hport hown hwords)
    obtain ⟨u, hu, huc, hum⟩ := exec_sel_keeps_popped_cell inv sel hrun hd (readSources_reg_port hset hcdl hd hr hport hown hwords)
    exact ⟨t, u, ht, hu, by rw [htc, hpopped], by rw [huc, hpopped], htm, hum⟩

end Sys2Proof.Machine
end

section
/-! PROOFS. The trap instruction of R230: what BREAK carries, and the entry of a handler (R229) as far as TRAP needs it. -/

namespace Sys2Proof.Machine

/-! ### The entry of a handler -/

/-- A strand as it enters its handler at a vector with a trap (R229); a trap that reports a poisoned line takes that line off the list. -/
def Strand.enterHandler (st : Strand) (vector : Nat) (t : Trap) : Strand :=
  { st with
    wait := none, held := none, trapPend := none
    poison := st.poison.filter fun p => !(t.cause == 6 && t.sub == 4 && p.2 == t.faddr)
    epc := if t.brk then st.pc + 4 else st.pc
    cause := BitVec.ofNat 16 (t.sub.toNat * 256 + t.cause.toNat)
    faddr := t.faddr, hm := true, pc := BitVec.ofNat 64 vector }

/-- Outside handler mode, and with a vector, a trap taken enters the handler (R229). -/
theorem takeTrap_of_vector {s : State} {n : Nat} {st : Strand} (t : Trap) (hst : s.strand? n = some st) (hhm : st.hm = false)
    (hvec : s.vectorOf st ≠ 0) : s.takeTrap n t = s.setStrand n (st.enterHandler (s.vectorOf st) t) := by
  simp only [State.takeTrap, hst]
  exact if_neg (by simp [hhm, hvec])

/-- A trap of a strand whose accesses are performed is taken at once (R229). -/
theorem deliver_of_drained {s : State} {n : Nat} {st : Strand} (t : Trap) (hst : s.strand? n = some st) (hdr : st.drained = true) :
    s.deliver n t = s.takeTrap n t := by
  simp only [State.deliver, hst]
  exact if_pos hdr

/-- A trap of the acting strand that enters the handler at once changes that strand alone. -/
theorem deliver_actor_enters_handler {s : State} {st : Strand} (t : Trap) (hme : s.me? = some st) (hdr : st.drained = true) (hhm : st.hm = false)
    (hvec : s.vectorOf st ≠ 0) : s.deliver s.actor t = s.setMe (st.enterHandler (s.vectorOf st) t) :=
  (deliver_of_drained t hme hdr).trans (takeTrap_of_vector t hme hhm hvec)

/-! ### TRAP -/

/-- BREAK with a TRAP's code as its subcode, which saves the PC past the TRAP (R230). -/
def breakTrap (code : BitVec 5) : Trap := ⟨0x0F, code.setWidth 8, 0, true⟩

theorem exec_trap (g : Guard) (code : BitVec 5) (s : State) : exec (.trap g code) s = runBody (trapBody g code) s := by rfl

/-- A TRAP whose guard allows raises BREAK in the acting slot (R230). -/
theorem exec_trap_of_runs {g : Guard} (code : BitVec 5) {s : State} {st : Strand} (hrun : Claims.Runs s st g) :
    exec (.trap g code) s = .next (s.deliver s.actor (breakTrap code)) := by
  rw [exec_trap]
  exact runBody_trap hrun.me (guarded_of_allows hrun.go)

/-- A TRAP whose guard is false only advances the PC (R73). -/
theorem exec_trap_of_not_allows {g : Guard} (code : BitVec 5) {s : State} {st : Strand} (hme : s.me? = some st) (hg : st.allows g = false) :
    exec (.trap g code) s = .next (s.setMe (st.advance 1)) := by
  rw [exec_trap]
  exact runBody_ok hme (guarded_of_not_allows hg)

/-- Predicate p0 holds all ones (R22), so that !p0 never allows. -/
theorem allows_not_p0 (st : Strand) : st.allows ⟨true, 0⟩ = false := by
  simp [Strand.allows, Strand.mask, Strand.p]

/-- The cause register of a strand that BREAK sent to its handler: the code over the cause of BREAK (R230). -/
theorem enterHandler_breakTrap_cause (st : Strand) (vector : Nat) (code : BitVec 5) :
    (st.enterHandler vector (breakTrap code)).cause = BitVec.ofNat 16 (code.toNat * 256 + 0x0F) := by
  have hsub : (code.setWidth 8).toNat = code.toNat := BitVec.toNat_setWidth_of_le (by decide)
  simp [Strand.enterHandler, breakTrap, hsub]

/-- Settles O22: a TRAP that its guard allows raises BREAK, which enters the handler where there is one, and any other only advances the PC. -/
theorem trapBreaks : Obligations.TrapBreaks := by
  refine ⟨fun g code s st hrun => ?_, fun g code s st hme hg => exec_trap_of_not_allows code hme hg, allows_not_p0⟩
  have hexec : exec (.trap g code) s = .next (s.deliver s.actor (breakTrap code)) := exec_trap_of_runs code hrun
  refine ⟨hexec, fun hdr hhm hvec => ⟨_, hexec, st.enterHandler (s.vectorOf st) (breakTrap code), ?_⟩⟩
  refine ⟨?_, enterHandler_breakTrap_cause .., rfl, rfl, rfl, rfl⟩
  rw [deliver_actor_enters_handler _ hrun.me hdr hhm hvec, me?_setMe]

end Sys2Proof.Machine
end
